-- ==== Sys2Proof/Word.lean ====
section
/-! DEFINITION. The word types of the TY7-45B: bytes and 64-bit register words (R4, R92). -/

namespace Sys2Proof

/-- A byte of memory. -/
abbrev Byte := BitVec 8

/-- A 64-bit register value. -/
abbrev Word := BitVec 64

end Sys2Proof
end

