-- ==== Sys2Proof/Syntax.lean ====
section
/-! DEFINITION. The instructions and device operations of the TY7-45B: one constructor of `Instr` for each row of the
opcode table. The first 245 are the encoded instructions of R65 to R87; the others are the operations and events that
the front end, firmware, the host, the engines and the power and management controllers perform as whole steps. -/

namespace Sys2Proof

/-- A 5-bit register field: x0 to x31 or v0 to v31 (R68). -/
abbrev Reg := Fin 32

/-- A 3-bit predicate field: p0 to p7 (R68). -/
abbrev PReg := Fin 8

/-- The element types of the t3 field (R69). -/
inductive ElemType where
  | i8 | i16 | i32 | i64 | bf16 | f16 | f32 | f64
  deriving DecidableEq, Repr

/-- The floating types of the t2 field (R69). -/
inductive FloatType where
  | bf16 | f16 | f32 | f64
  deriving DecidableEq, Repr

/-- The load sizes of the sz3 field (R75); code 111 is LDQ. -/
inductive LoadSize where
  | s8 | s16 | s32 | b64 | z8 | z16 | z32
  deriving DecidableEq, Repr

/-- The store sizes of the sz3 field (R75); code 111 is STQ. -/
inductive StoreSize where
  | b8 | b16 | b32 | b64
  deriving DecidableEq, Repr

/-- The scopes of FENCE (R78, R131). -/
inductive Scope where
  | slot | core | clus | die | pkg | sys
  deriving DecidableEq, Repr

/-- The kinds of FENCE (R78, R134). -/
inductive FenceKind where
  | acq | rel | ar | sc
  deriving DecidableEq, Repr

/-- A physical core: BI core (by the logical number it carries, R16), SI core 0 to 7, or the firmware core of a die (R15). -/
inductive PCore where
  | bi (l : Nat) | si (k : Nat) | fw (die : Nat)
  deriving DecidableEq, Repr

/-- A hardware slot: a physical core and a slot index (R14). -/
structure SlotId where
  core : PCore
  idx : Nat
  deriving DecidableEq, Repr

/-- A command queue of the front end: a user queue 0 to 4095 or the driver queue (R361). -/
inductive QueueRef where
  | user (n : Nat) | driver
  deriving DecidableEq, Repr

/-- An engine queue: matrix, copy and gather queue of a cluster (island and physical number), or a CMVU (R138). -/
inductive EngineQueue where
  | matrix (si : Bool) (clus : Nat) | copy (si : Bool) (clus : Nat) | gather (si : Bool) (clus : Nat) | cmvu (n : Nat)
  deriving DecidableEq, Repr

/-- The register fields outside the instruction set that the host, the driver or firmware writes and that only store
per their kind (R6): the late bit of BAR0 0x0020 (R359), the driver queue header at BAR0 0x0100 (R361), SCRB (R377),
THR of a cluster (R353), the mailbox length and data buffer (R370), and the driver's fold map of a context (R342, DEDUCED log 29). -/
inductive HostReg where
  | featStatus | driverHeader | scrb | thr (si : Bool) (clus : Nat) | mboxLength | mboxData (off : Nat)
  | fold (ctx clus : Nat)
  deriving DecidableEq, Repr

/-- What the outside, or the choice of the moment, supplies to an operation or event of the device: the rows that have
no encoding carry no operands of their own, and `State.arg` holds these while the step is made. Each event's meaning
says which of the fields it reads. -/
structure EventArg where
  ctx : Nat := 0
  i : Nat := 0
  k : Nat := 0
  word : Word := 0
  bytes : List Byte := []
  temps : List Int := []
  maps : Option (List (Nat × Word)) := none
  slot : SlotId := ⟨.fw 0, 0⟩
  queue : QueueRef := .driver
  eng : EngineQueue := .cmvu 0
  reg : HostReg := .featStatus
  flag : Bool := false
  deriving DecidableEq, Repr

/-- One constructor for each row of the opcode table. The constructors with operands stand first, those without after
them, and the operations and events of the device (whose data stands in `EventArg`) last. -/
inductive Instr where
  /-- 16-bit form C.VADDF (R65). -/
  | cVaddf (d : Reg) (s : Reg) (t : Bool)
  /-- 16-bit form C.VSUBF (R65). -/
  | cVsubf (d : Reg) (s : Reg) (t : Bool)
  /-- 16-bit form C.VMULF (R65). -/
  | cVmulf (d : Reg) (s : Reg) (t : Bool)
  /-- 16-bit form C.VMAXF (R65). -/
  | cVmaxf (d : Reg) (s : Reg) (t : Bool)
  /-- 16-bit form C.VMINF (R65). -/
  | cVminf (d : Reg) (s : Reg) (t : Bool)
  /-- 16-bit form C.VADDI (R65). -/
  | cVaddi (d : Reg) (s : Reg) (t : Bool)
  /-- 16-bit form C.VSUBI (R65). -/
  | cVsubi (d : Reg) (s : Reg) (t : Bool)
  /-- 16-bit form C.VMULI (R65). -/
  | cVmuli (d : Reg) (s : Reg) (t : Bool)
  /-- 16-bit form C.VMAXI (R65). -/
  | cVmaxi (d : Reg) (s : Reg) (t : Bool)
  /-- 16-bit form C.VMINI (R65). -/
  | cVmini (d : Reg) (s : Reg) (t : Bool)
  /-- 16-bit form C.VAND (R65). -/
  | cVand (d : Reg) (s : Reg)
  /-- 16-bit form C.VOR (R65). -/
  | cVor (d : Reg) (s : Reg)
  /-- 16-bit form C.VXOR (R65). -/
  | cVxor (d : Reg) (s : Reg)
  /-- 16-bit form C.VMOV (R65). -/
  | cVmov (d : Reg) (s : Reg)
  /-- 16-bit form C.VNEGF (R65). -/
  | cVnegf (d : Reg) (s : Reg) (t : Bool)
  /-- 16-bit form C.VABSF (R65). -/
  | cVabsf (d : Reg) (s : Reg) (t : Bool)
  /-- ADD xd, xa, xb (R148). -/
  | add (d : Reg) (a : Reg) (b : Reg)
  /-- SUB xd, xa, xb (R148). -/
  | sub (d : Reg) (a : Reg) (b : Reg)
  /-- MUL xd, xa, xb (R148). -/
  | mul (d : Reg) (a : Reg) (b : Reg)
  /-- MULH xd, xa, xb (R148). -/
  | mulh (d : Reg) (a : Reg) (b : Reg)
  /-- MULHZ xd, xa, xb (R148). -/
  | mulhz (d : Reg) (a : Reg) (b : Reg)
  /-- DIV xd, xa, xb (R148). -/
  | div (d : Reg) (a : Reg) (b : Reg)
  /-- DIVZ xd, xa, xb (R148). -/
  | divz (d : Reg) (a : Reg) (b : Reg)
  /-- REM xd, xa, xb (R148). -/
  | rem (d : Reg) (a : Reg) (b : Reg)
  /-- REMZ xd, xa, xb (R148). -/
  | remz (d : Reg) (a : Reg) (b : Reg)
  /-- AND xd, xa, xb (R148). -/
  | and (d : Reg) (a : Reg) (b : Reg)
  /-- OR xd, xa, xb (R148). -/
  | or (d : Reg) (a : Reg) (b : Reg)
  /-- XOR xd, xa, xb (R148). -/
  | xor (d : Reg) (a : Reg) (b : Reg)
  /-- ANDN xd, xa, xb (R148). -/
  | andn (d : Reg) (a : Reg) (b : Reg)
  /-- SHL xd, xa, xb (R148). -/
  | shl (d : Reg) (a : Reg) (b : Reg)
  /-- SHR xd, xa, xb (R148). -/
  | shr (d : Reg) (a : Reg) (b : Reg)
  /-- SAR xd, xa, xb (R148). -/
  | sar (d : Reg) (a : Reg) (b : Reg)
  /-- CLZ xd, xa (R148). -/
  | clz (d : Reg) (a : Reg)
  /-- CTZ xd, xa (R148). -/
  | ctz (d : Reg) (a : Reg)
  /-- POPC xd, xa (R148). -/
  | popc (d : Reg) (a : Reg)
  /-- MIN xd, xa, xb (R148). -/
  | min (d : Reg) (a : Reg) (b : Reg)
  /-- MAX xd, xa, xb (R148). -/
  | max (d : Reg) (a : Reg) (b : Reg)
  /-- MINZ xd, xa, xb (R148). -/
  | minz (d : Reg) (a : Reg) (b : Reg)
  /-- MAXZ xd, xa, xb (R148). -/
  | maxz (d : Reg) (a : Reg) (b : Reg)
  /-- SLT xd, xa, xb (R148). -/
  | slt (d : Reg) (a : Reg) (b : Reg)
  /-- SLO xd, xa, xb (R148). -/
  | slo (d : Reg) (a : Reg) (b : Reg)
  /-- SEL xd, xa, xb, xc, with c in e5 (R150). -/
  | sel (d : Reg) (a : Reg) (b : Reg) (c : Reg)
  /-- EXT xd, xa, xb, len, with e5 = len - 1 (R150). -/
  | ext (d : Reg) (a : Reg) (b : Reg) (e : Fin 32)
  /-- INS xd, xa, xb, len, with e5 = len - 1 (R150). -/
  | ins (d : Reg) (a : Reg) (b : Reg) (e : Fin 32)
  /-- ADDX xd, xa, xb, s, with e5 = s (R150). -/
  | addx (d : Reg) (a : Reg) (b : Reg) (e : Fin 32)
  /-- ADDI xd, xa, imm (R151). -/
  | addi (d : Reg) (a : Reg) (imm : BitVec 15)
  /-- ANDI xd, xa, imm (R151). -/
  | andi (d : Reg) (a : Reg) (imm : BitVec 15)
  /-- ORI xd, xa, imm (R151). -/
  | ori (d : Reg) (a : Reg) (imm : BitVec 15)
  /-- XORI xd, xa, imm (R151). -/
  | xori (d : Reg) (a : Reg) (imm : BitVec 15)
  /-- SHLI xd, xa, count (R151). -/
  | shli (d : Reg) (a : Reg) (n : Fin 64)
  /-- SHRI xd, xa, count (R151). -/
  | shri (d : Reg) (a : Reg) (n : Fin 64)
  /-- SARI xd, xa, count (R151). -/
  | sari (d : Reg) (a : Reg) (n : Fin 64)
  /-- SLTI xd, xa, imm (R151). -/
  | slti (d : Reg) (a : Reg) (imm : BitVec 15)
  /-- SLOI xd, xa, imm (R151). -/
  | sloi (d : Reg) (a : Reg) (imm : BitVec 15)
  /-- MULI xd, xa, imm (R151). -/
  | muli (d : Reg) (a : Reg) (imm : BitVec 15)
  /-- LDHI xd, imm (R152). -/
  | ldhi (d : Reg) (imm : BitVec 20)
  /-- ADPC xd, imm (R152). -/
  | adpc (d : Reg) (imm : BitVec 20)
  /-- J label (R153). -/
  | j (off : BitVec 25)
  /-- JAL label (R153). -/
  | jal (off : BitVec 25)
  /-- JALR xd, xa, imm with d not 0 (R153). -/
  | jalr (d : Reg) (a : Reg) (imm : BitVec 15)
  /-- JR xa, imm: JALR with d = 0 (R153). -/
  | jr (a : Reg) (imm : BitVec 15)
  /-- BEQ xa, xb, label (R154). -/
  | beq (a : Reg) (b : Reg) (off : BitVec 15)
  /-- BNE xa, xb, label (R154). -/
  | bne (a : Reg) (b : Reg) (off : BitVec 15)
  /-- BLT xa, xb, label (R154). -/
  | blt (a : Reg) (b : Reg) (off : BitVec 15)
  /-- BGE xa, xb, label (R154). -/
  | bge (a : Reg) (b : Reg) (off : BitVec 15)
  /-- BLO xa, xb, label (R154). -/
  | blo (a : Reg) (b : Reg) (off : BitVec 15)
  /-- BHS xa, xb, label (R154). -/
  | bhs (a : Reg) (b : Reg) (off : BitVec 15)
  /-- DBNZ xa, label (R155). -/
  | dbnz (a : Reg) (off : BitVec 15)
  /-- BPA pb, label, pg (R156). -/
  | bpa (g : PReg) (b : PReg) (off : BitVec 15)
  /-- BPN pb, label, pg (R156). -/
  | bpn (g : PReg) (b : PReg) (off : BitVec 15)
  /-- LD.sz xd, [xa, off] (R158). -/
  | ld (z : LoadSize) (d : Reg) (a : Reg) (off : BitVec 12)
  /-- LDQ xd, [xa, off] (R159). -/
  | ldq (d : Reg) (a : Reg) (off : BitVec 12)
  /-- ST.sz xs, [xa, off] (s in d) (R158). -/
  | st (z : StoreSize) (d : Reg) (a : Reg) (off : BitVec 12)
  /-- STQ xs, [xa, off] (s in d) (R159). -/
  | stq (d : Reg) (a : Reg) (off : BitVec 12)
  /-- LDX.sz xd, [xa, xb] (R158). -/
  | ldx (z : LoadSize) (d : Reg) (a : Reg) (b : Reg)
  /-- STX.sz xs, [xa, xb] (s in d) (R158). -/
  | stx (z : StoreSize) (d : Reg) (a : Reg) (b : Reg)
  /-- PF xa, xb (R160). -/
  | pf (a : Reg) (b : Reg)
  /-- SMAP xa, xb (R161). -/
  | smap (a : Reg) (b : Reg)
  /-- SWB xa, xb (R162). -/
  | swb (a : Reg) (b : Reg)
  /-- SDROP xa, xb (R162). -/
  | sdrop (a : Reg) (b : Reg)
  /-- CFL xa, xb (R163). -/
  | cfl (a : Reg) (b : Reg)
  /-- CINV xa, xb (R163). -/
  | cinv (a : Reg) (b : Reg)
  /-- CBTAKE xd, xa (R165). -/
  | cbtake (d : Reg) (a : Reg)
  /-- CBGIVE xa, xb (R166). -/
  | cbgive (a : Reg) (b : Reg)
  /-- AMO.ADD xd, [xa], xb (R168). -/
  | amoAdd (d : Reg) (a : Reg) (b : Reg) (aq : Bool) (rl : Bool) (w : Bool)
  /-- AMO.AND xd, [xa], xb (R168). -/
  | amoAnd (d : Reg) (a : Reg) (b : Reg) (aq : Bool) (rl : Bool) (w : Bool)
  /-- AMO.OR xd, [xa], xb (R168). -/
  | amoOr (d : Reg) (a : Reg) (b : Reg) (aq : Bool) (rl : Bool) (w : Bool)
  /-- AMO.XOR xd, [xa], xb (R168). -/
  | amoXor (d : Reg) (a : Reg) (b : Reg) (aq : Bool) (rl : Bool) (w : Bool)
  /-- AMO.MIN xd, [xa], xb (R168). -/
  | amoMin (d : Reg) (a : Reg) (b : Reg) (aq : Bool) (rl : Bool) (w : Bool)
  /-- AMO.MAX xd, [xa], xb (R168). -/
  | amoMax (d : Reg) (a : Reg) (b : Reg) (aq : Bool) (rl : Bool) (w : Bool)
  /-- AMO.SWP xd, [xa], xb (R168). -/
  | amoSwp (d : Reg) (a : Reg) (b : Reg) (aq : Bool) (rl : Bool) (w : Bool)
  /-- AMO.CAS xd, [xa], xb (R168). -/
  | amoCas (d : Reg) (a : Reg) (b : Reg) (aq : Bool) (rl : Bool) (w : Bool)
  /-- AMO.FADD xd, [xa], xb (R168). -/
  | amoFadd (d : Reg) (a : Reg) (b : Reg) (aq : Bool) (rl : Bool) (w : Bool)
  /-- CAS2 xd, [xa], xb (R169). -/
  | cas2 (d : Reg) (a : Reg) (b : Reg) (aq : Bool) (rl : Bool)
  /-- RED.ADD [xa], xb (R170). -/
  | redAdd (a : Reg) (b : Reg) (aq : Bool) (rl : Bool) (w : Bool)
  /-- RED.FADD [xa], xb (R170). -/
  | redFadd (a : Reg) (b : Reg) (aq : Bool) (rl : Bool) (w : Bool)
  /-- RED.MAX [xa], xb (R170). -/
  | redMax (a : Reg) (b : Reg) (aq : Bool) (rl : Bool) (w : Bool)
  /-- FENCE.scope.kind (R172). -/
  | fence (sc : Scope) (k : FenceKind)
  /-- SPAWN xd, xa, xb (R178). -/
  | spawn (d : Reg) (a : Reg) (b : Reg)
  /-- SPAWNJ xd, xa, xb (R179). -/
  | spawnj (d : Reg) (a : Reg) (b : Reg)
  /-- JDEC xa, xb (R180). -/
  | jdec (a : Reg) (b : Reg)
  /-- JADD xa, xb (R180). -/
  | jadd (a : Reg) (b : Reg)
  /-- BIND xa, xb, xs (s in d) (R181). -/
  | bind (a : Reg) (b : Reg) (d : Reg)
  /-- ENDJ xa (R182). -/
  | endj (a : Reg)
  /-- ENDW.JOIN xa, xb (R184). -/
  | endwJoin (a : Reg) (b : Reg)
  /-- ENDW.JOB xa, xb (R184). -/
  | endwJob (a : Reg) (b : Reg)
  /-- ENDW.CB xa, xb (R184). -/
  | endwCb (a : Reg) (b : Reg)
  /-- ENDW.BAR xa, xb (R184). -/
  | endwBar (a : Reg) (b : Reg)
  /-- ENDW.FEED xa, xb (R184). -/
  | endwFeed (a : Reg) (b : Reg)
  /-- ENDW.ROOM xa, xb (R184). -/
  | endwRoom (a : Reg) (b : Reg)
  /-- ENDW.DQ xa, xb (R184). -/
  | endwDq (a : Reg) (b : Reg)
  /-- SEND xd, xa, xb (R189). -/
  | send (d : Reg) (a : Reg) (b : Reg)
  /-- SENDR xd, xa, xb, xc (c in e5) (R189). -/
  | sendr (d : Reg) (a : Reg) (b : Reg) (c : Reg)
  /-- BARI xa, xb (R191). -/
  | bari (a : Reg) (b : Reg)
  /-- BARA xa (R192). -/
  | bara (a : Reg)
  /-- BARM xa, xb (R192). -/
  | barm (a : Reg) (b : Reg)
  /-- WLPUSH xa, xb (R193). -/
  | wlpush (a : Reg) (b : Reg)
  /-- WLPOP xd (R193). -/
  | wlpop (d : Reg)
  /-- WLCNT xd (R193). -/
  | wlcnt (d : Reg)
  /-- LAUNCH xd, xa (R195). -/
  | launch (d : Reg) (a : Reg)
  /-- FPOP xd, xa (R196). -/
  | fpop (d : Reg) (a : Reg)
  /-- VWID xd (R202). -/
  | vwid (d : Reg)
  /-- PLB.t pd, xa, xb, pg (R203). -/
  | plb (pd : PReg) (a : Reg) (b : Reg) (pg : PReg) (t : ElemType)
  /-- PAND pd, pa, pb, pg (R204). -/
  | pand (pd : PReg) (pa : PReg) (pb : PReg) (pg : PReg)
  /-- POR pd, pa, pb, pg (R204). -/
  | por (pd : PReg) (pa : PReg) (pb : PReg) (pg : PReg)
  /-- PXOR pd, pa, pb, pg (R204). -/
  | pxor (pd : PReg) (pa : PReg) (pb : PReg) (pg : PReg)
  /-- PNOT pd, pa, pg (R204). -/
  | pnot (pd : PReg) (pa : PReg) (pg : PReg)
  /-- PFST.t pd, pa, pg (R205). -/
  | pfst (pd : PReg) (pa : PReg) (pg : PReg) (t : ElemType)
  /-- PCNT.t xd, pa, pg (R205). -/
  | pcnt (d : Reg) (pa : PReg) (pg : PReg) (t : ElemType)
  /-- VADD.t vd, va, vb, pg (R206). -/
  | vadd (d : Reg) (a : Reg) (b : Reg) (pg : PReg) (t : ElemType)
  /-- VSUB.t vd, va, vb, pg (R206). -/
  | vsub (d : Reg) (a : Reg) (b : Reg) (pg : PReg) (t : ElemType)
  /-- VMUL.t vd, va, vb, pg (R206). -/
  | vmul (d : Reg) (a : Reg) (b : Reg) (pg : PReg) (t : ElemType)
  /-- VDIV.t vd, va, vb, pg (R206). -/
  | vdiv (d : Reg) (a : Reg) (b : Reg) (pg : PReg) (t : ElemType)
  /-- VDIV (unsigned).t vd, va, vb, pg (R206). -/
  | vdivUnsigned (d : Reg) (a : Reg) (b : Reg) (pg : PReg) (t : ElemType)
  /-- VMAX.t vd, va, vb, pg (R206). -/
  | vmax (d : Reg) (a : Reg) (b : Reg) (pg : PReg) (t : ElemType)
  /-- VMAX (unsigned).t vd, va, vb, pg (R206). -/
  | vmaxUnsigned (d : Reg) (a : Reg) (b : Reg) (pg : PReg) (t : ElemType)
  /-- VMIN.t vd, va, vb, pg (R206). -/
  | vmin (d : Reg) (a : Reg) (b : Reg) (pg : PReg) (t : ElemType)
  /-- VMIN (unsigned).t vd, va, vb, pg (R206). -/
  | vminUnsigned (d : Reg) (a : Reg) (b : Reg) (pg : PReg) (t : ElemType)
  /-- VABS.t vd, va, pg (R206). -/
  | vabs (d : Reg) (a : Reg) (pg : PReg) (t : ElemType)
  /-- VNEG.t vd, va, pg (R206). -/
  | vneg (d : Reg) (a : Reg) (pg : PReg) (t : ElemType)
  /-- VSEL.t vd, va, vb, pg (pg selects) (R206). -/
  | vsel (d : Reg) (a : Reg) (b : Reg) (pg : PReg) (t : ElemType)
  /-- VSQRT.t vd, va, pg (R208). -/
  | vsqrt (d : Reg) (a : Reg) (pg : PReg) (t : ElemType)
  /-- VRCP.t vd, va, pg (R208). -/
  | vrcp (d : Reg) (a : Reg) (pg : PReg) (t : ElemType)
  /-- VRSQ.t vd, va, pg (R208). -/
  | vrsq (d : Reg) (a : Reg) (pg : PReg) (t : ElemType)
  /-- VEXP2.t vd, va, pg (R208). -/
  | vexp2 (d : Reg) (a : Reg) (pg : PReg) (t : ElemType)
  /-- VLOG2.t vd, va, pg (R208). -/
  | vlog2 (d : Reg) (a : Reg) (pg : PReg) (t : ElemType)
  /-- VTANH.t vd, va, pg (R208). -/
  | vtanh (d : Reg) (a : Reg) (pg : PReg) (t : ElemType)
  /-- VSIN.t vd, va, pg (R208). -/
  | vsin (d : Reg) (a : Reg) (pg : PReg) (t : ElemType)
  /-- VAND.t vd, va, vb, pg (R209). -/
  | vand (d : Reg) (a : Reg) (b : Reg) (pg : PReg) (t : ElemType)
  /-- VOR.t vd, va, vb, pg (R209). -/
  | vor (d : Reg) (a : Reg) (b : Reg) (pg : PReg) (t : ElemType)
  /-- VXOR.t vd, va, vb, pg (R209). -/
  | vxor (d : Reg) (a : Reg) (b : Reg) (pg : PReg) (t : ElemType)
  /-- VNOT.t vd, va, pg (R209). -/
  | vnot (d : Reg) (a : Reg) (pg : PReg) (t : ElemType)
  /-- VSHL.t vd, va, vb, pg (R209). -/
  | vshl (d : Reg) (a : Reg) (b : Reg) (pg : PReg) (t : ElemType)
  /-- VSHR.t vd, va, vb, pg (R209). -/
  | vshr (d : Reg) (a : Reg) (b : Reg) (pg : PReg) (t : ElemType)
  /-- VSAR.t vd, va, vb, pg (R209). -/
  | vsar (d : Reg) (a : Reg) (b : Reg) (pg : PReg) (t : ElemType)
  /-- VCMP.EQ.t pd, va, vb, pg (R210). -/
  | vcmpEq (pd : PReg) (a : Reg) (b : Reg) (pg : PReg) (t : ElemType)
  /-- VCMP.NE.t pd, va, vb, pg (R210). -/
  | vcmpNe (pd : PReg) (a : Reg) (b : Reg) (pg : PReg) (t : ElemType)
  /-- VCMP.LT.t pd, va, vb, pg (R210). -/
  | vcmpLt (pd : PReg) (a : Reg) (b : Reg) (pg : PReg) (t : ElemType)
  /-- VCMP.LE.t pd, va, vb, pg (R210). -/
  | vcmpLe (pd : PReg) (a : Reg) (b : Reg) (pg : PReg) (t : ElemType)
  /-- VCMP.LO.t pd, va, vb, pg (R210). -/
  | vcmpLo (pd : PReg) (a : Reg) (b : Reg) (pg : PReg) (t : ElemType)
  /-- VCMP.LS.t pd, va, vb, pg (R210). -/
  | vcmpLs (pd : PReg) (a : Reg) (b : Reg) (pg : PReg) (t : ElemType)
  /-- VCVT signed vd, va, cv, pg (R211). -/
  | vcvt (d : Reg) (a : Reg) (cv : Fin 32) (pg : PReg) (t : ElemType)
  /-- VCVT unsigned vd, va, cv, pg (R211). -/
  | vcvtUnsigned (d : Reg) (a : Reg) (cv : Fin 32) (pg : PReg) (t : ElemType)
  /-- VQNT vd, va, cv, pg (R213). -/
  | vqnt (d : Reg) (a : Reg) (cv : Fin 32) (pg : PReg) (t : ElemType)
  /-- VDQT vd, va, cv, pg (R214). -/
  | vdqt (d : Reg) (a : Reg) (cv : Fin 32) (pg : PReg) (t : ElemType)
  /-- VRED.ADD d, va, pg (R215). -/
  | vredAdd (d : Reg) (a : Reg) (pg : PReg) (t : ElemType)
  /-- VRED.MAX d, va, pg (R215). -/
  | vredMax (d : Reg) (a : Reg) (pg : PReg) (t : ElemType)
  /-- VRED.MAX (unsigned) d, va, pg (R215). -/
  | vredMaxUnsigned (d : Reg) (a : Reg) (pg : PReg) (t : ElemType)
  /-- VRED.MIN d, va, pg (R215). -/
  | vredMin (d : Reg) (a : Reg) (pg : PReg) (t : ElemType)
  /-- VRED.MIN (unsigned) d, va, pg (R215). -/
  | vredMinUnsigned (d : Reg) (a : Reg) (pg : PReg) (t : ElemType)
  /-- VSCAN.ADD d, va, pg (R215). -/
  | vscanAdd (d : Reg) (a : Reg) (pg : PReg) (t : ElemType)
  /-- VSCAN.MAX d, va, pg (R215). -/
  | vscanMax (d : Reg) (a : Reg) (pg : PReg) (t : ElemType)
  /-- VSCAN.MAX (unsigned) d, va, pg (R215). -/
  | vscanMaxUnsigned (d : Reg) (a : Reg) (pg : PReg) (t : ElemType)
  /-- VARGM.MAX d, va, pg (R215). -/
  | vargmMax (d : Reg) (a : Reg) (pg : PReg) (t : ElemType)
  /-- VARGM.MAX (unsigned) d, va, pg (R215). -/
  | vargmMaxUnsigned (d : Reg) (a : Reg) (pg : PReg) (t : ElemType)
  /-- VARGM.MIN d, va, pg (R215). -/
  | vargmMin (d : Reg) (a : Reg) (pg : PReg) (t : ElemType)
  /-- VARGM.MIN (unsigned) d, va, pg (R215). -/
  | vargmMinUnsigned (d : Reg) (a : Reg) (pg : PReg) (t : ElemType)
  /-- VPERM.t vd, va, vb, pg (R216). -/
  | vperm (d : Reg) (a : Reg) (b : Reg) (pg : PReg) (t : ElemType)
  /-- VBCAST.t vd, xa, pg (R216). -/
  | vbcast (d : Reg) (a : Reg) (pg : PReg) (t : ElemType)
  /-- VEXT.t xd, va, xb, pg (R216). -/
  | vext (d : Reg) (a : Reg) (b : Reg) (pg : PReg) (t : ElemType)
  /-- VINS.t vd, xa, xb, pg (R216). -/
  | vins (d : Reg) (a : Reg) (b : Reg) (pg : PReg) (t : ElemType)
  /-- VIDX.t vd, pg (R216). -/
  | vidx (d : Reg) (pg : PReg) (t : ElemType)
  /-- VMOV.t vd, va, pg (R216). -/
  | vmov (d : Reg) (a : Reg) (pg : PReg) (t : ElemType)
  /-- VLD.t (vs in d) a, b, pg (R218). -/
  | vld (d : Reg) (a : Reg) (b : Reg) (pg : PReg) (t : ElemType)
  /-- VST.t (vs in d) a, b, pg (R218). -/
  | vst (d : Reg) (a : Reg) (b : Reg) (pg : PReg) (t : ElemType)
  /-- VLDS.t (vs in d) a, b, pg (R218). -/
  | vlds (d : Reg) (a : Reg) (b : Reg) (pg : PReg) (t : ElemType)
  /-- VSTS.t (vs in d) a, b, pg (R218). -/
  | vsts (d : Reg) (a : Reg) (b : Reg) (pg : PReg) (t : ElemType)
  /-- VGTH.t (vs in d) a, b, pg (R219). -/
  | vgth (d : Reg) (a : Reg) (b : Reg) (pg : PReg) (t : ElemType)
  /-- VSCT.t (vs in d) a, b, pg (R219). -/
  | vsct (d : Reg) (a : Reg) (b : Reg) (pg : PReg) (t : ElemType)
  /-- VLDT.t (vs in d) a, b, pg (R220). -/
  | vldt (d : Reg) (a : Reg) (b : Reg) (pg : PReg) (t : ElemType)
  /-- VSTT.t (vs in d) a, b, pg (R220). -/
  | vstt (d : Reg) (a : Reg) (b : Reg) (pg : PReg) (t : ElemType)
  /-- VRNG.t vd, pg (R221). -/
  | vrng (d : Reg) (pg : PReg) (t : ElemType)
  /-- VRNGC.t vd, va, vb, pg (R222). -/
  | vrngc (d : Reg) (a : Reg) (b : Reg) (pg : PReg) (t : ElemType)
  /-- VFMA.t vd, va, vb, vc, pg (R207). -/
  | vfma (d : Reg) (a : Reg) (b : Reg) (c : Reg) (pg : PReg) (t : FloatType)
  /-- VFMS.t vd, va, vb, vc, pg (R207). -/
  | vfms (d : Reg) (a : Reg) (b : Reg) (c : Reg) (pg : PReg) (t : FloatType)
  /-- MMA.ec xa, xb, xk, m, n (R233). -/
  | mma (a : Reg) (b : Reg) (c : Reg) (m : Fin 4) (n : Fin 64) (ec : Fin 4)
  /-- MMAG.ec vi, xb, xk, m, n (R237). -/
  | mmag (a : Reg) (b : Reg) (c : Reg) (m : Fin 4) (n : Fin 64) (ec : Fin 4)
  /-- MZERO xd, xa (R238). -/
  | mzero (d : Reg) (a : Reg)
  /-- MLDT xd, xa, xb (R238). -/
  | mldt (d : Reg) (a : Reg) (b : Reg)
  /-- MSTT xd, xa, xb (R238). -/
  | mstt (d : Reg) (a : Reg) (b : Reg)
  /-- MSEND xd, xa, xb (R246). -/
  | msend (d : Reg) (a : Reg) (b : Reg)
  /-- CPY.ec xd, xa, xb (R241). -/
  | cpy (d : Reg) (a : Reg) (b : Reg) (ec : Fin 4)
  /-- CPYG xd, xa, xb (R242). -/
  | cpyg (d : Reg) (a : Reg) (b : Reg)
  /-- JPOLL xd, xa (R244). -/
  | jpoll (d : Reg) (a : Reg)
  /-- QFEN xd, xa (R245). -/
  | qfen (d : Reg) (a : Reg)
  /-- MVC.ec xd, xa, xb (R243). -/
  | mvc (d : Reg) (a : Reg) (b : Reg) (ec : Fin 4)
  /-- TDEF xa, xb (R231). -/
  | tdef (a : Reg) (b : Reg)
  /-- TUND xa (R231). -/
  | tund (a : Reg)
  /-- TQRY xd, xa (R231). -/
  | tqry (d : Reg) (a : Reg)
  /-- NALLOC xd (R255). -/
  | nalloc (d : Reg)
  /-- NFREE xa (R256). -/
  | nfree (a : Reg)
  /-- NLD xd, xa, w (R265). -/
  | nld (d : Reg) (a : Reg) (w : Fin 8)
  /-- NST xs, xa, w (s in d) (R265). -/
  | nst (d : Reg) (a : Reg) (w : Fin 8)
  /-- LINK xd, xa, xb (R262). -/
  | link (d : Reg) (a : Reg) (b : Reg)
  /-- PUSHP xa, xb (R266). -/
  | pushp (a : Reg) (b : Reg)
  /-- NETI xd, xa (R268). -/
  | neti (d : Reg) (a : Reg)
  /-- PRODL xa, xb (R260). -/
  | prodl (a : Reg) (b : Reg)
  /-- BAGCNT xd (R267). -/
  | bagcnt (d : Reg)
  /-- NREL xa (R256). -/
  | nrel (a : Reg)
  /-- PFXL xd, xa, xb (R278). -/
  | pfxl (d : Reg) (a : Reg) (b : Reg)
  /-- PFXI xd, xa, xb (R279). -/
  | pfxi (d : Reg) (a : Reg) (b : Reg)
  /-- PFXR xa, xb (R280). -/
  | pfxr (a : Reg) (b : Reg)
  /-- KVA xd, xa, xb (R281). -/
  | kva (d : Reg) (a : Reg) (b : Reg)
  /-- KVH xd, xa (R284). -/
  | kvh (d : Reg) (a : Reg)
  /-- KVRH xa, xb (R286). -/
  | kvrh (a : Reg) (b : Reg)
  /-- MSKT pd, xa, xb (R291). -/
  | mskt (pd : PReg) (a : Reg) (b : Reg)
  /-- LQP xd, xa (R303). -/
  | lqp (d : Reg) (a : Reg)
  /-- LQC xd, xa (R304). -/
  | lqc (d : Reg) (a : Reg)
  /-- DQS xd, xa, xb (R295). -/
  | dqs (d : Reg) (a : Reg) (b : Reg)
  /-- DQR xd, xa (R296). -/
  | dqr (d : Reg) (a : Reg)
  /-- LATX xd, xa, xb (R300). -/
  | latx (d : Reg) (a : Reg) (b : Reg)
  /-- TRPUB xa, xb (R306). -/
  | trpub (a : Reg) (b : Reg)
  /-- WAKE xa (R346). -/
  | wake (a : Reg)
  /-- MBND xa (R346). -/
  | mbnd (a : Reg)
  /-- MFS xd, sreg (R328). -/
  | mfs (d : Reg) (n : Fin 1024)
  /-- MTS sreg, xa (R328). -/
  | mts (n : Fin 1024) (a : Reg)
  /-- TRAP n (R329). -/
  | trap (n : Fin 1024)
  /-- SYSC n (R329). -/
  | sysc (n : Fin 1024)
  /-- BRK n (R329). -/
  | brk (n : Fin 1024)
  /-- TLBI xa, xb (R330). -/
  | tlbi (a : Reg) (b : Reg)
  /-- CTXS xa, xb (R330). -/
  | ctxs (a : Reg) (b : Reg)
  /-- CTXR xa, xb (R330). -/
  | ctxr (a : Reg) (b : Reg)
  /-- END (R182). -/
  | taskEnd
  /-- YLD (R183). -/
  | yld
  /-- ERET (R330). -/
  | eret
  /-- Host write of the acceptance bits 63:0 (or 127:64 when high) at BAR0 0x0010 (R9). -/
  | featAcceptWrite
  /-- Host write of the lottery generator at BAR0 0x0040 (R364). -/
  | lotterySeedWrite
  /-- Write by the host, the driver or firmware to a register field with no behaviour of its own (R6). -/
  | registerWrite
  /-- Host write of a queue's new tail (R363). -/
  | queueNotify
  /-- The front end draws an eligible active slot, which starts its head command (R364). -/
  | lotteryDraw
  /-- An active slot whose queue stayed empty is freed (R364). -/
  | queueSlotRelease
  /-- The started LAUNCH command of queue q acts (R366). -/
  | queueLaunch
  /-- The started FEED command of queue q acts (R366). -/
  | queueFeed
  /-- The started STITCH.SIG command of queue q acts (R366). -/
  | stitchSig
  /-- The started STITCH.WAIT command of queue q acts (R366). -/
  | stitchWait
  /-- The started QFENCE command of queue q completes (R366). -/
  | qfence
  /-- The started WRITE command of queue q stores its value (R366). -/
  | write
  /-- Hub firmware serves the oldest started FWCALL when it is CREATE (R367). -/
  | create
  /-- Hub firmware serves FWCALL DESTROY (R376). -/
  | destroy
  /-- Hub firmware serves FWCALL PREEMPT (R323). -/
  | preempt
  /-- Hub firmware serves FWCALL RESIDE (R367). -/
  | reside
  /-- Hub firmware serves FWCALL FATE (R317). -/
  | fate
  /-- Hub firmware serves FWCALL QBIND (R367). -/
  | qbind
  /-- Hub firmware serves FWCALL QUNBIND (R367). -/
  | qunbind
  /-- Hub firmware serves FWCALL STITCH (R367). -/
  | stitch
  /-- Hub firmware serves FWCALL PAGERES (R339). -/
  | pageres
  /-- Hub firmware serves FWCALL POWER (R349). -/
  | power
  /-- Hub firmware serves FWCALL TRIGGER (R335). -/
  | trigger
  /-- Hub firmware serves FWCALL EPOCH (R247). -/
  | epoch
  /-- The wake of launch l of a context reaches a logical core (R33). -/
  | launchWakeArrival
  /-- All initial tasks of launch l have ended (R60). -/
  | launchCompletion
  /-- A free slot chooses a level and takes a task (R52). -/
  | dispatch
  /-- The i-th record transition under way is made at its home (R379). -/
  | recordTransition
  /-- The i-th message under way reaches its destination (R48). -/
  | messageArrival
  /-- A channel entry held for a refused core is released (R49). -/
  | refusalHoldExpiry
  /-- A task that has retired 2^20 instructions is sliced (R53). -/
  | sliceInstructionLimit
  /-- A slot stalled as latency without effect is sliced (R53). -/
  | sliceStallLimit
  /-- A core ships work-list entries to its smallest neighbour (R56). -/
  | workListLevelling
  /-- A cluster ships task-list pairs to its smallest neighbour (R259). -/
  | bagLevelling
  /-- The i-th wait of a context, when satisfied, deposits and decrements (R184). -/
  | waitDeposit
  /-- The copy unit writes the next row of its head job into a circular buffer (R241). -/
  | cbFill
  /-- The matrix queue performs its head MMA or MMAG (R235). -/
  | mmaJob
  /-- The matrix queue performs its head MZERO (R239). -/
  | mzeroJob
  /-- The matrix queue performs its head MLDT (R239). -/
  | mldtJob
  /-- The matrix queue performs its head MSTT (R240). -/
  | msttJob
  /-- The copy queue performs its head CPY (R241). -/
  | cpyJob
  /-- The gather queue performs its head CPYG (R242). -/
  | cpygJob
  /-- A CMVU performs its head MVC (R243). -/
  | mvcJob
  /-- The fence at the head of a queue completes when it heads every queue it names (R141). -/
  | qfenFenceJob
  /-- The i-th MSEND command under way reaches its target queue (R247). -/
  | remoteCommandArrival
  /-- The i-th registered completion link is performed once its job left PENDING (R268). -/
  | completionLink
  /-- The net unit instantiates the template-list head (R261). -/
  | templateInstantiate
  /-- The i-th released node returns to its free list once its ports allow (R256). -/
  | nrelReturn
  /-- The oldest die-queue entry under way reaches the receiving half (R297). -/
  | dqEntryArrival
  /-- A dirty line is written back, revealing an uncorrectable error when bad (R145). -/
  | lineEvictionWriteback
  /-- A host snoop of a host line, with the bytes the host then stores (none for a read) (R357). -/
  | hostSnoop
  /-- A host CXL.mem access: a write of bytes, or a read of len bytes when there are none (R357). -/
  | hostHdmAccess
  /-- Firmware resolves the i-th pending PAGE by table writes, or finds that no mapping covers it (R316). -/
  | pageResolve
  /-- Firmware arms W2 for the i-th pending RES, and re-queues once the DRAM is ACT (R340). -/
  | resResolve
  /-- A cluster agent merges a dirty log (R314). -/
  | dirtyLogMerge
  /-- Firmware moves a page between device and host memory (R315). -/
  | pageMove
  /-- A page's move window ends without a move (R315). -/
  | migWindowExpiry
  /-- The tile slots of a pre-empted context are saved once its engine entries drained (R323). -/
  | preemptTileSave
  /-- Hub firmware serves the i-th pending SYSC (R329). -/
  | syscService
  /-- The debug port resumes the i-th halted task (R329). -/
  | debugResume
  /-- The migration engine writes and loads the bolt image, places the context and reports (R344). -/
  | migrationMove
  /-- The BI idle interval expires (R332). -/
  | biDrainStart
  /-- Every burst slice is empty; the BI enters RET, or OFF when off (R332). -/
  | biDrainEnd
  /-- Driver policy moves the BI from RET to OFF (R332). -/
  | biRetToOff
  /-- A wake cause moves the BI into WAKE (R332). -/
  | biWakeStart
  /-- The map becomes BI, ending WAKE (R337). -/
  | homeMapFlipToBi
  /-- The SI clock-gates its cores (R332). -/
  | siIdle
  /-- The idle SI enters retention (R332). -/
  | siRetEntry
  /-- A wake cause brings the SI from RET to ON (R333). -/
  | siWake
  /-- The DRAM enters self-refresh (R332). -/
  | dramSrefEntry
  /-- The DRAM returns to ACT (R333). -/
  | dramSrefExit
  /-- A QDEPTH window of trigger entry e ends (R335). -/
  | triggerQdepthWindow
  /-- A TRATE window of trigger entry e ends (R335). -/
  | triggerTrateWindow
  /-- The power controller moves each rail one point towards its wanted point (R349). -/
  | powerEvaluation
  /-- Every resident context's budget is refilled (R351). -/
  | budgetRefill
  /-- Region temperatures advance the damage integrals (R355). -/
  | thermalSample
  /-- The PMIC reports a current limit, for a region or for a shared rail (R353). -/
  | currentLimitReport
  /-- A sensor reads 105 degrees or more (R374). -/
  | junctionProtect
  /-- Every sensor reads below 100 degrees (R374). -/
  | junctionRelease
  /-- A sensor reads 115 degrees or more (R374). -/
  | junctionShutdown
  /-- Mailbox command LOG (R370). -/
  | log
  /-- Mailbox command SENSORS (R370). -/
  | sensors
  /-- Mailbox command INTEGRALS (R370). -/
  | integrals
  /-- Mailbox command REPAIR (R370). -/
  | repair
  /-- Mailbox command ECC (R373). -/
  | ecc
  /-- Mailbox command STAGE (R370). -/
  | stage
  /-- Mailbox command COMMIT (R370). -/
  | commit
  /-- Mailbox command RECOVER (R370). -/
  | recover
  /-- The always-on supply is applied (R372). -/
  | powerOnReset
  /-- A device reset (R372). -/
  | deviceReset
  /-- The MC watchdog restarts the MC (R372). -/
  | mcReset
  /-- The scrub engine clears the head of the scrub list (R376). -/
  | scrubEntry
  /-- The front end takes the oldest posted launch of a context (R60). -/
  | deviceLaunchQueueTake
  /-- The always-on supply is lost (R370). -/
  | powerLoss
  /-- The debug port arms or disarms break for a context (R329). -/
  | debugBreakArm
  /-- Firmware swaps a read-only page for a requantised copy (R143). -/
  | backgroundRequantisation
  deriving DecidableEq, Repr

/-- Whether a row is an encoded instruction, rather than an operation or event of the device. -/
def Instr.encoded : Instr → Bool
  | .featAcceptWrite => false
  | .lotterySeedWrite => false
  | .registerWrite => false
  | .queueNotify => false
  | .lotteryDraw => false
  | .queueSlotRelease => false
  | .queueLaunch => false
  | .queueFeed => false
  | .stitchSig => false
  | .stitchWait => false
  | .qfence => false
  | .write => false
  | .create => false
  | .destroy => false
  | .preempt => false
  | .reside => false
  | .fate => false
  | .qbind => false
  | .qunbind => false
  | .stitch => false
  | .pageres => false
  | .power => false
  | .trigger => false
  | .epoch => false
  | .launchWakeArrival => false
  | .launchCompletion => false
  | .dispatch => false
  | .recordTransition => false
  | .messageArrival => false
  | .refusalHoldExpiry => false
  | .sliceInstructionLimit => false
  | .sliceStallLimit => false
  | .workListLevelling => false
  | .bagLevelling => false
  | .waitDeposit => false
  | .cbFill => false
  | .mmaJob => false
  | .mzeroJob => false
  | .mldtJob => false
  | .msttJob => false
  | .cpyJob => false
  | .cpygJob => false
  | .mvcJob => false
  | .qfenFenceJob => false
  | .remoteCommandArrival => false
  | .completionLink => false
  | .templateInstantiate => false
  | .nrelReturn => false
  | .dqEntryArrival => false
  | .lineEvictionWriteback => false
  | .hostSnoop => false
  | .hostHdmAccess => false
  | .pageResolve => false
  | .resResolve => false
  | .dirtyLogMerge => false
  | .pageMove => false
  | .migWindowExpiry => false
  | .preemptTileSave => false
  | .syscService => false
  | .debugResume => false
  | .migrationMove => false
  | .biDrainStart => false
  | .biDrainEnd => false
  | .biRetToOff => false
  | .biWakeStart => false
  | .homeMapFlipToBi => false
  | .siIdle => false
  | .siRetEntry => false
  | .siWake => false
  | .dramSrefEntry => false
  | .dramSrefExit => false
  | .triggerQdepthWindow => false
  | .triggerTrateWindow => false
  | .powerEvaluation => false
  | .budgetRefill => false
  | .thermalSample => false
  | .currentLimitReport => false
  | .junctionProtect => false
  | .junctionRelease => false
  | .junctionShutdown => false
  | .log => false
  | .sensors => false
  | .integrals => false
  | .repair => false
  | .ecc => false
  | .stage => false
  | .commit => false
  | .recover => false
  | .powerOnReset => false
  | .deviceReset => false
  | .mcReset => false
  | .scrubEntry => false
  | .deviceLaunchQueueTake => false
  | .powerLoss => false
  | .debugBreakArm => false
  | .backgroundRequantisation => false
  | _ => true

end Sys2Proof
end

