-- ==== Sys2Proof/WellFormed.lean ====
section
/-! DEFINITION. Which terms of `Instr` are instructions: the field limits of R66, R68, R69, R71 and R75 to R87 that the
types of `Syntax` do not already state. Grouping rules that depend on VW are judged here for VW = 1024 (R90); the core
that executes the word judges them again for its own VW (R83, R212). -/

namespace Sys2Proof

/-- Whether a type is an integer type (R69). -/
def ElemType.isInt : ElemType → Bool
  | .i8 | .i16 | .i32 | .i64 => true
  | .bf16 | .f16 | .f32 | .f64 => false

/-- The type a t3 code names (R69). -/
def ElemType.ofCode : Nat → ElemType
  | 0 => .i8 | 1 => .i16 | 2 => .i32 | 3 => .i64 | 4 => .bf16 | 5 => .f16 | 6 => .f32 | _ => .f64

/-- The t3 code of a type (R69). -/
def ElemType.code : ElemType → Nat
  | .i8 => 0 | .i16 => 1 | .i32 => 2 | .i64 => 3 | .bf16 => 4 | .f16 => 5 | .f32 => 6 | .f64 => 7

/-- Whether an s10 number names a register (R326). -/
def sregDefined (n : Nat) : Bool := n ≤ 0x019 || (0x200 ≤ n && n ≤ 0x205)

/-- The field limits of each instruction. -/
def Instr.wf : Instr → Bool
  | .cVaddf d s t => !(d == 0 && s == 0 && !t)
  | .jalr d _ _ => d != 0
  | .ldq d _ _ => d.val % 2 == 0
  | .stq d _ _ => d.val % 2 == 0
  | .cas2 d _ b _ _ => (d.val % 2 == 0) && (b.val % 2 == 0)
  | .send d _ _ => d.val % 4 == 0
  | .sendr d _ _ _ => d.val % 4 == 0
  | .wlpop d => d.val % 2 == 0
  | .vdivUnsigned _ _ _ _ t => t.isInt
  | .vmaxUnsigned _ _ _ _ t => t.isInt
  | .vminUnsigned _ _ _ _ t => t.isInt
  | .vsqrt _ _ _ t => !t.isInt
  | .vrcp _ _ _ t => !t.isInt
  | .vrsq _ _ _ t => !t.isInt && t != .f64
  | .vexp2 _ _ _ t => !t.isInt && t != .f64
  | .vlog2 _ _ _ t => !t.isInt && t != .f64
  | .vtanh _ _ _ t => !t.isInt && t != .f64
  | .vsin _ _ _ t => !t.isInt && t != .f64
  | .vand _ _ _ _ t => t.isInt
  | .vor _ _ _ _ t => t.isInt
  | .vxor _ _ _ _ t => t.isInt
  | .vnot _ _ _ t => t.isInt
  | .vshl _ _ _ _ t => t.isInt
  | .vshr _ _ _ _ t => t.isInt
  | .vsar _ _ _ _ t => t.isInt
  | .vcmpLo _ _ _ _ t => t.isInt
  | .vcmpLs _ _ _ _ t => t.isInt
  | .vcvtUnsigned _ _ cv _ t => t.isInt || (ElemType.ofCode (cv.val / 4)).isInt
  | .vqnt _ _ cv _ t => (!t.isInt && t != .f64) && (decide (cv.val / 4 ≤ 4))
  | .vdqt _ _ cv _ t => (!t.isInt && t != .f64) && (decide (cv.val / 4 ≤ 4))
  | .vredMaxUnsigned _ _ _ t => t.isInt
  | .vredMinUnsigned _ _ _ t => t.isInt
  | .vscanMaxUnsigned _ _ _ t => t.isInt
  | .vargmMaxUnsigned _ _ _ t => t.isInt
  | .vargmMinUnsigned _ _ _ t => t.isInt
  | .vidx _ _ t => t.isInt
  | .vrng _ _ t => t.isInt
  | .vrngc _ _ _ _ t => t.isInt
  | .mma _ _ _ m n _ => (decide (m.val < 3)) && (decide (n.val < 16))
  | .mmag a _ _ m n _ => (decide (m.val < 3)) && (decide (n.val < 16)) && (a.val % (2 * 2 ^ m.val) == 0)
  | .mfs _ n => sregDefined n.val
  | .mts n _ => sregDefined n.val
  | _ => true

/-- A well-formed instruction: every field limit holds. -/
abbrev Instr.WellFormed (i : Instr) : Prop := i.wf = true

end Sys2Proof
end

