-- ==== Sys2Proof/Decode.lean ====
section
/-! DEFINITION. Decoding and encoding (R62 to R87). A word is read as a natural number whose bit 0 is the least
significant bit of the first parcel. `decodeRaw` reads the fields and refuses what R71 refuses; `decode` also asks for
the field limits of `WellFormed`. `encode` is written from the same tables. -/

namespace Sys2Proof

/-- The n bits of w from bit lo. -/
def fld (w lo n : Nat) : Nat := w / 2 ^ lo % 2 ^ n

/-- The register field at bit lo (R68). -/
def regAt (w lo : Nat) : Reg := Fin.ofNat 32 (w / 2 ^ lo)

/-- The predicate field at bit lo (R68). -/
def pregAt (w lo : Nat) : PReg := Fin.ofNat 8 (w / 2 ^ lo)

/-- The one-bit field at bit lo. -/
def bitAt (w lo : Nat) : Bool := w / 2 ^ lo % 2 == 1

/-- The instruction when the must-be-zero fields are zero, else none (R71). -/
def need (c : Prop) [Decidable c] (i : Instr) : Option Instr := if c then some i else none

/-- The type a t2 code names (R69). -/
def FloatType.ofCode : Nat → FloatType
  | 0 => .bf16 | 1 => .f16 | 2 => .f32 | _ => .f64

/-- The t2 code of a type (R69). -/
def FloatType.code : FloatType → Nat
  | .bf16 => 0 | .f16 => 1 | .f32 => 2 | .f64 => 3

/-- The load size an sz3 code names (R75). -/
def LoadSize.ofCode : Nat → Option LoadSize
  | 0 => some .s8 | 1 => some .s16 | 2 => some .s32 | 3 => some .b64
  | 4 => some .z8 | 5 => some .z16 | 6 => some .z32 | _ => none

/-- The sz3 code of a load size (R75). -/
def LoadSize.code : LoadSize → Nat
  | .s8 => 0 | .s16 => 1 | .s32 => 2 | .b64 => 3 | .z8 => 4 | .z16 => 5 | .z32 => 6

/-- The store size an sz3 code names (R75). -/
def StoreSize.ofCode : Nat → Option StoreSize
  | 0 => some .b8 | 1 => some .b16 | 2 => some .b32 | 3 => some .b64 | _ => none

/-- The sz3 code of a store size (R75). -/
def StoreSize.code : StoreSize → Nat
  | .b8 => 0 | .b16 => 1 | .b32 => 2 | .b64 => 3

/-- The scope a FENCE code names (R78). -/
def Scope.ofCode : Nat → Option Scope
  | 0 => some .slot | 1 => some .core | 2 => some .clus | 3 => some .die | 4 => some .pkg | 5 => some .sys | _ => none

/-- The FENCE code of a scope (R78). -/
def Scope.code : Scope → Nat
  | .slot => 0 | .core => 1 | .clus => 2 | .die => 3 | .pkg => 4 | .sys => 5

/-- The kind a FENCE code names (R78). -/
def FenceKind.ofCode : Nat → Option FenceKind
  | 1 => some .acq | 2 => some .rel | 3 => some .ar | 4 => some .sc | _ => none

/-- The FENCE code of a kind (R78). -/
def FenceKind.code : FenceKind → Nat
  | .acq => 1 | .rel => 2 | .ar => 3 | .sc => 4

/-- The 16-bit forms (R65, R66). -/
def decodeC (w : Nat) : Option Instr :=
  match fld w 12 4 with
  | 0 => some (.cVaddf (regAt w 7) (regAt w 2) (bitAt w 1))
  | 1 => some (.cVsubf (regAt w 7) (regAt w 2) (bitAt w 1))
  | 2 => some (.cVmulf (regAt w 7) (regAt w 2) (bitAt w 1))
  | 3 => some (.cVmaxf (regAt w 7) (regAt w 2) (bitAt w 1))
  | 4 => some (.cVminf (regAt w 7) (regAt w 2) (bitAt w 1))
  | 5 => some (.cVaddi (regAt w 7) (regAt w 2) (bitAt w 1))
  | 6 => some (.cVsubi (regAt w 7) (regAt w 2) (bitAt w 1))
  | 7 => some (.cVmuli (regAt w 7) (regAt w 2) (bitAt w 1))
  | 8 => some (.cVmaxi (regAt w 7) (regAt w 2) (bitAt w 1))
  | 9 => some (.cVmini (regAt w 7) (regAt w 2) (bitAt w 1))
  | 10 => need (fld w 1 1 = 0) (.cVand (regAt w 7) (regAt w 2))
  | 11 => need (fld w 1 1 = 0) (.cVor (regAt w 7) (regAt w 2))
  | 12 => need (fld w 1 1 = 0) (.cVxor (regAt w 7) (regAt w 2))
  | 13 => need (fld w 1 1 = 0) (.cVmov (regAt w 7) (regAt w 2))
  | 14 => some (.cVnegf (regAt w 7) (regAt w 2) (bitAt w 1))
  | 15 => some (.cVabsf (regAt w 7) (regAt w 2) (bitAt w 1))
  | _ => none

/-- Major 0x01 (R148). -/
def decodeMajor01 (w : Nat) : Option Instr :=
  match fld w 1 5 with
  | 0 => need (fld w 6 5 = 0) (.add (regAt w 21) (regAt w 16) (regAt w 11))
  | 1 => need (fld w 6 5 = 0) (.sub (regAt w 21) (regAt w 16) (regAt w 11))
  | 2 => need (fld w 6 5 = 0) (.mul (regAt w 21) (regAt w 16) (regAt w 11))
  | 3 => need (fld w 6 5 = 0) (.mulh (regAt w 21) (regAt w 16) (regAt w 11))
  | 4 => need (fld w 6 5 = 0) (.mulhz (regAt w 21) (regAt w 16) (regAt w 11))
  | 5 => need (fld w 6 5 = 0) (.div (regAt w 21) (regAt w 16) (regAt w 11))
  | 6 => need (fld w 6 5 = 0) (.divz (regAt w 21) (regAt w 16) (regAt w 11))
  | 7 => need (fld w 6 5 = 0) (.rem (regAt w 21) (regAt w 16) (regAt w 11))
  | 8 => need (fld w 6 5 = 0) (.remz (regAt w 21) (regAt w 16) (regAt w 11))
  | 9 => need (fld w 6 5 = 0) (.and (regAt w 21) (regAt w 16) (regAt w 11))
  | 10 => need (fld w 6 5 = 0) (.or (regAt w 21) (regAt w 16) (regAt w 11))
  | 11 => need (fld w 6 5 = 0) (.xor (regAt w 21) (regAt w 16) (regAt w 11))
  | 12 => need (fld w 6 5 = 0) (.andn (regAt w 21) (regAt w 16) (regAt w 11))
  | 13 => need (fld w 6 5 = 0) (.shl (regAt w 21) (regAt w 16) (regAt w 11))
  | 14 => need (fld w 6 5 = 0) (.shr (regAt w 21) (regAt w 16) (regAt w 11))
  | 15 => need (fld w 6 5 = 0) (.sar (regAt w 21) (regAt w 16) (regAt w 11))
  | 16 => need (fld w 6 10 = 0) (.clz (regAt w 21) (regAt w 16))
  | 17 => need (fld w 6 10 = 0) (.ctz (regAt w 21) (regAt w 16))
  | 18 => need (fld w 6 10 = 0) (.popc (regAt w 21) (regAt w 16))
  | 19 => need (fld w 6 5 = 0) (.min (regAt w 21) (regAt w 16) (regAt w 11))
  | 20 => need (fld w 6 5 = 0) (.max (regAt w 21) (regAt w 16) (regAt w 11))
  | 21 => need (fld w 6 5 = 0) (.minz (regAt w 21) (regAt w 16) (regAt w 11))
  | 22 => need (fld w 6 5 = 0) (.maxz (regAt w 21) (regAt w 16) (regAt w 11))
  | 23 => need (fld w 6 5 = 0) (.slt (regAt w 21) (regAt w 16) (regAt w 11))
  | 24 => need (fld w 6 5 = 0) (.slo (regAt w 21) (regAt w 16) (regAt w 11))
  | 25 => some (.sel (regAt w 21) (regAt w 16) (regAt w 11) (regAt w 6))
  | 26 => some (.ext (regAt w 21) (regAt w 16) (regAt w 11) (Fin.ofNat 32 (w / 2 ^ 6)))
  | 27 => some (.ins (regAt w 21) (regAt w 16) (regAt w 11) (Fin.ofNat 32 (w / 2 ^ 6)))
  | 28 => some (.addx (regAt w 21) (regAt w 16) (regAt w 11) (Fin.ofNat 32 (w / 2 ^ 6)))
  | _ => none

/-- Major 0x1D (R158). -/
def decodeMajor1D (w : Nat) : Option Instr :=
  match fld w 1 5 with
  | 0 => (LoadSize.ofCode (fld w 8 3)).bind fun z => need (fld w 6 2 = 0) (.ldx z (regAt w 21) (regAt w 16) (regAt w 11))
  | 1 => (StoreSize.ofCode (fld w 8 3)).bind fun z => need (fld w 6 2 = 0) (.stx z (regAt w 21) (regAt w 16) (regAt w 11))
  | 2 => need (fld w 6 5 = 0 ∧ fld w 21 5 = 0) (.pf (regAt w 16) (regAt w 11))
  | 3 => need (fld w 6 5 = 0 ∧ fld w 21 5 = 0) (.smap (regAt w 16) (regAt w 11))
  | 4 => need (fld w 6 5 = 0 ∧ fld w 21 5 = 0) (.swb (regAt w 16) (regAt w 11))
  | 5 => need (fld w 6 5 = 0 ∧ fld w 21 5 = 0) (.sdrop (regAt w 16) (regAt w 11))
  | 6 => need (fld w 6 5 = 0 ∧ fld w 21 5 = 0) (.cfl (regAt w 16) (regAt w 11))
  | 7 => need (fld w 6 5 = 0 ∧ fld w 21 5 = 0) (.cinv (regAt w 16) (regAt w 11))
  | 8 => need (fld w 6 10 = 0) (.cbtake (regAt w 21) (regAt w 16))
  | 9 => need (fld w 6 5 = 0 ∧ fld w 21 5 = 0) (.cbgive (regAt w 16) (regAt w 11))
  | _ => none

/-- Major 0x1E (R168). -/
def decodeMajor1E (w : Nat) : Option Instr :=
  match fld w 1 5 with
  | 0 => need (fld w 6 2 = 0) (.amoAdd (regAt w 21) (regAt w 16) (regAt w 11) (bitAt w 10) (bitAt w 9) (bitAt w 8))
  | 1 => need (fld w 6 2 = 0) (.amoAnd (regAt w 21) (regAt w 16) (regAt w 11) (bitAt w 10) (bitAt w 9) (bitAt w 8))
  | 2 => need (fld w 6 2 = 0) (.amoOr (regAt w 21) (regAt w 16) (regAt w 11) (bitAt w 10) (bitAt w 9) (bitAt w 8))
  | 3 => need (fld w 6 2 = 0) (.amoXor (regAt w 21) (regAt w 16) (regAt w 11) (bitAt w 10) (bitAt w 9) (bitAt w 8))
  | 4 => need (fld w 6 2 = 0) (.amoMin (regAt w 21) (regAt w 16) (regAt w 11) (bitAt w 10) (bitAt w 9) (bitAt w 8))
  | 5 => need (fld w 6 2 = 0) (.amoMax (regAt w 21) (regAt w 16) (regAt w 11) (bitAt w 10) (bitAt w 9) (bitAt w 8))
  | 6 => need (fld w 6 2 = 0) (.amoSwp (regAt w 21) (regAt w 16) (regAt w 11) (bitAt w 10) (bitAt w 9) (bitAt w 8))
  | 7 => need (fld w 6 2 = 0) (.amoCas (regAt w 21) (regAt w 16) (regAt w 11) (bitAt w 10) (bitAt w 9) (bitAt w 8))
  | 8 => need (fld w 6 2 = 0) (.amoFadd (regAt w 21) (regAt w 16) (regAt w 11) (bitAt w 10) (bitAt w 9) (bitAt w 8))
  | 9 => need (fld w 6 2 = 0 ∧ fld w 8 1 = 1) (.cas2 (regAt w 21) (regAt w 16) (regAt w 11) (bitAt w 10) (bitAt w 9))
  | 10 => need (fld w 6 2 = 0 ∧ fld w 21 5 = 0) (.redAdd (regAt w 16) (regAt w 11) (bitAt w 10) (bitAt w 9) (bitAt w 8))
  | 11 => need (fld w 6 2 = 0 ∧ fld w 21 5 = 0) (.redFadd (regAt w 16) (regAt w 11) (bitAt w 10) (bitAt w 9) (bitAt w 8))
  | 12 => need (fld w 6 2 = 0 ∧ fld w 21 5 = 0) (.redMax (regAt w 16) (regAt w 11) (bitAt w 10) (bitAt w 9) (bitAt w 8))
  | _ => none

/-- Major 0x20 (R178). -/
def decodeMajor20 (w : Nat) : Option Instr :=
  match fld w 1 5 with
  | 0 => need (fld w 6 5 = 0) (.spawn (regAt w 21) (regAt w 16) (regAt w 11))
  | 1 => need (fld w 6 5 = 0) (.spawnj (regAt w 21) (regAt w 16) (regAt w 11))
  | 2 => need (fld w 6 5 = 0 ∧ fld w 21 5 = 0) (.jdec (regAt w 16) (regAt w 11))
  | 3 => need (fld w 6 5 = 0 ∧ fld w 21 5 = 0) (.jadd (regAt w 16) (regAt w 11))
  | 4 => need (fld w 6 5 = 0) (.bind (regAt w 16) (regAt w 11) (regAt w 21))
  | _ => none

/-- Major 0x21 (R182). -/
def decodeMajor21 (w : Nat) : Option Instr :=
  match fld w 1 5 with
  | 0 => need (fld w 6 20 = 0) (.taskEnd)
  | 1 => need (fld w 6 10 = 0 ∧ fld w 21 5 = 0) (.endj (regAt w 16))
  | 2 => need (fld w 6 5 = 0 ∧ fld w 21 5 = 0) (.endwJoin (regAt w 16) (regAt w 11))
  | 3 => need (fld w 6 5 = 0 ∧ fld w 21 5 = 0) (.endwJob (regAt w 16) (regAt w 11))
  | 4 => need (fld w 6 5 = 0 ∧ fld w 21 5 = 0) (.endwCb (regAt w 16) (regAt w 11))
  | 5 => need (fld w 6 5 = 0 ∧ fld w 21 5 = 0) (.endwBar (regAt w 16) (regAt w 11))
  | 6 => need (fld w 6 5 = 0 ∧ fld w 21 5 = 0) (.endwFeed (regAt w 16) (regAt w 11))
  | 7 => need (fld w 6 5 = 0 ∧ fld w 21 5 = 0) (.endwRoom (regAt w 16) (regAt w 11))
  | 8 => need (fld w 6 5 = 0 ∧ fld w 21 5 = 0) (.endwDq (regAt w 16) (regAt w 11))
  | 9 => need (fld w 6 20 = 0) (.yld)
  | _ => none

/-- Major 0x22 (R189). -/
def decodeMajor22 (w : Nat) : Option Instr :=
  match fld w 1 5 with
  | 0 => need (fld w 6 5 = 0) (.send (regAt w 21) (regAt w 16) (regAt w 11))
  | 1 => some (.sendr (regAt w 21) (regAt w 16) (regAt w 11) (regAt w 6))
  | _ => none

/-- Major 0x23 (R191). -/
def decodeMajor23 (w : Nat) : Option Instr :=
  match fld w 1 5 with
  | 0 => need (fld w 6 5 = 0 ∧ fld w 21 5 = 0) (.bari (regAt w 16) (regAt w 11))
  | 1 => need (fld w 6 10 = 0 ∧ fld w 21 5 = 0) (.bara (regAt w 16))
  | 2 => need (fld w 6 5 = 0 ∧ fld w 21 5 = 0) (.barm (regAt w 16) (regAt w 11))
  | _ => none

/-- Major 0x24 (R193). -/
def decodeMajor24 (w : Nat) : Option Instr :=
  match fld w 1 5 with
  | 0 => need (fld w 6 5 = 0 ∧ fld w 21 5 = 0) (.wlpush (regAt w 16) (regAt w 11))
  | 1 => need (fld w 6 15 = 0) (.wlpop (regAt w 21))
  | 2 => need (fld w 6 15 = 0) (.wlcnt (regAt w 21))
  | _ => none

/-- Major 0x25 (R195). -/
def decodeMajor25 (w : Nat) : Option Instr :=
  match fld w 1 5 with
  | 0 => need (fld w 6 10 = 0) (.launch (regAt w 21) (regAt w 16))
  | 1 => need (fld w 6 10 = 0) (.fpop (regAt w 21) (regAt w 16))
  | _ => none

/-- Major 0x28 (R202). -/
def decodeMajor28 (w : Nat) : Option Instr :=
  match fld w 4 4 with
  | 0 => need (fld w 1 3 = 0 ∧ fld w 8 13 = 0) (.vwid (regAt w 21))
  | 1 => need (fld w 24 2 = 0) (.plb (pregAt w 21) (regAt w 16) (regAt w 11) (pregAt w 8) (ElemType.ofCode (fld w 1 3)))
  | 2 => need (fld w 1 3 = 0 ∧ fld w 14 2 = 0 ∧ fld w 19 2 = 0 ∧ fld w 24 2 = 0) (.pand (pregAt w 21) (pregAt w 16) (pregAt w 11) (pregAt w 8))
  | 3 => need (fld w 1 3 = 0 ∧ fld w 14 2 = 0 ∧ fld w 19 2 = 0 ∧ fld w 24 2 = 0) (.por (pregAt w 21) (pregAt w 16) (pregAt w 11) (pregAt w 8))
  | 4 => need (fld w 1 3 = 0 ∧ fld w 14 2 = 0 ∧ fld w 19 2 = 0 ∧ fld w 24 2 = 0) (.pxor (pregAt w 21) (pregAt w 16) (pregAt w 11) (pregAt w 8))
  | 5 => need (fld w 1 3 = 0 ∧ fld w 11 5 = 0 ∧ fld w 19 2 = 0 ∧ fld w 24 2 = 0) (.pnot (pregAt w 21) (pregAt w 16) (pregAt w 8))
  | 6 => need (fld w 11 5 = 0 ∧ fld w 19 2 = 0 ∧ fld w 24 2 = 0) (.pfst (pregAt w 21) (pregAt w 16) (pregAt w 8) (ElemType.ofCode (fld w 1 3)))
  | 7 => need (fld w 11 5 = 0 ∧ fld w 19 2 = 0) (.pcnt (regAt w 21) (pregAt w 16) (pregAt w 8) (ElemType.ofCode (fld w 1 3)))
  | _ => none

/-- Major 0x29 (R206). -/
def decodeMajor29 (w : Nat) : Option Instr :=
  match fld w 4 4 with
  | 0 => some (.vadd (regAt w 21) (regAt w 16) (regAt w 11) (pregAt w 8) (ElemType.ofCode (fld w 1 3)))
  | 1 => some (.vsub (regAt w 21) (regAt w 16) (regAt w 11) (pregAt w 8) (ElemType.ofCode (fld w 1 3)))
  | 2 => some (.vmul (regAt w 21) (regAt w 16) (regAt w 11) (pregAt w 8) (ElemType.ofCode (fld w 1 3)))
  | 3 => some (.vdiv (regAt w 21) (regAt w 16) (regAt w 11) (pregAt w 8) (ElemType.ofCode (fld w 1 3)))
  | 4 => some (.vdivUnsigned (regAt w 21) (regAt w 16) (regAt w 11) (pregAt w 8) (ElemType.ofCode (fld w 1 3)))
  | 5 => some (.vmax (regAt w 21) (regAt w 16) (regAt w 11) (pregAt w 8) (ElemType.ofCode (fld w 1 3)))
  | 6 => some (.vmaxUnsigned (regAt w 21) (regAt w 16) (regAt w 11) (pregAt w 8) (ElemType.ofCode (fld w 1 3)))
  | 7 => some (.vmin (regAt w 21) (regAt w 16) (regAt w 11) (pregAt w 8) (ElemType.ofCode (fld w 1 3)))
  | 8 => some (.vminUnsigned (regAt w 21) (regAt w 16) (regAt w 11) (pregAt w 8) (ElemType.ofCode (fld w 1 3)))
  | 9 => need (fld w 11 5 = 0) (.vabs (regAt w 21) (regAt w 16) (pregAt w 8) (ElemType.ofCode (fld w 1 3)))
  | 10 => need (fld w 11 5 = 0) (.vneg (regAt w 21) (regAt w 16) (pregAt w 8) (ElemType.ofCode (fld w 1 3)))
  | 11 => some (.vsel (regAt w 21) (regAt w 16) (regAt w 11) (pregAt w 8) (ElemType.ofCode (fld w 1 3)))
  | _ => none

/-- Major 0x2A (R208). -/
def decodeMajor2A (w : Nat) : Option Instr :=
  match fld w 4 4 with
  | 0 => need (fld w 11 5 = 0) (.vsqrt (regAt w 21) (regAt w 16) (pregAt w 8) (ElemType.ofCode (fld w 1 3)))
  | 1 => need (fld w 11 5 = 0) (.vrcp (regAt w 21) (regAt w 16) (pregAt w 8) (ElemType.ofCode (fld w 1 3)))
  | 2 => need (fld w 11 5 = 0) (.vrsq (regAt w 21) (regAt w 16) (pregAt w 8) (ElemType.ofCode (fld w 1 3)))
  | 3 => need (fld w 11 5 = 0) (.vexp2 (regAt w 21) (regAt w 16) (pregAt w 8) (ElemType.ofCode (fld w 1 3)))
  | 4 => need (fld w 11 5 = 0) (.vlog2 (regAt w 21) (regAt w 16) (pregAt w 8) (ElemType.ofCode (fld w 1 3)))
  | 5 => need (fld w 11 5 = 0) (.vtanh (regAt w 21) (regAt w 16) (pregAt w 8) (ElemType.ofCode (fld w 1 3)))
  | 6 => need (fld w 11 5 = 0) (.vsin (regAt w 21) (regAt w 16) (pregAt w 8) (ElemType.ofCode (fld w 1 3)))
  | _ => none

/-- Major 0x2B (R209). -/
def decodeMajor2B (w : Nat) : Option Instr :=
  match fld w 4 4 with
  | 0 => some (.vand (regAt w 21) (regAt w 16) (regAt w 11) (pregAt w 8) (ElemType.ofCode (fld w 1 3)))
  | 1 => some (.vor (regAt w 21) (regAt w 16) (regAt w 11) (pregAt w 8) (ElemType.ofCode (fld w 1 3)))
  | 2 => some (.vxor (regAt w 21) (regAt w 16) (regAt w 11) (pregAt w 8) (ElemType.ofCode (fld w 1 3)))
  | 3 => need (fld w 11 5 = 0) (.vnot (regAt w 21) (regAt w 16) (pregAt w 8) (ElemType.ofCode (fld w 1 3)))
  | 4 => some (.vshl (regAt w 21) (regAt w 16) (regAt w 11) (pregAt w 8) (ElemType.ofCode (fld w 1 3)))
  | 5 => some (.vshr (regAt w 21) (regAt w 16) (regAt w 11) (pregAt w 8) (ElemType.ofCode (fld w 1 3)))
  | 6 => some (.vsar (regAt w 21) (regAt w 16) (regAt w 11) (pregAt w 8) (ElemType.ofCode (fld w 1 3)))
  | _ => none

/-- Major 0x2C (R210). -/
def decodeMajor2C (w : Nat) : Option Instr :=
  match fld w 4 4 with
  | 0 => need (fld w 24 2 = 0) (.vcmpEq (pregAt w 21) (regAt w 16) (regAt w 11) (pregAt w 8) (ElemType.ofCode (fld w 1 3)))
  | 1 => need (fld w 24 2 = 0) (.vcmpNe (pregAt w 21) (regAt w 16) (regAt w 11) (pregAt w 8) (ElemType.ofCode (fld w 1 3)))
  | 2 => need (fld w 24 2 = 0) (.vcmpLt (pregAt w 21) (regAt w 16) (regAt w 11) (pregAt w 8) (ElemType.ofCode (fld w 1 3)))
  | 3 => need (fld w 24 2 = 0) (.vcmpLe (pregAt w 21) (regAt w 16) (regAt w 11) (pregAt w 8) (ElemType.ofCode (fld w 1 3)))
  | 4 => need (fld w 24 2 = 0) (.vcmpLo (pregAt w 21) (regAt w 16) (regAt w 11) (pregAt w 8) (ElemType.ofCode (fld w 1 3)))
  | 5 => need (fld w 24 2 = 0) (.vcmpLs (pregAt w 21) (regAt w 16) (regAt w 11) (pregAt w 8) (ElemType.ofCode (fld w 1 3)))
  | 6 => some (.vcvt (regAt w 21) (regAt w 16) (Fin.ofNat 32 (w / 2 ^ 11)) (pregAt w 8) (ElemType.ofCode (fld w 1 3)))
  | 7 => some (.vcvtUnsigned (regAt w 21) (regAt w 16) (Fin.ofNat 32 (w / 2 ^ 11)) (pregAt w 8) (ElemType.ofCode (fld w 1 3)))
  | 8 => some (.vqnt (regAt w 21) (regAt w 16) (Fin.ofNat 32 (w / 2 ^ 11)) (pregAt w 8) (ElemType.ofCode (fld w 1 3)))
  | 9 => some (.vdqt (regAt w 21) (regAt w 16) (Fin.ofNat 32 (w / 2 ^ 11)) (pregAt w 8) (ElemType.ofCode (fld w 1 3)))
  | _ => none

/-- Major 0x2D (R215). -/
def decodeMajor2D (w : Nat) : Option Instr :=
  match fld w 4 4 with
  | 0 => need (fld w 11 5 = 0) (.vredAdd (regAt w 21) (regAt w 16) (pregAt w 8) (ElemType.ofCode (fld w 1 3)))
  | 1 => need (fld w 11 5 = 0) (.vredMax (regAt w 21) (regAt w 16) (pregAt w 8) (ElemType.ofCode (fld w 1 3)))
  | 2 => need (fld w 11 5 = 0) (.vredMaxUnsigned (regAt w 21) (regAt w 16) (pregAt w 8) (ElemType.ofCode (fld w 1 3)))
  | 3 => need (fld w 11 5 = 0) (.vredMin (regAt w 21) (regAt w 16) (pregAt w 8) (ElemType.ofCode (fld w 1 3)))
  | 4 => need (fld w 11 5 = 0) (.vredMinUnsigned (regAt w 21) (regAt w 16) (pregAt w 8) (ElemType.ofCode (fld w 1 3)))
  | 5 => need (fld w 11 5 = 0) (.vscanAdd (regAt w 21) (regAt w 16) (pregAt w 8) (ElemType.ofCode (fld w 1 3)))
  | 6 => need (fld w 11 5 = 0) (.vscanMax (regAt w 21) (regAt w 16) (pregAt w 8) (ElemType.ofCode (fld w 1 3)))
  | 7 => need (fld w 11 5 = 0) (.vscanMaxUnsigned (regAt w 21) (regAt w 16) (pregAt w 8) (ElemType.ofCode (fld w 1 3)))
  | 8 => need (fld w 11 5 = 0) (.vargmMax (regAt w 21) (regAt w 16) (pregAt w 8) (ElemType.ofCode (fld w 1 3)))
  | 9 => need (fld w 11 5 = 0) (.vargmMaxUnsigned (regAt w 21) (regAt w 16) (pregAt w 8) (ElemType.ofCode (fld w 1 3)))
  | 10 => need (fld w 11 5 = 0) (.vargmMin (regAt w 21) (regAt w 16) (pregAt w 8) (ElemType.ofCode (fld w 1 3)))
  | 11 => need (fld w 11 5 = 0) (.vargmMinUnsigned (regAt w 21) (regAt w 16) (pregAt w 8) (ElemType.ofCode (fld w 1 3)))
  | _ => none

/-- Major 0x2E (R216). -/
def decodeMajor2E (w : Nat) : Option Instr :=
  match fld w 4 4 with
  | 0 => some (.vperm (regAt w 21) (regAt w 16) (regAt w 11) (pregAt w 8) (ElemType.ofCode (fld w 1 3)))
  | 1 => need (fld w 11 5 = 0) (.vbcast (regAt w 21) (regAt w 16) (pregAt w 8) (ElemType.ofCode (fld w 1 3)))
  | 2 => some (.vext (regAt w 21) (regAt w 16) (regAt w 11) (pregAt w 8) (ElemType.ofCode (fld w 1 3)))
  | 3 => some (.vins (regAt w 21) (regAt w 16) (regAt w 11) (pregAt w 8) (ElemType.ofCode (fld w 1 3)))
  | 4 => need (fld w 11 10 = 0) (.vidx (regAt w 21) (pregAt w 8) (ElemType.ofCode (fld w 1 3)))
  | 5 => need (fld w 11 5 = 0) (.vmov (regAt w 21) (regAt w 16) (pregAt w 8) (ElemType.ofCode (fld w 1 3)))
  | _ => none

/-- Major 0x2F (R218). -/
def decodeMajor2F (w : Nat) : Option Instr :=
  match fld w 4 4 with
  | 0 => some (.vld (regAt w 21) (regAt w 16) (regAt w 11) (pregAt w 8) (ElemType.ofCode (fld w 1 3)))
  | 1 => some (.vst (regAt w 21) (regAt w 16) (regAt w 11) (pregAt w 8) (ElemType.ofCode (fld w 1 3)))
  | 2 => some (.vlds (regAt w 21) (regAt w 16) (regAt w 11) (pregAt w 8) (ElemType.ofCode (fld w 1 3)))
  | 3 => some (.vsts (regAt w 21) (regAt w 16) (regAt w 11) (pregAt w 8) (ElemType.ofCode (fld w 1 3)))
  | 4 => some (.vgth (regAt w 21) (regAt w 16) (regAt w 11) (pregAt w 8) (ElemType.ofCode (fld w 1 3)))
  | 5 => some (.vsct (regAt w 21) (regAt w 16) (regAt w 11) (pregAt w 8) (ElemType.ofCode (fld w 1 3)))
  | 6 => some (.vldt (regAt w 21) (regAt w 16) (regAt w 11) (pregAt w 8) (ElemType.ofCode (fld w 1 3)))
  | 7 => some (.vstt (regAt w 21) (regAt w 16) (regAt w 11) (pregAt w 8) (ElemType.ofCode (fld w 1 3)))
  | _ => none

/-- Major 0x30 (R221). -/
def decodeMajor30 (w : Nat) : Option Instr :=
  match fld w 4 4 with
  | 0 => need (fld w 11 10 = 0) (.vrng (regAt w 21) (pregAt w 8) (ElemType.ofCode (fld w 1 3)))
  | 1 => some (.vrngc (regAt w 21) (regAt w 16) (regAt w 11) (pregAt w 8) (ElemType.ofCode (fld w 1 3)))
  | _ => none

/-- Major 0x37 (R238). -/
def decodeMajor37 (w : Nat) : Option Instr :=
  match fld w 1 5 with
  | 0 => need (fld w 6 10 = 0) (.mzero (regAt w 21) (regAt w 16))
  | 1 => need (fld w 6 5 = 0) (.mldt (regAt w 21) (regAt w 16) (regAt w 11))
  | 2 => need (fld w 6 5 = 0) (.mstt (regAt w 21) (regAt w 16) (regAt w 11))
  | 3 => need (fld w 6 5 = 0) (.msend (regAt w 21) (regAt w 16) (regAt w 11))
  | 4 => need (fld w 8 3 = 0) (.cpy (regAt w 21) (regAt w 16) (regAt w 11) (Fin.ofNat 4 (w / 2 ^ 6)))
  | 5 => need (fld w 6 5 = 0) (.cpyg (regAt w 21) (regAt w 16) (regAt w 11))
  | 6 => need (fld w 6 10 = 0) (.jpoll (regAt w 21) (regAt w 16))
  | 7 => need (fld w 6 10 = 0) (.qfen (regAt w 21) (regAt w 16))
  | 8 => need (fld w 8 3 = 0) (.mvc (regAt w 21) (regAt w 16) (regAt w 11) (Fin.ofNat 4 (w / 2 ^ 6)))
  | _ => none

/-- Major 0x38 (R231). -/
def decodeMajor38 (w : Nat) : Option Instr :=
  match fld w 1 5 with
  | 0 => need (fld w 6 5 = 0 ∧ fld w 21 5 = 0) (.tdef (regAt w 16) (regAt w 11))
  | 1 => need (fld w 6 10 = 0 ∧ fld w 21 5 = 0) (.tund (regAt w 16))
  | 2 => need (fld w 6 10 = 0) (.tqry (regAt w 21) (regAt w 16))
  | _ => none

/-- Major 0x3A (R255). -/
def decodeMajor3A (w : Nat) : Option Instr :=
  match fld w 1 5 with
  | 0 => need (fld w 6 15 = 0) (.nalloc (regAt w 21))
  | 1 => need (fld w 6 10 = 0 ∧ fld w 21 5 = 0) (.nfree (regAt w 16))
  | 2 => need (fld w 9 7 = 0) (.nld (regAt w 21) (regAt w 16) (Fin.ofNat 8 (w / 2 ^ 6)))
  | 3 => need (fld w 9 7 = 0) (.nst (regAt w 21) (regAt w 16) (Fin.ofNat 8 (w / 2 ^ 6)))
  | 4 => need (fld w 6 5 = 0) (.link (regAt w 21) (regAt w 16) (regAt w 11))
  | 5 => need (fld w 6 5 = 0 ∧ fld w 21 5 = 0) (.pushp (regAt w 16) (regAt w 11))
  | 6 => need (fld w 6 10 = 0) (.neti (regAt w 21) (regAt w 16))
  | 7 => need (fld w 6 5 = 0 ∧ fld w 21 5 = 0) (.prodl (regAt w 16) (regAt w 11))
  | 8 => need (fld w 6 15 = 0) (.bagcnt (regAt w 21))
  | 9 => need (fld w 6 10 = 0 ∧ fld w 21 5 = 0) (.nrel (regAt w 16))
  | _ => none

/-- Major 0x3B (R278). -/
def decodeMajor3B (w : Nat) : Option Instr :=
  match fld w 1 5 with
  | 0 => need (fld w 6 5 = 0) (.pfxl (regAt w 21) (regAt w 16) (regAt w 11))
  | 1 => need (fld w 6 5 = 0) (.pfxi (regAt w 21) (regAt w 16) (regAt w 11))
  | 2 => need (fld w 6 5 = 0 ∧ fld w 21 5 = 0) (.pfxr (regAt w 16) (regAt w 11))
  | 3 => need (fld w 6 5 = 0) (.kva (regAt w 21) (regAt w 16) (regAt w 11))
  | 4 => need (fld w 6 10 = 0) (.kvh (regAt w 21) (regAt w 16))
  | 5 => need (fld w 6 5 = 0 ∧ fld w 21 5 = 0) (.kvrh (regAt w 16) (regAt w 11))
  | 6 => need (fld w 6 5 = 0 ∧ fld w 24 2 = 0) (.mskt (pregAt w 21) (regAt w 16) (regAt w 11))
  | _ => none

/-- Major 0x3C (R303). -/
def decodeMajor3C (w : Nat) : Option Instr :=
  match fld w 1 5 with
  | 0 => need (fld w 6 10 = 0) (.lqp (regAt w 21) (regAt w 16))
  | 1 => need (fld w 6 10 = 0) (.lqc (regAt w 21) (regAt w 16))
  | 2 => need (fld w 6 5 = 0) (.dqs (regAt w 21) (regAt w 16) (regAt w 11))
  | 3 => need (fld w 6 10 = 0) (.dqr (regAt w 21) (regAt w 16))
  | 4 => need (fld w 6 5 = 0) (.latx (regAt w 21) (regAt w 16) (regAt w 11))
  | 5 => need (fld w 6 5 = 0 ∧ fld w 21 5 = 0) (.trpub (regAt w 16) (regAt w 11))
  | _ => none

/-- Major 0x3D (R346). -/
def decodeMajor3D (w : Nat) : Option Instr :=
  match fld w 1 5 with
  | 0 => need (fld w 6 10 = 0 ∧ fld w 21 5 = 0) (.wake (regAt w 16))
  | 1 => need (fld w 6 10 = 0 ∧ fld w 21 5 = 0) (.mbnd (regAt w 16))
  | _ => none

/-- Major 0x3E (R328). -/
def decodeMajor3E (w : Nat) : Option Instr :=
  match fld w 1 5 with
  | 0 => need (fld w 16 5 = 0) (.mfs (regAt w 21) (Fin.ofNat 1024 (w / 2 ^ 6)))
  | 1 => need (fld w 21 5 = 0) (.mts (Fin.ofNat 1024 (w / 2 ^ 6)) (regAt w 16))
  | 2 => need (fld w 16 10 = 0) (.trap (Fin.ofNat 1024 (w / 2 ^ 6)))
  | 3 => need (fld w 16 10 = 0) (.sysc (Fin.ofNat 1024 (w / 2 ^ 6)))
  | 4 => need (fld w 16 10 = 0) (.brk (Fin.ofNat 1024 (w / 2 ^ 6)))
  | 5 => need (fld w 6 20 = 0) (.eret)
  | 6 => need (fld w 6 5 = 0 ∧ fld w 21 5 = 0) (.tlbi (regAt w 16) (regAt w 11))
  | 7 => need (fld w 6 5 = 0 ∧ fld w 21 5 = 0) (.ctxs (regAt w 16) (regAt w 11))
  | 8 => need (fld w 6 5 = 0 ∧ fld w 21 5 = 0) (.ctxr (regAt w 16) (regAt w 11))
  | _ => none

/-- The 32-bit words by major opcode (R70). -/
def decode32 (w : Nat) : Option Instr :=
  match fld w 26 6 with
  | 0x01 => decodeMajor01 w
  | 0x02 => some (.addi (regAt w 21) (regAt w 16) (BitVec.ofNat 15 (w / 2 ^ 1)))
  | 0x03 => some (.andi (regAt w 21) (regAt w 16) (BitVec.ofNat 15 (w / 2 ^ 1)))
  | 0x04 => some (.ori (regAt w 21) (regAt w 16) (BitVec.ofNat 15 (w / 2 ^ 1)))
  | 0x05 => some (.xori (regAt w 21) (regAt w 16) (BitVec.ofNat 15 (w / 2 ^ 1)))
  | 0x06 => need (fld w 7 9 = 0) (.shli (regAt w 21) (regAt w 16) (Fin.ofNat 64 (w / 2 ^ 1)))
  | 0x07 => need (fld w 7 9 = 0) (.shri (regAt w 21) (regAt w 16) (Fin.ofNat 64 (w / 2 ^ 1)))
  | 0x08 => need (fld w 7 9 = 0) (.sari (regAt w 21) (regAt w 16) (Fin.ofNat 64 (w / 2 ^ 1)))
  | 0x09 => some (.slti (regAt w 21) (regAt w 16) (BitVec.ofNat 15 (w / 2 ^ 1)))
  | 0x0A => some (.sloi (regAt w 21) (regAt w 16) (BitVec.ofNat 15 (w / 2 ^ 1)))
  | 0x0B => some (.muli (regAt w 21) (regAt w 16) (BitVec.ofNat 15 (w / 2 ^ 1)))
  | 0x0C => some (.ldhi (regAt w 21) (BitVec.ofNat 20 (w / 2 ^ 1)))
  | 0x0D => some (.adpc (regAt w 21) (BitVec.ofNat 20 (w / 2 ^ 1)))
  | 0x10 => some (.j (BitVec.ofNat 25 (w / 2 ^ 1)))
  | 0x11 => some (.jal (BitVec.ofNat 25 (w / 2 ^ 1)))
  | 0x12 => if fld w 21 5 = 0 then some (.jr (regAt w 16) (BitVec.ofNat 15 (w / 2 ^ 1))) else some (.jalr (regAt w 21) (regAt w 16) (BitVec.ofNat 15 (w / 2 ^ 1)))
  | 0x13 => some (.beq (regAt w 21) (regAt w 16) (BitVec.ofNat 15 (w / 2 ^ 1)))
  | 0x14 => some (.bne (regAt w 21) (regAt w 16) (BitVec.ofNat 15 (w / 2 ^ 1)))
  | 0x15 => some (.blt (regAt w 21) (regAt w 16) (BitVec.ofNat 15 (w / 2 ^ 1)))
  | 0x16 => some (.bge (regAt w 21) (regAt w 16) (BitVec.ofNat 15 (w / 2 ^ 1)))
  | 0x17 => some (.blo (regAt w 21) (regAt w 16) (BitVec.ofNat 15 (w / 2 ^ 1)))
  | 0x18 => some (.bhs (regAt w 21) (regAt w 16) (BitVec.ofNat 15 (w / 2 ^ 1)))
  | 0x19 => need (fld w 16 5 = 0) (.dbnz (regAt w 21) (BitVec.ofNat 15 (w / 2 ^ 1)))
  | 0x1A => if fld w 25 1 = 0 then need (fld w 19 2 = 0 ∧ fld w 24 1 = 0) (.bpa (pregAt w 21) (pregAt w 16) (BitVec.ofNat 15 (w / 2 ^ 1))) else need (fld w 19 2 = 0 ∧ fld w 24 1 = 0) (.bpn (pregAt w 21) (pregAt w 16) (BitVec.ofNat 15 (w / 2 ^ 1)))
  | 0x1B => if fld w 13 3 = 7 then some (.ldq (regAt w 21) (regAt w 16) (BitVec.ofNat 12 (w / 2 ^ 1))) else (LoadSize.ofCode (fld w 13 3)).bind fun z => some (.ld z (regAt w 21) (regAt w 16) (BitVec.ofNat 12 (w / 2 ^ 1)))
  | 0x1C => if fld w 13 3 = 7 then some (.stq (regAt w 21) (regAt w 16) (BitVec.ofNat 12 (w / 2 ^ 1))) else (StoreSize.ofCode (fld w 13 3)).bind fun z => some (.st z (regAt w 21) (regAt w 16) (BitVec.ofNat 12 (w / 2 ^ 1)))
  | 0x1D => decodeMajor1D w
  | 0x1E => decodeMajor1E w
  | 0x1F => (Scope.ofCode (fld w 13 3)).bind fun sc => (FenceKind.ofCode (fld w 10 3)).bind fun k => need (fld w 1 9 = 0 ∧ fld w 16 10 = 0) (.fence sc k)
  | 0x20 => decodeMajor20 w
  | 0x21 => decodeMajor21 w
  | 0x22 => decodeMajor22 w
  | 0x23 => decodeMajor23 w
  | 0x24 => decodeMajor24 w
  | 0x25 => decodeMajor25 w
  | 0x28 => decodeMajor28 w
  | 0x29 => decodeMajor29 w
  | 0x2A => decodeMajor2A w
  | 0x2B => decodeMajor2B w
  | 0x2C => decodeMajor2C w
  | 0x2D => decodeMajor2D w
  | 0x2E => decodeMajor2E w
  | 0x2F => decodeMajor2F w
  | 0x30 => decodeMajor30 w
  | 0x31 => some (.vfma (regAt w 21) (regAt w 16) (regAt w 11) (regAt w 6) (pregAt w 3) (FloatType.ofCode (fld w 1 2)))
  | 0x32 => some (.vfms (regAt w 21) (regAt w 16) (regAt w 11) (regAt w 6) (pregAt w 3) (FloatType.ofCode (fld w 1 2)))
  | 0x35 => some (.mma (regAt w 21) (regAt w 16) (regAt w 11) (Fin.ofNat 4 (w / 2 ^ 9)) (Fin.ofNat 64 (w / 2 ^ 3)) (Fin.ofNat 4 (w / 2 ^ 1)))
  | 0x36 => some (.mmag (regAt w 21) (regAt w 16) (regAt w 11) (Fin.ofNat 4 (w / 2 ^ 9)) (Fin.ofNat 64 (w / 2 ^ 3)) (Fin.ofNat 4 (w / 2 ^ 1)))
  | 0x37 => decodeMajor37 w
  | 0x38 => decodeMajor38 w
  | 0x3A => decodeMajor3A w
  | 0x3B => decodeMajor3B w
  | 0x3C => decodeMajor3C w
  | 0x3D => decodeMajor3D w
  | 0x3E => decodeMajor3E w
  | _ => none

/-- The length in bits of the instruction whose first parcel is p (R62). -/
def lengthOf (p : Nat) : Nat := if p % 2 = 0 then 16 else 32

/-- The fields of a word, without the limits of `WellFormed`. -/
def decodeRaw (w : Nat) : Option Instr := if w % 2 = 0 then decodeC (w % 2 ^ 16) else decode32 (w % 2 ^ 32)

/-- The instruction a word is, or none when it is not an allocated instruction (R64, R71). -/
def decode (w : Nat) : Option Instr :=
  match decodeRaw w with
  | some i => if i.wf then some i else none
  | none => none

/-- The word of an encoded instruction (R65 to R87); the rows that have no encoding give none. -/
def encode : Instr → Option Nat
  | .cVaddf d s t => some (0x0000 + d.val * 0x80 + s.val * 0x4 + t.toNat * 2)
  | .cVsubf d s t => some (0x1000 + d.val * 0x80 + s.val * 0x4 + t.toNat * 2)
  | .cVmulf d s t => some (0x2000 + d.val * 0x80 + s.val * 0x4 + t.toNat * 2)
  | .cVmaxf d s t => some (0x3000 + d.val * 0x80 + s.val * 0x4 + t.toNat * 2)
  | .cVminf d s t => some (0x4000 + d.val * 0x80 + s.val * 0x4 + t.toNat * 2)
  | .cVaddi d s t => some (0x5000 + d.val * 0x80 + s.val * 0x4 + t.toNat * 2)
  | .cVsubi d s t => some (0x6000 + d.val * 0x80 + s.val * 0x4 + t.toNat * 2)
  | .cVmuli d s t => some (0x7000 + d.val * 0x80 + s.val * 0x4 + t.toNat * 2)
  | .cVmaxi d s t => some (0x8000 + d.val * 0x80 + s.val * 0x4 + t.toNat * 2)
  | .cVmini d s t => some (0x9000 + d.val * 0x80 + s.val * 0x4 + t.toNat * 2)
  | .cVand d s => some (0xA000 + d.val * 0x80 + s.val * 0x4)
  | .cVor d s => some (0xB000 + d.val * 0x80 + s.val * 0x4)
  | .cVxor d s => some (0xC000 + d.val * 0x80 + s.val * 0x4)
  | .cVmov d s => some (0xD000 + d.val * 0x80 + s.val * 0x4)
  | .cVnegf d s t => some (0xE000 + d.val * 0x80 + s.val * 0x4 + t.toNat * 2)
  | .cVabsf d s t => some (0xF000 + d.val * 0x80 + s.val * 0x4 + t.toNat * 2)
  | .add d a b => some (0x04000001 + d.val * 0x200000 + a.val * 0x10000 + b.val * 0x800)
  | .sub d a b => some (0x04000003 + d.val * 0x200000 + a.val * 0x10000 + b.val * 0x800)
  | .mul d a b => some (0x04000005 + d.val * 0x200000 + a.val * 0x10000 + b.val * 0x800)
  | .mulh d a b => some (0x04000007 + d.val * 0x200000 + a.val * 0x10000 + b.val * 0x800)
  | .mulhz d a b => some (0x04000009 + d.val * 0x200000 + a.val * 0x10000 + b.val * 0x800)
  | .div d a b => some (0x0400000B + d.val * 0x200000 + a.val * 0x10000 + b.val * 0x800)
  | .divz d a b => some (0x0400000D + d.val * 0x200000 + a.val * 0x10000 + b.val * 0x800)
  | .rem d a b => some (0x0400000F + d.val * 0x200000 + a.val * 0x10000 + b.val * 0x800)
  | .remz d a b => some (0x04000011 + d.val * 0x200000 + a.val * 0x10000 + b.val * 0x800)
  | .and d a b => some (0x04000013 + d.val * 0x200000 + a.val * 0x10000 + b.val * 0x800)
  | .or d a b => some (0x04000015 + d.val * 0x200000 + a.val * 0x10000 + b.val * 0x800)
  | .xor d a b => some (0x04000017 + d.val * 0x200000 + a.val * 0x10000 + b.val * 0x800)
  | .andn d a b => some (0x04000019 + d.val * 0x200000 + a.val * 0x10000 + b.val * 0x800)
  | .shl d a b => some (0x0400001B + d.val * 0x200000 + a.val * 0x10000 + b.val * 0x800)
  | .shr d a b => some (0x0400001D + d.val * 0x200000 + a.val * 0x10000 + b.val * 0x800)
  | .sar d a b => some (0x0400001F + d.val * 0x200000 + a.val * 0x10000 + b.val * 0x800)
  | .clz d a => some (0x04000021 + d.val * 0x200000 + a.val * 0x10000)
  | .ctz d a => some (0x04000023 + d.val * 0x200000 + a.val * 0x10000)
  | .popc d a => some (0x04000025 + d.val * 0x200000 + a.val * 0x10000)
  | .min d a b => some (0x04000027 + d.val * 0x200000 + a.val * 0x10000 + b.val * 0x800)
  | .max d a b => some (0x04000029 + d.val * 0x200000 + a.val * 0x10000 + b.val * 0x800)
  | .minz d a b => some (0x0400002B + d.val * 0x200000 + a.val * 0x10000 + b.val * 0x800)
  | .maxz d a b => some (0x0400002D + d.val * 0x200000 + a.val * 0x10000 + b.val * 0x800)
  | .slt d a b => some (0x0400002F + d.val * 0x200000 + a.val * 0x10000 + b.val * 0x800)
  | .slo d a b => some (0x04000031 + d.val * 0x200000 + a.val * 0x10000 + b.val * 0x800)
  | .sel d a b c => some (0x04000033 + d.val * 0x200000 + a.val * 0x10000 + b.val * 0x800 + c.val * 0x40)
  | .ext d a b e => some (0x04000035 + d.val * 0x200000 + a.val * 0x10000 + b.val * 0x800 + e.val * 0x40)
  | .ins d a b e => some (0x04000037 + d.val * 0x200000 + a.val * 0x10000 + b.val * 0x800 + e.val * 0x40)
  | .addx d a b e => some (0x04000039 + d.val * 0x200000 + a.val * 0x10000 + b.val * 0x800 + e.val * 0x40)
  | .addi d a imm => some (0x08000001 + d.val * 0x200000 + a.val * 0x10000 + imm.toNat * 2)
  | .andi d a imm => some (0x0C000001 + d.val * 0x200000 + a.val * 0x10000 + imm.toNat * 2)
  | .ori d a imm => some (0x10000001 + d.val * 0x200000 + a.val * 0x10000 + imm.toNat * 2)
  | .xori d a imm => some (0x14000001 + d.val * 0x200000 + a.val * 0x10000 + imm.toNat * 2)
  | .shli d a n => some (0x18000001 + d.val * 0x200000 + a.val * 0x10000 + n.val * 2)
  | .shri d a n => some (0x1C000001 + d.val * 0x200000 + a.val * 0x10000 + n.val * 2)
  | .sari d a n => some (0x20000001 + d.val * 0x200000 + a.val * 0x10000 + n.val * 2)
  | .slti d a imm => some (0x24000001 + d.val * 0x200000 + a.val * 0x10000 + imm.toNat * 2)
  | .sloi d a imm => some (0x28000001 + d.val * 0x200000 + a.val * 0x10000 + imm.toNat * 2)
  | .muli d a imm => some (0x2C000001 + d.val * 0x200000 + a.val * 0x10000 + imm.toNat * 2)
  | .ldhi d imm => some (0x30000001 + d.val * 0x200000 + imm.toNat * 2)
  | .adpc d imm => some (0x34000001 + d.val * 0x200000 + imm.toNat * 2)
  | .j off => some (0x40000001 + off.toNat * 2)
  | .jal off => some (0x44000001 + off.toNat * 2)
  | .jalr d a imm => some (0x48000001 + d.val * 0x200000 + a.val * 0x10000 + imm.toNat * 2)
  | .jr a imm => some (0x48000001 + a.val * 0x10000 + imm.toNat * 2)
  | .beq a b off => some (0x4C000001 + a.val * 0x200000 + b.val * 0x10000 + off.toNat * 2)
  | .bne a b off => some (0x50000001 + a.val * 0x200000 + b.val * 0x10000 + off.toNat * 2)
  | .blt a b off => some (0x54000001 + a.val * 0x200000 + b.val * 0x10000 + off.toNat * 2)
  | .bge a b off => some (0x58000001 + a.val * 0x200000 + b.val * 0x10000 + off.toNat * 2)
  | .blo a b off => some (0x5C000001 + a.val * 0x200000 + b.val * 0x10000 + off.toNat * 2)
  | .bhs a b off => some (0x60000001 + a.val * 0x200000 + b.val * 0x10000 + off.toNat * 2)
  | .dbnz a off => some (0x64000001 + a.val * 0x200000 + off.toNat * 2)
  | .bpa g b off => some (0x68000001 + g.val * 0x200000 + b.val * 0x10000 + off.toNat * 2)
  | .bpn g b off => some (0x6A000001 + g.val * 0x200000 + b.val * 0x10000 + off.toNat * 2)
  | .ld z d a off => some (0x6C000001 + z.code * 0x2000 + d.val * 0x200000 + a.val * 0x10000 + off.toNat * 2)
  | .ldq d a off => some (0x6C00E001 + d.val * 0x200000 + a.val * 0x10000 + off.toNat * 2)
  | .st z d a off => some (0x70000001 + z.code * 0x2000 + d.val * 0x200000 + a.val * 0x10000 + off.toNat * 2)
  | .stq d a off => some (0x7000E001 + d.val * 0x200000 + a.val * 0x10000 + off.toNat * 2)
  | .ldx z d a b => some (0x74000001 + z.code * 0x100 + d.val * 0x200000 + a.val * 0x10000 + b.val * 0x800)
  | .stx z d a b => some (0x74000003 + z.code * 0x100 + d.val * 0x200000 + a.val * 0x10000 + b.val * 0x800)
  | .pf a b => some (0x74000005 + a.val * 0x10000 + b.val * 0x800)
  | .smap a b => some (0x74000007 + a.val * 0x10000 + b.val * 0x800)
  | .swb a b => some (0x74000009 + a.val * 0x10000 + b.val * 0x800)
  | .sdrop a b => some (0x7400000B + a.val * 0x10000 + b.val * 0x800)
  | .cfl a b => some (0x7400000D + a.val * 0x10000 + b.val * 0x800)
  | .cinv a b => some (0x7400000F + a.val * 0x10000 + b.val * 0x800)
  | .cbtake d a => some (0x74000011 + d.val * 0x200000 + a.val * 0x10000)
  | .cbgive a b => some (0x74000013 + a.val * 0x10000 + b.val * 0x800)
  | .amoAdd d a b aq rl w => some (0x78000001 + d.val * 0x200000 + a.val * 0x10000 + b.val * 0x800 + aq.toNat * 0x400 + rl.toNat * 0x200 + w.toNat * 0x100)
  | .amoAnd d a b aq rl w => some (0x78000003 + d.val * 0x200000 + a.val * 0x10000 + b.val * 0x800 + aq.toNat * 0x400 + rl.toNat * 0x200 + w.toNat * 0x100)
  | .amoOr d a b aq rl w => some (0x78000005 + d.val * 0x200000 + a.val * 0x10000 + b.val * 0x800 + aq.toNat * 0x400 + rl.toNat * 0x200 + w.toNat * 0x100)
  | .amoXor d a b aq rl w => some (0x78000007 + d.val * 0x200000 + a.val * 0x10000 + b.val * 0x800 + aq.toNat * 0x400 + rl.toNat * 0x200 + w.toNat * 0x100)
  | .amoMin d a b aq rl w => some (0x78000009 + d.val * 0x200000 + a.val * 0x10000 + b.val * 0x800 + aq.toNat * 0x400 + rl.toNat * 0x200 + w.toNat * 0x100)
  | .amoMax d a b aq rl w => some (0x7800000B + d.val * 0x200000 + a.val * 0x10000 + b.val * 0x800 + aq.toNat * 0x400 + rl.toNat * 0x200 + w.toNat * 0x100)
  | .amoSwp d a b aq rl w => some (0x7800000D + d.val * 0x200000 + a.val * 0x10000 + b.val * 0x800 + aq.toNat * 0x400 + rl.toNat * 0x200 + w.toNat * 0x100)
  | .amoCas d a b aq rl w => some (0x7800000F + d.val * 0x200000 + a.val * 0x10000 + b.val * 0x800 + aq.toNat * 0x400 + rl.toNat * 0x200 + w.toNat * 0x100)
  | .amoFadd d a b aq rl w => some (0x78000011 + d.val * 0x200000 + a.val * 0x10000 + b.val * 0x800 + aq.toNat * 0x400 + rl.toNat * 0x200 + w.toNat * 0x100)
  | .cas2 d a b aq rl => some (0x78000113 + d.val * 0x200000 + a.val * 0x10000 + b.val * 0x800 + aq.toNat * 0x400 + rl.toNat * 0x200)
  | .redAdd a b aq rl w => some (0x78000015 + a.val * 0x10000 + b.val * 0x800 + aq.toNat * 0x400 + rl.toNat * 0x200 + w.toNat * 0x100)
  | .redFadd a b aq rl w => some (0x78000017 + a.val * 0x10000 + b.val * 0x800 + aq.toNat * 0x400 + rl.toNat * 0x200 + w.toNat * 0x100)
  | .redMax a b aq rl w => some (0x78000019 + a.val * 0x10000 + b.val * 0x800 + aq.toNat * 0x400 + rl.toNat * 0x200 + w.toNat * 0x100)
  | .fence sc k => some (0x7C000001 + sc.code * 0x2000 + k.code * 0x400)
  | .spawn d a b => some (0x80000001 + d.val * 0x200000 + a.val * 0x10000 + b.val * 0x800)
  | .spawnj d a b => some (0x80000003 + d.val * 0x200000 + a.val * 0x10000 + b.val * 0x800)
  | .jdec a b => some (0x80000005 + a.val * 0x10000 + b.val * 0x800)
  | .jadd a b => some (0x80000007 + a.val * 0x10000 + b.val * 0x800)
  | .bind a b d => some (0x80000009 + a.val * 0x10000 + b.val * 0x800 + d.val * 0x200000)
  | .taskEnd => some (0x84000001)
  | .endj a => some (0x84000003 + a.val * 0x10000)
  | .endwJoin a b => some (0x84000005 + a.val * 0x10000 + b.val * 0x800)
  | .endwJob a b => some (0x84000007 + a.val * 0x10000 + b.val * 0x800)
  | .endwCb a b => some (0x84000009 + a.val * 0x10000 + b.val * 0x800)
  | .endwBar a b => some (0x8400000B + a.val * 0x10000 + b.val * 0x800)
  | .endwFeed a b => some (0x8400000D + a.val * 0x10000 + b.val * 0x800)
  | .endwRoom a b => some (0x8400000F + a.val * 0x10000 + b.val * 0x800)
  | .endwDq a b => some (0x84000011 + a.val * 0x10000 + b.val * 0x800)
  | .yld => some (0x84000013)
  | .send d a b => some (0x88000001 + d.val * 0x200000 + a.val * 0x10000 + b.val * 0x800)
  | .sendr d a b c => some (0x88000003 + d.val * 0x200000 + a.val * 0x10000 + b.val * 0x800 + c.val * 0x40)
  | .bari a b => some (0x8C000001 + a.val * 0x10000 + b.val * 0x800)
  | .bara a => some (0x8C000003 + a.val * 0x10000)
  | .barm a b => some (0x8C000005 + a.val * 0x10000 + b.val * 0x800)
  | .wlpush a b => some (0x90000001 + a.val * 0x10000 + b.val * 0x800)
  | .wlpop d => some (0x90000003 + d.val * 0x200000)
  | .wlcnt d => some (0x90000005 + d.val * 0x200000)
  | .launch d a => some (0x94000001 + d.val * 0x200000 + a.val * 0x10000)
  | .fpop d a => some (0x94000003 + d.val * 0x200000 + a.val * 0x10000)
  | .vwid d => some (0xA0000001 + d.val * 0x200000)
  | .plb pd a b pg t => some (0xA0000011 + pd.val * 0x200000 + a.val * 0x10000 + b.val * 0x800 + pg.val * 0x100 + t.code * 2)
  | .pand pd pa pb pg => some (0xA0000021 + pd.val * 0x200000 + pa.val * 0x10000 + pb.val * 0x800 + pg.val * 0x100)
  | .por pd pa pb pg => some (0xA0000031 + pd.val * 0x200000 + pa.val * 0x10000 + pb.val * 0x800 + pg.val * 0x100)
  | .pxor pd pa pb pg => some (0xA0000041 + pd.val * 0x200000 + pa.val * 0x10000 + pb.val * 0x800 + pg.val * 0x100)
  | .pnot pd pa pg => some (0xA0000051 + pd.val * 0x200000 + pa.val * 0x10000 + pg.val * 0x100)
  | .pfst pd pa pg t => some (0xA0000061 + pd.val * 0x200000 + pa.val * 0x10000 + pg.val * 0x100 + t.code * 2)
  | .pcnt d pa pg t => some (0xA0000071 + d.val * 0x200000 + pa.val * 0x10000 + pg.val * 0x100 + t.code * 2)
  | .vadd d a b pg t => some (0xA4000001 + d.val * 0x200000 + a.val * 0x10000 + b.val * 0x800 + pg.val * 0x100 + t.code * 2)
  | .vsub d a b pg t => some (0xA4000011 + d.val * 0x200000 + a.val * 0x10000 + b.val * 0x800 + pg.val * 0x100 + t.code * 2)
  | .vmul d a b pg t => some (0xA4000021 + d.val * 0x200000 + a.val * 0x10000 + b.val * 0x800 + pg.val * 0x100 + t.code * 2)
  | .vdiv d a b pg t => some (0xA4000031 + d.val * 0x200000 + a.val * 0x10000 + b.val * 0x800 + pg.val * 0x100 + t.code * 2)
  | .vdivUnsigned d a b pg t => some (0xA4000041 + d.val * 0x200000 + a.val * 0x10000 + b.val * 0x800 + pg.val * 0x100 + t.code * 2)
  | .vmax d a b pg t => some (0xA4000051 + d.val * 0x200000 + a.val * 0x10000 + b.val * 0x800 + pg.val * 0x100 + t.code * 2)
  | .vmaxUnsigned d a b pg t => some (0xA4000061 + d.val * 0x200000 + a.val * 0x10000 + b.val * 0x800 + pg.val * 0x100 + t.code * 2)
  | .vmin d a b pg t => some (0xA4000071 + d.val * 0x200000 + a.val * 0x10000 + b.val * 0x800 + pg.val * 0x100 + t.code * 2)
  | .vminUnsigned d a b pg t => some (0xA4000081 + d.val * 0x200000 + a.val * 0x10000 + b.val * 0x800 + pg.val * 0x100 + t.code * 2)
  | .vabs d a pg t => some (0xA4000091 + d.val * 0x200000 + a.val * 0x10000 + pg.val * 0x100 + t.code * 2)
  | .vneg d a pg t => some (0xA40000A1 + d.val * 0x200000 + a.val * 0x10000 + pg.val * 0x100 + t.code * 2)
  | .vsel d a b pg t => some (0xA40000B1 + d.val * 0x200000 + a.val * 0x10000 + b.val * 0x800 + pg.val * 0x100 + t.code * 2)
  | .vsqrt d a pg t => some (0xA8000001 + d.val * 0x200000 + a.val * 0x10000 + pg.val * 0x100 + t.code * 2)
  | .vrcp d a pg t => some (0xA8000011 + d.val * 0x200000 + a.val * 0x10000 + pg.val * 0x100 + t.code * 2)
  | .vrsq d a pg t => some (0xA8000021 + d.val * 0x200000 + a.val * 0x10000 + pg.val * 0x100 + t.code * 2)
  | .vexp2 d a pg t => some (0xA8000031 + d.val * 0x200000 + a.val * 0x10000 + pg.val * 0x100 + t.code * 2)
  | .vlog2 d a pg t => some (0xA8000041 + d.val * 0x200000 + a.val * 0x10000 + pg.val * 0x100 + t.code * 2)
  | .vtanh d a pg t => some (0xA8000051 + d.val * 0x200000 + a.val * 0x10000 + pg.val * 0x100 + t.code * 2)
  | .vsin d a pg t => some (0xA8000061 + d.val * 0x200000 + a.val * 0x10000 + pg.val * 0x100 + t.code * 2)
  | .vand d a b pg t => some (0xAC000001 + d.val * 0x200000 + a.val * 0x10000 + b.val * 0x800 + pg.val * 0x100 + t.code * 2)
  | .vor d a b pg t => some (0xAC000011 + d.val * 0x200000 + a.val * 0x10000 + b.val * 0x800 + pg.val * 0x100 + t.code * 2)
  | .vxor d a b pg t => some (0xAC000021 + d.val * 0x200000 + a.val * 0x10000 + b.val * 0x800 + pg.val * 0x100 + t.code * 2)
  | .vnot d a pg t => some (0xAC000031 + d.val * 0x200000 + a.val * 0x10000 + pg.val * 0x100 + t.code * 2)
  | .vshl d a b pg t => some (0xAC000041 + d.val * 0x200000 + a.val * 0x10000 + b.val * 0x800 + pg.val * 0x100 + t.code * 2)
  | .vshr d a b pg t => some (0xAC000051 + d.val * 0x200000 + a.val * 0x10000 + b.val * 0x800 + pg.val * 0x100 + t.code * 2)
  | .vsar d a b pg t => some (0xAC000061 + d.val * 0x200000 + a.val * 0x10000 + b.val * 0x800 + pg.val * 0x100 + t.code * 2)
  | .vcmpEq pd a b pg t => some (0xB0000001 + pd.val * 0x200000 + a.val * 0x10000 + b.val * 0x800 + pg.val * 0x100 + t.code * 2)
  | .vcmpNe pd a b pg t => some (0xB0000011 + pd.val * 0x200000 + a.val * 0x10000 + b.val * 0x800 + pg.val * 0x100 + t.code * 2)
  | .vcmpLt pd a b pg t => some (0xB0000021 + pd.val * 0x200000 + a.val * 0x10000 + b.val * 0x800 + pg.val * 0x100 + t.code * 2)
  | .vcmpLe pd a b pg t => some (0xB0000031 + pd.val * 0x200000 + a.val * 0x10000 + b.val * 0x800 + pg.val * 0x100 + t.code * 2)
  | .vcmpLo pd a b pg t => some (0xB0000041 + pd.val * 0x200000 + a.val * 0x10000 + b.val * 0x800 + pg.val * 0x100 + t.code * 2)
  | .vcmpLs pd a b pg t => some (0xB0000051 + pd.val * 0x200000 + a.val * 0x10000 + b.val * 0x800 + pg.val * 0x100 + t.code * 2)
  | .vcvt d a cv pg t => some (0xB0000061 + d.val * 0x200000 + a.val * 0x10000 + cv.val * 0x800 + pg.val * 0x100 + t.code * 2)
  | .vcvtUnsigned d a cv pg t => some (0xB0000071 + d.val * 0x200000 + a.val * 0x10000 + cv.val * 0x800 + pg.val * 0x100 + t.code * 2)
  | .vqnt d a cv pg t => some (0xB0000081 + d.val * 0x200000 + a.val * 0x10000 + cv.val * 0x800 + pg.val * 0x100 + t.code * 2)
  | .vdqt d a cv pg t => some (0xB0000091 + d.val * 0x200000 + a.val * 0x10000 + cv.val * 0x800 + pg.val * 0x100 + t.code * 2)
  | .vredAdd d a pg t => some (0xB4000001 + d.val * 0x200000 + a.val * 0x10000 + pg.val * 0x100 + t.code * 2)
  | .vredMax d a pg t => some (0xB4000011 + d.val * 0x200000 + a.val * 0x10000 + pg.val * 0x100 + t.code * 2)
  | .vredMaxUnsigned d a pg t => some (0xB4000021 + d.val * 0x200000 + a.val * 0x10000 + pg.val * 0x100 + t.code * 2)
  | .vredMin d a pg t => some (0xB4000031 + d.val * 0x200000 + a.val * 0x10000 + pg.val * 0x100 + t.code * 2)
  | .vredMinUnsigned d a pg t => some (0xB4000041 + d.val * 0x200000 + a.val * 0x10000 + pg.val * 0x100 + t.code * 2)
  | .vscanAdd d a pg t => some (0xB4000051 + d.val * 0x200000 + a.val * 0x10000 + pg.val * 0x100 + t.code * 2)
  | .vscanMax d a pg t => some (0xB4000061 + d.val * 0x200000 + a.val * 0x10000 + pg.val * 0x100 + t.code * 2)
  | .vscanMaxUnsigned d a pg t => some (0xB4000071 + d.val * 0x200000 + a.val * 0x10000 + pg.val * 0x100 + t.code * 2)
  | .vargmMax d a pg t => some (0xB4000081 + d.val * 0x200000 + a.val * 0x10000 + pg.val * 0x100 + t.code * 2)
  | .vargmMaxUnsigned d a pg t => some (0xB4000091 + d.val * 0x200000 + a.val * 0x10000 + pg.val * 0x100 + t.code * 2)
  | .vargmMin d a pg t => some (0xB40000A1 + d.val * 0x200000 + a.val * 0x10000 + pg.val * 0x100 + t.code * 2)
  | .vargmMinUnsigned d a pg t => some (0xB40000B1 + d.val * 0x200000 + a.val * 0x10000 + pg.val * 0x100 + t.code * 2)
  | .vperm d a b pg t => some (0xB8000001 + d.val * 0x200000 + a.val * 0x10000 + b.val * 0x800 + pg.val * 0x100 + t.code * 2)
  | .vbcast d a pg t => some (0xB8000011 + d.val * 0x200000 + a.val * 0x10000 + pg.val * 0x100 + t.code * 2)
  | .vext d a b pg t => some (0xB8000021 + d.val * 0x200000 + a.val * 0x10000 + b.val * 0x800 + pg.val * 0x100 + t.code * 2)
  | .vins d a b pg t => some (0xB8000031 + d.val * 0x200000 + a.val * 0x10000 + b.val * 0x800 + pg.val * 0x100 + t.code * 2)
  | .vidx d pg t => some (0xB8000041 + d.val * 0x200000 + pg.val * 0x100 + t.code * 2)
  | .vmov d a pg t => some (0xB8000051 + d.val * 0x200000 + a.val * 0x10000 + pg.val * 0x100 + t.code * 2)
  | .vld d a b pg t => some (0xBC000001 + d.val * 0x200000 + a.val * 0x10000 + b.val * 0x800 + pg.val * 0x100 + t.code * 2)
  | .vst d a b pg t => some (0xBC000011 + d.val * 0x200000 + a.val * 0x10000 + b.val * 0x800 + pg.val * 0x100 + t.code * 2)
  | .vlds d a b pg t => some (0xBC000021 + d.val * 0x200000 + a.val * 0x10000 + b.val * 0x800 + pg.val * 0x100 + t.code * 2)
  | .vsts d a b pg t => some (0xBC000031 + d.val * 0x200000 + a.val * 0x10000 + b.val * 0x800 + pg.val * 0x100 + t.code * 2)
  | .vgth d a b pg t => some (0xBC000041 + d.val * 0x200000 + a.val * 0x10000 + b.val * 0x800 + pg.val * 0x100 + t.code * 2)
  | .vsct d a b pg t => some (0xBC000051 + d.val * 0x200000 + a.val * 0x10000 + b.val * 0x800 + pg.val * 0x100 + t.code * 2)
  | .vldt d a b pg t => some (0xBC000061 + d.val * 0x200000 + a.val * 0x10000 + b.val * 0x800 + pg.val * 0x100 + t.code * 2)
  | .vstt d a b pg t => some (0xBC000071 + d.val * 0x200000 + a.val * 0x10000 + b.val * 0x800 + pg.val * 0x100 + t.code * 2)
  | .vrng d pg t => some (0xC0000001 + d.val * 0x200000 + pg.val * 0x100 + t.code * 2)
  | .vrngc d a b pg t => some (0xC0000011 + d.val * 0x200000 + a.val * 0x10000 + b.val * 0x800 + pg.val * 0x100 + t.code * 2)
  | .vfma d a b c pg t => some (0xC4000001 + d.val * 0x200000 + a.val * 0x10000 + b.val * 0x800 + c.val * 0x40 + pg.val * 0x8 + t.code * 2)
  | .vfms d a b c pg t => some (0xC8000001 + d.val * 0x200000 + a.val * 0x10000 + b.val * 0x800 + c.val * 0x40 + pg.val * 0x8 + t.code * 2)
  | .mma a b c m n ec => some (0xD4000001 + a.val * 0x200000 + b.val * 0x10000 + c.val * 0x800 + m.val * 0x200 + n.val * 0x8 + ec.val * 2)
  | .mmag a b c m n ec => some (0xD8000001 + a.val * 0x200000 + b.val * 0x10000 + c.val * 0x800 + m.val * 0x200 + n.val * 0x8 + ec.val * 2)
  | .mzero d a => some (0xDC000001 + d.val * 0x200000 + a.val * 0x10000)
  | .mldt d a b => some (0xDC000003 + d.val * 0x200000 + a.val * 0x10000 + b.val * 0x800)
  | .mstt d a b => some (0xDC000005 + d.val * 0x200000 + a.val * 0x10000 + b.val * 0x800)
  | .msend d a b => some (0xDC000007 + d.val * 0x200000 + a.val * 0x10000 + b.val * 0x800)
  | .cpy d a b ec => some (0xDC000009 + d.val * 0x200000 + a.val * 0x10000 + b.val * 0x800 + ec.val * 0x40)
  | .cpyg d a b => some (0xDC00000B + d.val * 0x200000 + a.val * 0x10000 + b.val * 0x800)
  | .jpoll d a => some (0xDC00000D + d.val * 0x200000 + a.val * 0x10000)
  | .qfen d a => some (0xDC00000F + d.val * 0x200000 + a.val * 0x10000)
  | .mvc d a b ec => some (0xDC000011 + d.val * 0x200000 + a.val * 0x10000 + b.val * 0x800 + ec.val * 0x40)
  | .tdef a b => some (0xE0000001 + a.val * 0x10000 + b.val * 0x800)
  | .tund a => some (0xE0000003 + a.val * 0x10000)
  | .tqry d a => some (0xE0000005 + d.val * 0x200000 + a.val * 0x10000)
  | .nalloc d => some (0xE8000001 + d.val * 0x200000)
  | .nfree a => some (0xE8000003 + a.val * 0x10000)
  | .nld d a w => some (0xE8000005 + d.val * 0x200000 + a.val * 0x10000 + w.val * 0x40)
  | .nst d a w => some (0xE8000007 + d.val * 0x200000 + a.val * 0x10000 + w.val * 0x40)
  | .link d a b => some (0xE8000009 + d.val * 0x200000 + a.val * 0x10000 + b.val * 0x800)
  | .pushp a b => some (0xE800000B + a.val * 0x10000 + b.val * 0x800)
  | .neti d a => some (0xE800000D + d.val * 0x200000 + a.val * 0x10000)
  | .prodl a b => some (0xE800000F + a.val * 0x10000 + b.val * 0x800)
  | .bagcnt d => some (0xE8000011 + d.val * 0x200000)
  | .nrel a => some (0xE8000013 + a.val * 0x10000)
  | .pfxl d a b => some (0xEC000001 + d.val * 0x200000 + a.val * 0x10000 + b.val * 0x800)
  | .pfxi d a b => some (0xEC000003 + d.val * 0x200000 + a.val * 0x10000 + b.val * 0x800)
  | .pfxr a b => some (0xEC000005 + a.val * 0x10000 + b.val * 0x800)
  | .kva d a b => some (0xEC000007 + d.val * 0x200000 + a.val * 0x10000 + b.val * 0x800)
  | .kvh d a => some (0xEC000009 + d.val * 0x200000 + a.val * 0x10000)
  | .kvrh a b => some (0xEC00000B + a.val * 0x10000 + b.val * 0x800)
  | .mskt pd a b => some (0xEC00000D + pd.val * 0x200000 + a.val * 0x10000 + b.val * 0x800)
  | .lqp d a => some (0xF0000001 + d.val * 0x200000 + a.val * 0x10000)
  | .lqc d a => some (0xF0000003 + d.val * 0x200000 + a.val * 0x10000)
  | .dqs d a b => some (0xF0000005 + d.val * 0x200000 + a.val * 0x10000 + b.val * 0x800)
  | .dqr d a => some (0xF0000007 + d.val * 0x200000 + a.val * 0x10000)
  | .latx d a b => some (0xF0000009 + d.val * 0x200000 + a.val * 0x10000 + b.val * 0x800)
  | .trpub a b => some (0xF000000B + a.val * 0x10000 + b.val * 0x800)
  | .wake a => some (0xF4000001 + a.val * 0x10000)
  | .mbnd a => some (0xF4000003 + a.val * 0x10000)
  | .mfs d n => some (0xF8000001 + d.val * 0x200000 + n.val * 0x40)
  | .mts n a => some (0xF8000003 + n.val * 0x40 + a.val * 0x10000)
  | .trap n => some (0xF8000005 + n.val * 0x40)
  | .sysc n => some (0xF8000007 + n.val * 0x40)
  | .brk n => some (0xF8000009 + n.val * 0x40)
  | .eret => some (0xF800000B)
  | .tlbi a b => some (0xF800000D + a.val * 0x10000 + b.val * 0x800)
  | .ctxs a b => some (0xF800000F + a.val * 0x10000 + b.val * 0x800)
  | .ctxr a b => some (0xF8000011 + a.val * 0x10000 + b.val * 0x800)
  | _ => none

/-- The instruction the decoder reads from a word of nbits bits, as the opcode table numbers them. -/
def decodeTableWord (nbits w : Nat) : Option Instr := decode (w % 2 ^ nbits)

end Sys2Proof
end

