-- ==== Sys2Proof/Machine/Aes.lean ====
section
/-! DEFINITION. The cipher of protected pages (R375): AES with a 128-bit key (FIPS 197) in XTS mode (IEEE 1619). Every step of it is a
permutation, so that deciphering is its inverse. -/

namespace Sys2Proof.Machine

/-- The bytes of a block, in the order in which they stand in memory; byte 4c + r is row r of column c. -/
abbrev AesBytes := Fin 16 → BitVec 8

/-- The S-box, 16 bytes to a number, the first byte the lowest. -/
def sboxRows : List Nat :=
  [0x76ABD7FE2B670130C56F6BF27B777C63, 0xC072A49CAFA2D4ADF04759FA7DC982CA, 0x1531D871F1E5A534CCF73F362693FDB7,
    0x75B227EBE28012079A059618C323C704, 0x842FE329B3D63B52A05A6E1B1A2C8309, 0xCF584C4A39BECB6A5BB1FC20ED00D153,
    0xA89F3C507F02F94585334D43FBAAEFD0, 0xD2F3FF1021DAB6BCF5389D928F40A351, 0x73195D643D7EA7C41744975FEC130CCD,
    0xDB0B5EDE14B8EE4688902A22DC4F8160, 0x79E4959162ACD3C25C2406490A3A32E0, 0x08AE7A65EAF4566CA94ED58D6D37C8E7,
    0x8A8BBD4B1F74DDE8C6B4A61C2E2578BA, 0x9E1DC186B95735610EF6034866B53E70, 0xDF2855CEE9871E9B948ED9691198F8E1,
    0x16BB54B00F2D99416842E6BF0D89A18C]

/-- The inverse S-box, laid out alike. -/
def sboxInvRows : List Nat :=
  [0xFBD7F3819EA340BF38A53630D56A0952, 0xCBE9DEC444438E3487FF2F9B8239E37C, 0x4EC3FA420B954CEE3D23C2A632947B54,
    0x25D18B6D49A25B76B224D92866A12E08, 0x92B6655DCC5CA4D41698688664F6F872, 0x849D8DA75746155EDAB9EDFD5048706C,
    0x0645B3B80558E4F70AD3BC8C00ABD890, 0x6B8A130103BDAFC1020F3FCA8F1E2CD0, 0x73E6B4F0CECFF297EADC674F4111913A,
    0x6EDF751CE837F9E28535ADE72274AC96, 0x1BBE18AA0E62B76F89C5291D711AF147, 0xF45ACD78FEC0DB9A2079D2C64B3E56FC,
    0x5FEC8027591012B131C7078833A8DD1F, 0xEF9CC9939F7AE52D0D4AB519A97F5160, 0x619953833CBBEBC8B0F52AAE4D3BE0A0,
    0x7D0C2155631469E126D677BA7E042B17]

/-- A byte of a table of 16 rows. -/
def tableByte (t : List Nat) (a : BitVec 8) : BitVec 8 :=
  BitVec.ofNat 8 ((t[a.toNat / 16]?).getD 0 >>> (8 * (a.toNat % 16)))

/-- The S-box as a permutation of bytes. -/
def sbox : Equiv.Perm (BitVec 8) where
  toFun := tableByte sboxRows
  invFun := tableByte sboxInvRows
  left_inv := by unfold Function.LeftInverse; decide +kernel
  right_inv := by unfold Function.RightInverse Function.LeftInverse; decide +kernel

/-- Twice an element of GF(2^8). -/
def xtime (b : BitVec 8) : BitVec 8 := (b <<< 1) ^^^ (if b.getLsbD 7 then 0x1B#8 else 0#8)

theorem xor_swap (a b c : BitVec 8) : a ^^^ (b ^^^ c) = b ^^^ (a ^^^ c) := by
  rw [← BitVec.xor_assoc, ← BitVec.xor_assoc, BitVec.xor_comm a b]

theorem xor_cancel (a b : BitVec 8) : a ^^^ (a ^^^ b) = b := by
  rw [← BitVec.xor_assoc, BitVec.xor_self, BitVec.zero_xor]

theorem xtime_xor (a b : BitVec 8) : xtime (a ^^^ b) = xtime a ^^^ xtime b := by
  unfold xtime
  rw [BitVec.shiftLeft_xor_distrib, BitVec.getLsbD_xor]
  cases a.getLsbD 7 <;> cases b.getLsbD 7 <;> simp [BitVec.xor_assoc, BitVec.xor_comm, xor_swap]

/-- A byte of MixColumns from the bytes of its column, its own first. -/
def mixByte (a b c d : BitVec 8) : BitVec 8 := xtime a ^^^ (xtime b ^^^ b) ^^^ c ^^^ d

/-- A byte of MixColumns made twice. -/
def mixByte2 (a c : BitVec 8) : BitVec 8 := xtime (xtime a) ^^^ a ^^^ xtime (xtime c)

theorem mixByte_twice (a b c d : BitVec 8) :
    mixByte (mixByte a b c d) (mixByte b c d a) (mixByte c d a b) (mixByte d a b c) = mixByte2 a c := by
  simp only [mixByte, mixByte2, xtime_xor]
  generalize xtime (xtime a) = a2
  generalize xtime (xtime b) = b2
  generalize xtime (xtime c) = c2
  generalize xtime a = a1
  generalize xtime b = b1
  generalize xtime c = c1
  generalize xtime d = d1
  ext i hi
  simp only [BitVec.getElem_xor]
  have all : ∀ a2 b2 c2 a1 b1 c1 d1 a b c d : Bool,
      (a2 ^^ (b2 ^^ b1) ^^ c1 ^^ d1 ^^ (b2 ^^ (c2 ^^ c1) ^^ d1 ^^ a1 ^^ (b1 ^^ (c1 ^^ c) ^^ d ^^ a)) ^^ (c1 ^^ (d1 ^^ d) ^^ a ^^ b) ^^
        (d1 ^^ (a1 ^^ a) ^^ b ^^ c)) = (a2 ^^ a ^^ c2) := by decide +kernel
  exact all ..

theorem mixByte2_twice (a c : BitVec 8) : mixByte2 (mixByte2 a c) (mixByte2 c a) = a := by
  simp only [mixByte2, xtime_xor, BitVec.xor_assoc, xor_swap, xor_cancel]
  simp

/-- MixColumns. -/
def mixColumns (x : AesBytes) : AesBytes := fun i =>
  let at_ (k : Nat) : BitVec 8 := x ⟨i.val / 4 * 4 + (i.val + k) % 4, by omega⟩
  mixByte (at_ 0) (at_ 1) (at_ 2) (at_ 3)

theorem mixColumns_twice (x : AesBytes) (i : Fin 16) :
    mixColumns (mixColumns x) i = mixByte2 (x i) (x ⟨i.val / 4 * 4 + (i.val + 2) % 4, by omega⟩) := by
  fin_cases i <;> exact mixByte_twice ..

theorem mixColumns_four (x : AesBytes) : mixColumns (mixColumns (mixColumns (mixColumns x))) = x := by
  funext i
  rw [mixColumns_twice, mixColumns_twice, mixColumns_twice]
  fin_cases i <;> exact mixByte2_twice ..

/-- MixColumns as a permutation: its fourth power is the identity. -/
def mixPerm : Equiv.Perm AesBytes where
  toFun := mixColumns
  invFun x := mixColumns (mixColumns (mixColumns x))
  left_inv := mixColumns_four
  right_inv := mixColumns_four

/-- SubBytes. -/
def subPerm : Equiv.Perm AesBytes := Equiv.piCongrRight fun _ => sbox

/-- Where ShiftRows takes byte i from: row r is rotated by r columns. -/
def shiftFrom : Equiv.Perm (Fin 16) where
  toFun i := ⟨(i.val + 4 * (i.val % 4)) % 16, by omega⟩
  invFun i := ⟨(i.val + 12 * (i.val % 4)) % 16, by omega⟩
  left_inv i := by ext; simp; omega
  right_inv i := by ext; simp; omega

/-- ShiftRows. -/
def shiftPerm : Equiv.Perm AesBytes := Equiv.arrowCongr shiftFrom.symm (Equiv.refl _)

/-- The number of a list of bytes, the first the lowest. -/
def packList : List (BitVec 8) → Nat
  | [] => 0
  | b :: l => b.toNat ||| packList l <<< 8

theorem packList_testBit (l : List (BitVec 8)) (i j : Nat) (hj : j < 8) :
    (packList l).testBit (8 * i + j) = (l[i]?.getD 0).getLsbD j := by
  induction l generalizing i with
  | nil => simp [packList]
  | cons b l ih =>
    simp only [packList, Nat.testBit_or, Nat.testBit_shiftLeft]
    cases i with
    | zero => simp [BitVec.getLsbD, hj]
    | succ i =>
      have h : b.toNat.testBit (8 * (i + 1) + j) = false :=
        Nat.testBit_lt_two_pow (lt_of_lt_of_le b.isLt (Nat.pow_le_pow_right (by decide) (by omega)))
      rw [h, show 8 * (i + 1) + j - 8 = 8 * i + j by omega, ih i]
      simp
      omega

/-- A block from its bytes, byte 0 the lowest. -/
def packBlock (f : AesBytes) : BitVec 128 := BitVec.ofNat 128 (packList (List.ofFn f))

theorem packBlock_getLsbD (f : AesBytes) (i : Fin 16) (j : Nat) (hj : j < 8) : (packBlock f).getLsbD (8 * i.val + j) = (f i).getLsbD j := by
  rw [packBlock, BitVec.getLsbD_ofNat, packList_testBit _ _ _ hj]
  have h : (List.ofFn f)[i.val]? = some (f i) := by rw [List.getElem?_ofFn, dif_pos i.isLt]
  simp only [h, Option.getD_some, decide_eq_true (show 8 * i.val + j < 128 by omega), Bool.true_and]

/-- A block and its bytes. -/
def blockBytes : BitVec 128 ≃ AesBytes where
  toFun x i := x.extractLsb' (8 * i.val) 8
  invFun := packBlock
  left_inv x := by
    apply BitVec.eq_of_getLsbD_eq
    intro i hi
    have h := packBlock_getLsbD (fun i => x.extractLsb' (8 * i.val) 8) ⟨i / 8, by omega⟩ (i % 8) (by omega)
    simp only [Nat.div_add_mod] at h
    rw [h, BitVec.getLsbD_extractLsb', Nat.div_add_mod]
    simp [Nat.mod_lt]
  right_inv f := by
    funext i
    apply BitVec.eq_of_getLsbD_eq
    intro j hj
    rw [BitVec.getLsbD_extractLsb', packBlock_getLsbD f i j hj]
    simp [hj]

/-- Two blocks added in GF(2). -/
def xorPerm (k : BitVec 128) : Equiv.Perm (BitVec 128) where
  toFun x := x ^^^ k
  invFun x := x ^^^ k
  left_inv x := by simp
  right_inv x := by simp

/-- The round key after another, with its round constant: its word c is the sum of the words up to c and of the last word rotated,
substituted and added to the constant. -/
def nextKey (k : BitVec 128) (rcon : BitVec 8) : BitVec 128 :=
  packBlock fun i =>
    let b := blockBytes k
    let turned : BitVec 8 := sbox (b ⟨12 + (i.val + 1) % 4, by omega⟩) ^^^ (if i.val % 4 = 0 then rcon else 0)
    (List.range (i.val / 4 + 1)).foldl (fun v c => v ^^^ (if h : 4 * c + i.val % 4 < 16 then b ⟨4 * c + i.val % 4, h⟩ else 0)) turned

/-- A permutation of a block's bytes as one of blocks. -/
def onBytes (p : Equiv.Perm AesBytes) : Equiv.Perm (BitVec 128) := (blockBytes.trans p).trans blockBytes.symm

/-- The rounds that follow a round key: n of them with MixColumns, then the last. -/
def aesRounds : Nat → BitVec 128 → BitVec 8 → Equiv.Perm (BitVec 128)
  | 0, k, rcon => (onBytes (subPerm.trans shiftPerm)).trans (xorPerm (nextKey k rcon))
  | n + 1, k, rcon =>
    ((onBytes ((subPerm.trans shiftPerm).trans mixPerm)).trans (xorPerm (nextKey k rcon))).trans (aesRounds n (nextKey k rcon) (xtime rcon))

/-- AES with a 128-bit key (FIPS 197). -/
def aes (k : BitVec 128) : Equiv.Perm (BitVec 128) := (xorPerm k).trans (aesRounds 9 k 1)

/-- A tweak times the generator of GF(2^128) (IEEE 1619). -/
def tweakNext (t : BitVec 128) : BitVec 128 := (t <<< 1) ^^^ (if t.getLsbD 127 then 0x87#128 else 0#128)

/-- XTS-AES-128 on the block at a physical address (R375, IEEE 1619): the data unit is a line of 64 bytes, whose address is the tweak;
the key's first 16 bytes encipher the data, the others the tweak (DEDUCED log 61). -/
def aesXts (key : BitVec 256) (pa : Nat) : Equiv.Perm (BitVec 128) :=
  let t := (List.range (pa % 64 / 16)).foldl (fun t _ => tweakNext t) (aes (key.extractLsb' 128 128) (BitVec.ofNat 128 (pa / 64 * 64)))
  ((xorPerm t).trans (aes (key.extractLsb' 0 128))).trans (xorPerm t)

end Sys2Proof.Machine
end

