-- ==== Sys2Proof/Config.lean ====
section
/-! DEFINITION. What the implementation fixes, and the free values. The constants are the TY7-45B figures of R14, R16,
R20 and R25. The free values have no body: nothing in Lean can evaluate one, so a statement about a free value holds for
every value. They are applied to the counter `State.free`, or to the operands the value depends on. -/

namespace Sys2Proof

/-- A free 64-bit value (DESIGN CHOICE log 5). -/
opaque Config.freeWord : Nat → Word

/-- A free choice between two outcomes a rule allows (DESIGN CHOICE log 5). -/
opaque Config.freeBool : Nat → Bool

/-- A free natural number (DESIGN CHOICE log 5). -/
opaque Config.freeNat : Nat → Nat

/-- The fabric cycles that pass on a die between two readings of its CYC (R61, DESIGN CHOICE log 6). -/
opaque Config.cycGap : Nat → Word

/-- The value a bounded function proposes for an operand: function code, type code, operand pattern (R208, DEDUCED log 8).
The machine holds it within the bound of R208. -/
opaque Config.special : Nat → Nat → Nat → Nat

/-- The mode that ERET restores from ECAUSE: true for privileged (R330, DEDUCED log 11). -/
opaque Config.eretMode : Word → Bool

/-- The hash of the public key that is fused (R369, DESIGN CHOICE log 17). -/
opaque Config.fusedKeyHash : Nat

/-- The MC's random source, which fills a key slot at CREATE (R375, DESIGN CHOICE log 17). -/
opaque Config.randomKey : Nat → BitVec 256

/-- The class, 0 to 3, that an engine measures for the block-steps of a job (R352, DESIGN CHOICE log 20). -/
opaque Config.measuredClass : Nat → Nat

/-- How many block-steps of a job overran their declared class (R352, DESIGN CHOICE log 20). -/
opaque Config.overrunSteps : Nat → Nat

/-- The MC's report of the repair map, as the fuses hold it (R18, R19, R370, DESIGN CHOICE log 18). -/
opaque Config.repairReport : List Byte

/-- How the mailbox lays out the sensors that it reports (R370, DESIGN CHOICE log 35). -/
opaque Config.sensorReport : List Int → List Byte

/-- How the mailbox lays out the thermal and reliability integrals that it reports, region by region (R370, DESIGN CHOICE log 35). -/
opaque Config.integralReport : List (Nat × Nat) → List Byte

/-- How the mailbox lays out the corrected and uncorrected counts that it reports (R373, DESIGN CHOICE log 35). -/
opaque Config.eccReport : List (Nat × Nat × Nat) → List Byte

/-- What the shutdown sector records as the cause (R374, DESIGN CHOICE log 35). -/
opaque Config.shutdownCause : Nat → Nat

/-- The board's memory population less 32 GiB, in units of 32 GiB; taken modulo 4 (R25). -/
opaque Config.dramStep : Nat

/-- Whether the board's packages are one of the populations of R25: any other fails memory training (DESIGN CHOICE log 17). -/
opaque Config.populationFits : Bool

namespace Config

/-- VW in bits (R14). -/
def vwBi : Nat := 1024

/-- VW in bits on the small island (R14). -/
def vwSi : Nat := 256

/-- DRAM size in bytes: 32, 64, 96 or 128 GiB (R25). -/
def dramBytes : Nat := 2 ^ 35 * (1 + dramStep % 4)

/-- Bytes of a logical core's stash (R121). -/
def stashBytes : Nat := 98304

/-- First physical address of the hub page store (R339). -/
def pageStoreBase : Nat := 0x7FFFFF400000

/-- Pages of the hub page store (R339). -/
def pageStorePages : Nat := 192

/-- First physical address of host memory (R312). -/
def hostBase : Nat := 0x800000000000

/-- Depth of a device launch queue (R60). -/
def launchDepth : Nat := 32

/-- Depth of a die queue or a logit queue (R294, R302). -/
def dieDepth : Nat := 64

/-- Physical entries of a refusable channel (R48). -/
def channelDepth : Nat := 16

/-- The features this part offers, FEAT bits 0 to 3 (R359). -/
def featOffered : Word := 0xF

/-- Logical cluster of a logical core (R16). -/
def clusterOf (l : Nat) : Nat := l / 64 * 8 + l % 32 / 4

/-- Lane of a logical core in its cluster (R16). -/
def laneOf (l : Nat) : Nat := l / 32 % 2 * 4 + l % 4

/-- The logical core at a lane of a logical cluster (R16). -/
def coreOf (clus lane : Nat) : Nat := (clus / 8 * 2 + lane / 4) * 32 + clus % 8 * 4 + lane % 4

/-- Die that holds a BI core (R16). -/
def dieOf (l : Nat) : Nat := 1 + l / 256

/-- Aligned partner of a cluster (R13). -/
def partner (clus : Nat) : Nat := if clus % 2 = 0 then clus + 1 else clus - 1

end Config

end Sys2Proof
end

