-- ==== Sys2Proof/Machine/Formats.lean ====
section
/-! DEFINITION. The floating formats, rounding, exact arithmetic, quantization and bounded functions of R92 to R109. A value is
held exactly (a sign, a natural mantissa and an integer power of two), and `roundTo` rounds it once. -/

namespace Sys2Proof.Machine

/-- The floating formats of R93. -/
inductive Fmt where
  | f64 | f32 | f16 | bf16 | e4m3 | e5m2 | e3m2 | e2m3 | e2m1
  deriving DecidableEq, Repr

/-- Width in bits (R93). -/
def Fmt.width : Fmt → Nat
  | .f64 => 64 | .f32 => 32 | .f16 => 16 | .bf16 => 16 | .e4m3 => 8 | .e5m2 => 8 | .e3m2 => 6 | .e2m3 => 6 | .e2m1 => 4

/-- Mantissa bits (R93). -/
def Fmt.mbits : Fmt → Nat
  | .f64 => 52 | .f32 => 23 | .f16 => 10 | .bf16 => 7 | .e4m3 => 3 | .e5m2 => 2 | .e3m2 => 2 | .e2m3 => 3 | .e2m1 => 1

/-- Exponent bias (R93). -/
def Fmt.bias : Fmt → Nat
  | .f64 => 1023 | .f32 => 127 | .f16 => 15 | .bf16 => 127 | .e4m3 => 7 | .e5m2 => 15 | .e3m2 => 3 | .e2m3 => 1 | .e2m1 => 1

/-- Exponent bits: the width less sign and mantissa (R93). -/
def Fmt.ebits (f : Fmt) : Nat := f.width - 1 - f.mbits

/-- Whether the all-ones exponent holds infinity and NaN (R93). -/
def Fmt.ieee : Fmt → Bool
  | .f64 | .f32 | .f16 | .bf16 | .e5m2 => true
  | .e4m3 | .e3m2 | .e2m3 | .e2m1 => false

/-- The mantissa, hidden bit included, of the greatest finite value (R93). -/
def Fmt.maxMant (f : Fmt) : Nat :=
  if f = .e4m3 then 14 else 2 ^ (f.mbits + 1) - 1

/-- The greatest exponent of a finite value (R93). -/
def Fmt.emax (f : Fmt) : Int :=
  if f.ieee then (2 ^ f.ebits - 2 : Int) - f.bias else (2 ^ f.ebits - 1 : Int) - f.bias

/-- The exponent of the least normal value (R93). -/
def Fmt.emin (f : Fmt) : Int := 1 - (f.bias : Int)

/-- The canonical NaN (R95); 0 in a format that has none, where R107 replaces the whole block. -/
def Fmt.nan : Fmt → Nat
  | .f64 => 0x7FF8000000000000 | .f32 => 0x7FC00000 | .f16 => 0x7E00 | .bf16 => 0x7FC0 | .e4m3 => 0x7F | .e5m2 => 0x7E
  | .e3m2 | .e2m3 | .e2m1 => 0

/-- The pattern of infinity in a format that has one (R93). -/
def Fmt.inf (f : Fmt) : Nat := (2 ^ f.ebits - 1) * 2 ^ f.mbits

/-- The pattern of the greatest finite value (R93). -/
def Fmt.maxFinite : Fmt → Nat
  | .e4m3 => 0x7E
  | f => if f.ieee then f.inf - 1 else 2 ^ (f.width - 1) - 1

/-- A decoded value: a NaN (signalling or quiet), an infinity, or the number (-1)^neg * m * 2^e. -/
inductive FVal where
  | nan (sig : Bool)
  | inf (neg : Bool)
  | fin (neg : Bool) (m : Nat) (e : Int)
  deriving DecidableEq, Repr

/-- The number plus zero. -/
def FVal.zero : FVal := .fin false 0 0

/-- Whether a value is a NaN. -/
def FVal.isNan : FVal → Bool
  | .nan _ => true | _ => false

/-- Whether a value is a signalling NaN (R95). -/
def FVal.isSig : FVal → Bool
  | .nan s => s | _ => false

/-- Whether a value is an infinity. -/
def FVal.isInf : FVal → Bool
  | .inf _ => true | _ => false

/-- Whether a value is a zero. -/
def FVal.isZero : FVal → Bool
  | .fin _ 0 _ => true | _ => false

/-- The sign of a value; a NaN has none (R95). -/
def FVal.neg : FVal → Bool
  | .nan _ => false | .inf n => n | .fin n _ _ => n

/-- The magnitude of a value. -/
def FVal.abs : FVal → FVal
  | .nan s => .nan s | .inf _ => .inf false | .fin _ m e => .fin false m e

/-- The value with its sign changed. -/
def FVal.negate : FVal → FVal
  | .nan s => .nan s | .inf n => .inf (!n) | .fin n m e => .fin (!n) m e

/-- The value times 2^k, exactly. -/
def FVal.scale (k : Int) : FVal → FVal
  | .fin n m e => .fin n m (e + k)
  | v => v

/-- The value of a pattern (R93, R94). A NaN code whose top mantissa bit is clear is signalling in e5m2 as in the wider formats (DESIGN
CHOICE log 67). -/
def decodeF (f : Fmt) (w : Nat) : FVal :=
  let p := f.mbits
  let m := w % 2 ^ p
  let e := w / 2 ^ p % 2 ^ f.ebits
  let s := w / 2 ^ (f.width - 1) % 2 == 1
  if f.ieee && e == 2 ^ f.ebits - 1 then
    if m = 0 then .inf s else .nan (m < 2 ^ (p - 1))
  else if f == .e4m3 && e == 15 && m == 7 then .nan false
  else if e = 0 then .fin s m (f.emin - p)
  else .fin s (2 ^ p + m) ((e : Int) - f.bias - p)

/-- Rounding modes (R101, R105). -/
inductive RMode where
  | rne | rz | rup | rdn | sr
  deriving DecidableEq, Repr

/-- The mode an FRM.mode or rm code names (R81, R105). -/
def RMode.ofCode : Nat → RMode
  | 0 => .rne | 1 => .rz | 2 => .rup | 3 => .rdn | _ => .sr

/-- Exception flags of one result, as a mask: nx 1, uf 2, of 4, dz 8, nv 16 (R105 places them at bit 8 of FRM). -/
abbrev FFlags := Nat

def flagNx : FFlags := 1
def flagUf : FFlags := 2
def flagOf : FFlags := 4
def flagDz : FFlags := 8
def flagNv : FFlags := 16

/-- The mask of a condition. -/
def flagIf (c : Bool) (f : FFlags) : FFlags := if c then f else 0

/-- A rounded result: its pattern and the flags it raises. -/
structure Rounded where
  bits : Nat
  flags : FFlags := 0
  deriving DecidableEq, Repr

/-- Divides m * 2^e by 2^u and rounds the quotient to a natural number by the mode (R101, R104): the quotient and whether
it was inexact. r is the 16 random bits of SR. -/
def roundUnit (mode : RMode) (r : Nat) (neg : Bool) (m : Nat) (e u : Int) : Nat × Bool :=
  if u ≤ e then (m * 2 ^ (e - u).toNat, false)
  else
    let k := (u - e).toNat
    let q := m / 2 ^ k
    let rem := m % 2 ^ k
    let up : Bool := match mode with
      | .rne => decide (2 ^ k < 2 * rem) || (decide (2 * rem = 2 ^ k) && q % 2 == 1)
      | .rz => false
      | .rup => rem != 0 && !neg
      | .rdn => rem != 0 && neg
      | .sr => decide (2 ^ 16 ≤ rem * 2 ^ 16 / 2 ^ k + r % 2 ^ 16) && rem != 0
    (if up then q + 1 else q, rem != 0)

/-- The sign bit of a format. -/
def signBit (f : Fmt) (neg : Bool) : Nat := if neg then 2 ^ (f.width - 1) else 0

/-- Whether a format saturates always, or saturates because the conversion quantizes (R102). -/
def saturates (f : Fmt) (quant : Bool) : Bool := match f with
  | .e4m3 | .e3m2 | .e2m3 | .e2m1 => true
  | .e5m2 => quant
  | .f64 | .f32 | .f16 | .bf16 => false

/-- The overflow result of R102, without flags. -/
def overflowBits (f : Fmt) (mode : RMode) (quant neg : Bool) : Nat :=
  signBit f neg +
    (if saturates f quant then f.maxFinite
     else match mode with
      | .rne | .sr => f.inf
      | .rz => f.maxFinite
      | .rup => if neg then f.maxFinite else f.inf
      | .rdn => if neg then f.inf else f.maxFinite)

/-- round(x, mode) of R101, R102 and R104 for the number (-1)^neg * m * 2^e, with tininess judged after rounding. -/
def roundTo (f : Fmt) (mode : RMode) (r : Nat) (quant : Bool) (neg : Bool) (m : Nat) (e : Int) : Rounded :=
  if m = 0 then ⟨signBit f neg, 0⟩
  else
    let p : Int := f.mbits
    let top : Int := (Nat.log2 m : Int) + e
    let u := (if top < f.emin then f.emin else top) - p
    let (q, inexact) := roundUnit mode r neg m e u
    let (q', u') := if q = 2 ^ (f.mbits + 1) then (2 ^ f.mbits, u + 1) else (q, u)
    if decide (f.emax - p < u') || (decide (u' = f.emax - p) && decide (f.maxMant < q')) then
      ⟨overflowBits f mode quant neg, flagOf ||| flagNx⟩
    else
      let free := (roundUnit mode r neg m e (top - p)).1
      let tiny := decide (top < f.emin) && !(decide (free = 2 ^ (f.mbits + 1)) && decide (top = f.emin - 1))
      let code := if q' < 2 ^ f.mbits then q' else (u' + p + f.bias).toNat * 2 ^ f.mbits + (q' - 2 ^ f.mbits)
      ⟨signBit f neg + code, flagIf inexact flagNx ||| flagIf (tiny && inexact) flagUf⟩

/-- round(x, mode) for any value; a NaN gives the canonical NaN, and a signalling one sets nv (R95, R102). An infinite operand that
a quantizing conversion turns into the greatest finite number sets of alone: that it does not set nx is the model's choice (R101,
DESIGN CHOICE log 60). -/
def roundVal (f : Fmt) (mode : RMode) (r : Nat) (quant : Bool) : FVal → Rounded
  | .nan sig => ⟨f.nan, flagIf sig flagNv⟩
  | .inf neg => if saturates f quant then ⟨signBit f neg + f.maxFinite, flagOf⟩ else ⟨signBit f neg + f.inf, 0⟩
  | .fin neg m e => roundTo f mode r quant neg m e

/-- A value formed exactly, with the flags that forming it raised (nv, dz). -/
structure Formed where
  val : FVal
  flags : FFlags := 0
  deriving DecidableEq, Repr

/-- Rounds a formed value once. A NaN that the operation made carries its nv in the flags already. -/
def Formed.round (x : Formed) (f : Fmt) (mode : RMode) (r : Nat) : Rounded :=
  let y := roundVal f mode r false x.val
  ⟨y.bits, y.flags ||| x.flags⟩

/-- The NaN outcome of an operation on operands of which one is NaN (R95). -/
def nanOf (xs : List FVal) : Formed := ⟨.nan false, flagIf (xs.any FVal.isSig) flagNv⟩

/-- The NaN of an invalid operation (R105). -/
def invalid : Formed := ⟨.nan false, flagNv⟩

/-- The signed mantissa. -/
def signedMant (neg : Bool) (m : Nat) : Int := if neg then -(m : Int) else m

/-- Exact sum of two numbers. An exact zero sum of opposite signs is +0, or -0 under RDN, as IEEE 754 gives it (PRESUMED log 21). -/
def addFin (mode : RMode) (na : Bool) (ma : Nat) (ea : Int) (nb : Bool) (mb : Nat) (eb : Int) : FVal :=
  let e := if ea < eb then ea else eb
  let s := signedMant na (ma * 2 ^ (ea - e).toNat) + signedMant nb (mb * 2 ^ (eb - e).toNat)
  if s = 0 then .fin (if na = nb then na else mode == .rdn) 0 0
  else .fin (decide (s < 0)) s.natAbs e

/-- The exact sum (R206). -/
def addF (mode : RMode) (a b : FVal) : Formed :=
  match a, b with
  | .nan _, _ => nanOf [a, b]
  | _, .nan _ => nanOf [a, b]
  | .inf na, .inf nb => if na = nb then ⟨.inf na, 0⟩ else invalid
  | .inf na, .fin .. => ⟨.inf na, 0⟩
  | .fin .., .inf nb => ⟨.inf nb, 0⟩
  | .fin na ma ea, .fin nb mb eb => ⟨addFin mode na ma ea nb mb eb, 0⟩

/-- The exact product (R206). -/
def mulF (a b : FVal) : Formed :=
  match a, b with
  | .nan _, _ => nanOf [a, b]
  | _, .nan _ => nanOf [a, b]
  | .inf na, .inf nb => ⟨.inf (na != nb), 0⟩
  | .inf na, .fin nb mb _ => if mb = 0 then invalid else ⟨.inf (na != nb), 0⟩
  | .fin na ma _, .inf nb => if ma = 0 then invalid else ⟨.inf (na != nb), 0⟩
  | .fin na ma ea, .fin nb mb eb => ⟨.fin (na != nb) (ma * mb) (ea + eb), 0⟩

/-- a * b + c with one rounding to follow (R207): 0 * infinity is invalid even when c is NaN. -/
def fmaF (mode : RMode) (a b c : FVal) : Formed :=
  let prod := mulF a b
  if prod.val.isNan || c.isNan then
    ⟨.nan false, prod.flags ||| flagIf (c.isSig) flagNv⟩
  else addF mode prod.val c

/-- Adds a sticky bit below a mantissa, so that rounding sees whether anything was cut off. -/
def sticky (m : Nat) (more : Bool) : Nat := 2 * m + if more then 1 else 0

/-- The quotient, exact to 128 bits and a sticky bit, which every rounding of R101 and R104 takes as exact (R206). -/
def divF (a b : FVal) : Formed :=
  match a, b with
  | .nan _, _ => nanOf [a, b]
  | _, .nan _ => nanOf [a, b]
  | .inf _, .inf _ => invalid
  | .inf na, .fin nb _ _ => ⟨.inf (na != nb), 0⟩
  | .fin na _ _, .inf nb => ⟨.fin (na != nb) 0 0, 0⟩
  | .fin na ma ea, .fin nb mb eb =>
    if mb = 0 then (if ma = 0 then invalid else ⟨.inf (na != nb), flagDz⟩)
    else
      let s := 128 + Nat.log2 mb
      ⟨.fin (na != nb) (sticky (ma * 2 ^ s / mb) (ma * 2 ^ s % mb != 0)) (ea - eb - s - 1), 0⟩

/-- Integer square root by binary digits: the greatest r with r * r ≤ n among those agreeing with acc above bit k. -/
def isqrtFrom (n : Nat) : Nat → Nat → Nat
  | 0, acc => acc
  | k + 1, acc => isqrtFrom n k (if (acc + 2 ^ k) * (acc + 2 ^ k) ≤ n then acc + 2 ^ k else acc)

/-- Integer square root. -/
def isqrt (n : Nat) : Nat := isqrtFrom n (Nat.log2 n / 2 + 1) 0

/-- The square root, exact to over 128 bits and a sticky bit (R208). -/
def sqrtF (a : FVal) : Formed :=
  match a with
  | .nan _ => nanOf [a]
  | .inf neg => if neg then invalid else ⟨.inf false, 0⟩
  | .fin neg m e =>
    if m = 0 then ⟨a, 0⟩
    else if neg then invalid
    else
      let odd := (e % 2).toNat
      let big := m * 2 ^ (260 + odd)
      let root := isqrt big
      ⟨.fin false (sticky root (root * root != big)) ((e - 260 - odd) / 2 - 1), 0⟩

/-- Compares the magnitudes of two numbers: whether the first is less. -/
def magLt (ma : Nat) (ea : Int) (mb : Nat) (eb : Int) : Bool :=
  let e := if ea < eb then ea else eb
  decide (ma * 2 ^ (ea - e).toNat < mb * 2 ^ (eb - e).toNat)

/-- Strict order of values, -0 below +0 (R109). A NaN is in no order. -/
def ltTotal (a b : FVal) : Bool :=
  match a, b with
  | .nan _, _ => false
  | _, .nan _ => false
  | .inf na, .inf nb => na && !nb
  | .inf na, .fin .. => na
  | .fin .., .inf nb => !nb
  | .fin na ma ea, .fin nb mb eb =>
    if na && !nb then true
    else if !na && nb then false
    else if na then magLt mb eb ma ea else magLt ma ea mb eb

/-- IEEE strict order, -0 equal to +0 (R210). -/
def ltIeee (a b : FVal) : Bool := ltTotal a b && !(a.isZero && b.isZero)

/-- IEEE equality (R210). -/
def eqIeee (a b : FVal) : Bool :=
  !a.isNan && !b.isNan && !ltIeee a b && !ltIeee b a

/-- Maximum or minimum under R109: a single NaN gives the other operand. -/
def selectF (max : Bool) (a b : FVal) : Formed :=
  let fl := flagIf (a.isSig || b.isSig) flagNv
  if a.isNan && b.isNan then ⟨.nan false, fl⟩
  else if a.isNan then ⟨b, fl⟩
  else if b.isNan then ⟨a, fl⟩
  else if (if max then ltTotal a b else ltTotal b a) then ⟨b, fl⟩ else ⟨a, fl⟩

/-- Conversion to an integer of w bits (R103): the two's complement pattern and the flags. -/
def toIntF (mode : RMode) (r : Nat) (signed : Bool) (w : Nat) (x : FVal) : Rounded :=
  let lo : Int := if signed then -(2 ^ (w - 1) : Int) else 0
  let hi : Int := if signed then 2 ^ (w - 1) - 1 else 2 ^ w - 1
  let pat (i : Int) : Nat := (i % (2 ^ w : Int)).toNat
  match x with
  | .nan _ => ⟨0, flagNv⟩
  | .inf neg => ⟨pat (if neg then lo else hi), flagNv⟩
  | .fin neg m e =>
    let (q, inexact) := roundUnit mode r neg m e 0
    let i := signedMant neg q
    if i < lo then ⟨pat lo, flagNv⟩
    else if hi < i then ⟨pat hi, flagNv⟩
    else ⟨pat i, flagIf inexact flagNx⟩

/-- An integer as an exact value; zero is +0. -/
def ofInt (i : Int) : FVal := .fin (decide (i < 0)) i.natAbs 0

/-! ## Bounded functions (R208) -/

/-- ln 2 times 2^192. -/
def ln2Fixed : Nat := 0xB17217F7D1CF79ABC9E3B39803F2F6AF40F343267298B62D

/-- pi times 2^512. -/
def piFixed : Nat :=
  0x3243F6A8885A308D313198A2E03707344A4093822299F31D0082EFA98EC4E6C89452821E638D01377BE5466CF34E90C6CC0AC29B7C97C50DD3F84D5B5B5470917

/-- Sum of the exponential series in 192-bit fixed point: n more terms, the next of index i, from term t. -/
def expSeries (x : Nat) : Nat → Nat → Nat → Nat
  | 0, _, _ => 0
  | n + 1, i, t => t + expSeries x n (i + 1) (t * x / 2 ^ 192 / i)

/-- e^x in 192-bit fixed point, for 0 ≤ x < 1. -/
def expFixed (x : Nat) : Nat := expSeries x 48 1 (2 ^ 192)

/-- 2^x for an exact number: the value 2^n * 2^f with n the floor of x. -/
def exp2Ref (neg : Bool) (m : Nat) (e : Int) : FVal :=
  let x192 : Int := signedMant neg (if 0 ≤ e + 192 then m * 2 ^ (e + 192).toNat else m / 2 ^ (-(e + 192)).toNat)
  let n : Int := x192 / 2 ^ 192
  let f : Nat := (x192 % (2 ^ 192)).toNat
  .fin false (expFixed (f * ln2Fixed / 2 ^ 192)) (n - 192)

/-- Sum of z^(2k+1) / (2k+1) in 192-bit fixed point. -/
def atanhSeries (z2 : Nat) : Nat → Nat → Nat → Nat
  | 0, _, _ => 0
  | n + 1, i, t => t / i + atanhSeries z2 n (i + 2) (t * z2 / 2 ^ 192)

/-- log2 of m * 2^e with m > 0. -/
def log2Ref (m : Nat) (e : Int) : FVal :=
  let k := Nat.log2 m
  let mant := m * 2 ^ 192 / 2 ^ k
  let z := (mant - 2 ^ 192) * 2 ^ 192 / (mant + 2 ^ 192)
  let ln := 2 * atanhSeries (z * z / 2 ^ 192) 64 1 z
  let frac : Int := ln * 2 ^ 192 / ln2Fixed
  let v : Int := ((k : Int) + e) * 2 ^ 192 + frac
  .fin (decide (v < 0)) v.natAbs (-192)

/-- x - x^3 / c for a small x, as x * (1 - x^2 / c), always below |x|: the function is not exact there (R208). -/
def cubicRef (neg : Bool) (m : Nat) (e : Int) (c : Nat) : FVal :=
  let sq := if 0 ≤ 2 * e + 192 then m * m * 2 ^ (2 * e + 192).toNat else m * m / 2 ^ (-(2 * e + 192)).toNat
  .fin neg (m * (2 ^ 192 - sq / c - 1)) (e - 192)

/-- tanh of a number that is not zero. -/
def tanhRef (neg : Bool) (m : Nat) (e : Int) : FVal :=
  let top : Int := (Nat.log2 m : Int) + e
  if top < -24 then cubicRef neg m e 3
  else if 6 ≤ top then .fin neg (2 ^ 192 - 1) (-192)
  else
    let x2 := m * 2 ^ (e + 193).toNat / (if 0 ≤ e + 193 then 1 else 2 ^ (-(e + 193)).toNat)
    let n := x2 / ln2Fixed
    let big := expFixed (x2 % ln2Fixed) * 2 ^ n
    .fin neg ((big - 2 ^ 192) * 2 ^ 192 / (big + 2 ^ 192)) (-192)

/-- Alternating series of sine (first i = 2, t = r) or cosine (first i = 1, t = 1) in 192-bit fixed point. -/
def trigSeries (r2 : Nat) : Nat → Nat → Nat → Int
  | 0, _, _ => 0
  | n + 1, i, t => (t : Int) - trigSeries r2 n (i + 2) (t * r2 / 2 ^ 192 / (i * (i + 1)))

/-- sin of a number that is not zero, with exact reduction of the argument. -/
def sinRef (neg : Bool) (m : Nat) (e : Int) : FVal :=
  let top : Int := (Nat.log2 m : Int) + e
  if top < -24 then cubicRef neg m e 6
  else
    let x := m * 2 ^ (512 + e).toNat
    let k := 2 * x / piFixed
    let r := (2 * x - k * piFixed) / 2 ^ 321
    let r2 := r * r / 2 ^ 192
    let s := if k % 2 = 0 then trigSeries r2 28 2 r else trigSeries r2 28 1 (2 ^ 192)
    .fin (neg != decide (2 ≤ k % 4)) s.natAbs (-192)

/-- 1 / sqrt of m * 2^e with m > 0. -/
def rsqRef (m : Nat) (e : Int) : FVal :=
  let odd := (e % 2).toNat
  let s := 2 * (130 + Nat.log2 m)
  .fin false (isqrt (2 ^ s / (m * 2 ^ odd))) (-((e - odd) / 2) - ((s / 2 : Nat) : Int))

/-- The bounded functions of R208, in the order of their fn4 codes after VRCP. -/
inductive Special where
  | rsq | exp2 | log2 | tanh | sin
  deriving DecidableEq, Repr

/-- The code under which `Config.special` names a function. -/
def Special.code : Special → Nat
  | .rsq => 0 | .exp2 => 1 | .log2 => 2 | .tanh => 3 | .sin => 4

/-- The code under which `Config.special` names a format. -/
def Fmt.code : Fmt → Nat
  | .bf16 => 4 | .f16 => 5 | .f32 => 6 | .f64 => 7 | _ => 0

/-- The bound in units of the last place (R208). -/
def Special.ulps (g : Special) (f : Fmt) : Nat := if g = .rsq then 1 else if f = .f32 then 2 else 1

/-- A close value of a bounded function at a number that is not zero and is in its domain. -/
def Special.ref (g : Special) (neg : Bool) (m : Nat) (e : Int) : FVal :=
  match g with
  | .rsq => rsqRef m e
  | .exp2 => exp2Ref neg m e
  | .log2 => log2Ref m e
  | .tanh => tanhRef neg m e
  | .sin => sinRef neg m e

/-- Whether |a - b| ≤ n * 2^u for two numbers. -/
def withinUlps (n : Nat) (u : Int) (a b : FVal) : Bool :=
  match a, b with
  | .fin na ma ea, .fin nb mb eb =>
    match addFin .rne na ma ea (!nb) mb eb with
    | .fin _ m e => decide (m = 0) || !(magLt n u m e)
    | _ => false
  | _, _ => false

/-- The delivered value of a bounded function that is not exact: the part's own choice where it lies within the bound of
R208 about the reference, else the nearest value. It raises nx, and of and uf as the nearest value does (DEDUCED log 8). -/
def boundedBits (g : Special) (f : Fmt) (operand : Nat) (y : FVal) : Rounded :=
  let near := roundVal f .rne 0 false y
  let choice := Config.special g.code f.code operand % 2 ^ f.width
  let u : Int := match y with
    | .fin _ m e => (let top := (Nat.log2 m : Int) + e; (if top < f.emin then f.emin else top) - f.mbits)
    | _ => 0
  let flags := near.flags ||| flagNx
  if flags &&& flagOf = 0 && withinUlps (g.ulps f) u (decodeF f choice) y then ⟨choice, flags⟩
  else ⟨near.bits, flags⟩

/-- An operand at which VEXP2 or VLOG2 is exact: the exact result (R208). -/
def exactSpecial (g : Special) (neg : Bool) (m : Nat) (e : Int) (f : Fmt) : Option FVal :=
  match g with
  | .exp2 =>
    let isInt := decide (0 ≤ e) || m % 2 ^ (-e).toNat == 0
    if !isInt || decide (12 < (Nat.log2 m : Int) + e) then none
    else
      let n := signedMant neg (if 0 ≤ e then m * 2 ^ e.toNat else m / 2 ^ (-e).toNat)
      if f.emin - f.mbits ≤ n ∧ n ≤ f.emax then some (.fin false 1 n) else none
  | .log2 => if m = 2 ^ Nat.log2 m then some (ofInt ((Nat.log2 m : Int) + e)) else none
  | .rsq | .tanh | .sin => none

/-- A bounded function at an operand pattern (R208). -/
def specialF (g : Special) (f : Fmt) (operand : Nat) : Rounded :=
  let nanR : Rounded := ⟨f.nan, flagNv⟩
  match decodeF f operand with
  | .nan sig => ⟨f.nan, flagIf sig flagNv⟩
  | .inf neg =>
    match g with
    | .rsq => if neg then nanR else ⟨0, 0⟩
    | .exp2 => if neg then ⟨0, 0⟩ else ⟨f.inf, 0⟩
    | .log2 => if neg then nanR else ⟨f.inf, 0⟩
    | .tanh => roundTo f .rne 0 false neg 1 0
    | .sin => nanR
  | .fin neg m e =>
    if m = 0 then
      match g with
      | .rsq => ⟨signBit f neg + f.inf, flagDz⟩
      | .exp2 => roundTo f .rne 0 false false 1 0
      | .log2 => ⟨signBit f true + f.inf, flagDz⟩
      | .tanh => ⟨signBit f neg, 0⟩
      | .sin => ⟨signBit f neg, 0⟩
    else if neg && (g == .rsq || g == .log2) then nanR
    else if g = .exp2 ∧ 12 < (Nat.log2 m : Int) + e then
      if neg then roundTo f .rne 0 false false 1 (-4096) else roundTo f .rne 0 false false 1 4096
    else
      match exactSpecial g neg m e f with
      | some y => roundVal f .rne 0 false y
      | none => boundedBits g f operand (g.ref neg m e)

/-! ## Blocks (R96 to R99, R106, R107) -/

/-- The value of an E8M0 scale as a power of two, none for NaN (R96). -/
def scaleExp (v : Nat) : Option Int := if v = 0xFF then none else some ((v : Int) - 127)

/-- Element i of an e2m1x block held as 18 bytes in a number (R97, R98). -/
def decodeE2m1x (blk i : Nat) : FVal :=
  let code := blk / 2 ^ (4 * i) % 16
  match scaleExp (blk / 2 ^ 128 % 256) with
  | none => .nan false
  | some k => ((if code = 8 then decodeF .e4m3 (blk / 2 ^ 136 % 256) else decodeF .e2m1 code)).scale k

/-- Element i of a 6-bit block held as 25 bytes in a number (R99). -/
def decode6 (f : Fmt) (blk i : Nat) : FVal :=
  match scaleExp (blk / 2 ^ 192 % 256) with
  | none => .nan false
  | some k => (decodeF f (blk / 2 ^ (6 * i) % 64)).scale k

/-- floor(log2 |x|) of a number that is not zero. -/
def exponentOf : FVal → Int
  | .fin _ m e => (Nat.log2 m : Int) + e
  | _ => 0

/-- Whether a value has the magnitude of another. -/
def sameMag (a b : FVal) : Bool :=
  match a, b with
  | .fin _ ma ea, .fin _ mb eb => !magLt ma ea mb eb && !magLt mb eb ma ea
  | _, _ => false

/-- The greatest magnitude of a list; NaN when one element is NaN (R213). -/
def maxMag (xs : List FVal) : FVal :=
  xs.foldl (fun acc x => if acc.isNan || x.isNan then .nan false else if ltTotal acc x.abs then x.abs else acc) .zero

/-- A quantized block as a number of 18 or 25 bytes, with its flags. -/
structure Block where
  bits : Nat
  flags : FFlags := 0
  deriving DecidableEq, Repr

/-- The clamped scale exponent of R106. -/
def scaleOf (f : Fmt) (amax : FVal) : Int :=
  if amax.isZero then -127
  else
    let e := exponentOf amax - (if f = .e3m2 then 4 else 2)
    if e < -127 then -127 else if 127 < e then 127 else e

/-- One code of a block: -0 becomes +0 in e2m1x (R107). -/
def encodeCode (f : Fmt) (mode : RMode) (r : Nat) (k : Int) (x : FVal) : Rounded :=
  let y := roundVal f mode r true (x.scale (-k))
  if f = .e2m1 ∧ y.bits = 8 then ⟨0, y.flags⟩ else y

/-- Packs codes of w bits, element 0 lowest. -/
def packCodes (w : Nat) : List Nat → Nat
  | [] => 0
  | c :: cs => c + 2 ^ w * packCodes w cs

/-- quantize_block of R107. rbits gives the 16 random bits of each element. -/
def quantizeBlock (f : Fmt) (mode : RMode) (rbits : Nat → Nat) (xs : List FVal) (amax : FVal) : Block :=
  let top := if f = .e2m1 then 128 else 192
  if amax.isNan || amax.isInf || xs.any (fun x => x.isNan || x.isInf) then
    ⟨0xFF * 2 ^ top, flagNv⟩
  else
    let k := scaleOf f amax
    let j : Option Nat := if f = .e2m1 && !amax.isZero then xs.findIdx? (fun x => sameMag x amax) else none
    let codes := xs.zipIdx.map (fun (x, i) => if j = some i then (⟨8, 0⟩ : Rounded) else encodeCode f mode (rbits i) k x)
    let flags := codes.foldl (fun acc c => acc ||| c.flags) 0
    let body := packCodes f.width (codes.map Rounded.bits) + (k + 127).toNat * 2 ^ top
    if f = .e2m1 then
      let extra := roundVal .e4m3 .rne 0 true (amax.scale (-k))
      let sgn := match j with
        | some i => ((xs[i]?).getD .zero).neg
        | none => false
      ⟨body + (extra.bits + signBit .e4m3 sgn) * 2 ^ 136, flags ||| flagIf j.isSome extra.flags⟩
    else ⟨body, flags⟩

end Sys2Proof.Machine
end

