-- ==== Sys2Proof/Machine/Memory.lean ====
section
/-! DEFINITION. Memory as a list of (address, byte) pairs in one canonical form: addresses strictly rising, and no entry
equal to `Memory.unlisted`, what an address without an entry reads as (DESIGN CHOICE log 1). The same form holds device and host memory
by physical address, the stashes, and the tile stores. -/

namespace Sys2Proof.Machine

/-- A memory: canonical when `Memory.wf` holds. -/
abbrev Memory := List Host.Cell

/-- What an unlisted address reads as: the spec gives DRAM no contents after power-on, and zeroes SRAM (R343, R372, DESIGN CHOICE log 1). -/
def Memory.unlisted : Byte := 0

/-- Whether the addresses rise strictly and no entry holds the unlisted byte. -/
def Memory.wf : Memory → Bool
  | [] => true
  | [c] => c.2 != Memory.unlisted
  | c :: d :: rest => c.2 != Memory.unlisted && decide (c.1 < d.1) && Memory.wf (d :: rest)

/-- One byte. -/
def Memory.read (m : Memory) (a : Nat) : Byte :=
  match m with
  | [] => Memory.unlisted
  | c :: rest => if c.1 = a then c.2 else Memory.read rest a

/-- n bytes from an address up. -/
def Memory.readBytes (m : Memory) (a : Nat) : Nat → List Byte
  | 0 => []
  | n + 1 => m.read a :: Memory.readBytes m (a + 1) n

/-- The entries of bytes laid out from an address up. -/
def Memory.cells (a : Nat) : List Byte → Memory
  | [] => []
  | b :: bs => if b = Memory.unlisted then Memory.cells (a + 1) bs else (a, b) :: Memory.cells (a + 1) bs

/-- The memory with bytes stored from an address up. -/
def Memory.writeBytes (m : Memory) (a : Nat) (bs : List Byte) : Memory :=
  m.filter (fun c => decide (c.1 < a)) ++ (Memory.cells a bs ++ m.filter (fun c => decide (a + bs.length ≤ c.1)))

/-- The memory with every byte of a range reading as unlisted. -/
def Memory.clear (m : Memory) (a n : Nat) : Memory :=
  m.filter (fun c => decide (c.1 < a)) ++ m.filter (fun c => decide (a + n ≤ c.1))

/-- The entries of a range. -/
def Memory.slice (m : Memory) (a n : Nat) : Memory :=
  m.filter (fun c => decide (a ≤ c.1) && decide (c.1 < a + n))

/-- The memory with a range replaced by the same range of another memory. -/
def Memory.adopt (m other : Memory) (a n : Nat) : Memory :=
  m.filter (fun c => decide (c.1 < a)) ++ (other.slice a n ++ m.filter (fun c => decide (a + n ≤ c.1)))

/-- Little-endian value of bytes (R4). -/
def bytesToNat : List Byte → Nat
  | [] => 0
  | b :: bs => b.toNat + 256 * bytesToNat bs

/-- The low n bytes of a number, least significant first (R4). -/
def natToBytes : Nat → Nat → List Byte
  | 0, _ => []
  | n + 1, v => BitVec.ofNat 8 v :: natToBytes n (v / 256)

/-- Reads a little-endian number of n bytes. -/
def Memory.readNat (m : Memory) (a n : Nat) : Nat := bytesToNat (m.readBytes a n)

/-- Writes a little-endian number of n bytes. -/
def Memory.writeNat (m : Memory) (a n v : Nat) : Memory := m.writeBytes a (natToBytes n v)

/-- Bits hi down to lo of a number. -/
def bits (v hi lo : Nat) : Nat := v / 2 ^ lo % 2 ^ (hi + 1 - lo)

/-- A number with its field of w bits from bit lo on replaced. -/
def withField (x lo w v : Nat) : Nat := x - bits x (lo + w - 1) lo * 2 ^ lo + v % 2 ^ w * 2 ^ lo

/-- The value of a key in an association list. -/
def assocGet {κ α : Type} [DecidableEq κ] (t : List (κ × α)) (k : κ) : Option α :=
  match t with
  | [] => none
  | (k', v) :: rest => if k' = k then some v else assocGet rest k

/-- The association list with a key's value set: replaced in place, or appended. -/
def assocPut {κ α : Type} [DecidableEq κ] (t : List (κ × α)) (k : κ) (v : α) : List (κ × α) :=
  match t with
  | [] => [(k, v)]
  | (k', v') :: rest => if k' = k then (k, v) :: rest else (k', v') :: assocPut rest k v

/-- The association list without a key. -/
def assocDel {κ α : Type} [DecidableEq κ] (t : List (κ × α)) (k : κ) : List (κ × α) :=
  t.filter (fun p => decide (p.1 ≠ k))

end Sys2Proof.Machine
end

