-- ==== Sys2Proof/Machine/Rng.lean ====
section
/-! DEFINITION. The per-core generator and the counter-based generator of R113 to R118, bit for bit. -/

namespace Sys2Proof.Machine

/-- The generator state (s0, s1) of a logical core (R113). -/
structure Gen where
  s0 : Word
  s1 : Word
  deriving DecidableEq, Repr

/-- The new state of one step (R114). -/
def Gen.next (g : Gen) : Gen :=
  let a := g.s0 ^^^ (g.s0 <<< 23)
  let a := a ^^^ (a >>> 17)
  ⟨g.s1, a ^^^ g.s1 ^^^ (g.s1 >>> 26)⟩

/-- The 128 bits a step yields from its new state: hi above lo (R114). -/
def Gen.output (g : Gen) : BitVec 128 :=
  ((g.s0 ^^^ g.s1).rotateLeft 17 * 0xD1B54A32D192ED03#64) ++ (g.s0 + g.s1)

/-- n steps: the state after them. -/
def Gen.advance : Nat → Gen → Gen
  | 0, g => g
  | n + 1, g => Gen.advance n g.next

/-- The outputs of n consecutive steps, first first (R116). -/
def Gen.draw : Nat → Gen → List (BitVec 128)
  | 0, _ => []
  | n + 1, g => g.next.output :: Gen.draw n g.next

/-- x^(2^64) modulo the characteristic polynomial of the transition of R114: bit i is the coefficient of x^i. Applied to a
state it advances it by 2^64 steps (R115). -/
def jumpPoly : Nat := 0xC44F35946FEF49C68C405782BCA686AD

/-- The sum over GF(2) of the states i steps ahead for the coefficients i of a polynomial, n of them. -/
def Gen.applyPoly : Nat → Nat → Gen → Gen → Gen
  | 0, _, _, acc => acc
  | n + 1, poly, g, acc =>
    Gen.applyPoly n (poly / 2) g.next (if poly % 2 = 1 then ⟨acc.s0 ^^^ g.s0, acc.s1 ^^^ g.s1⟩ else acc)

/-- 2^64 steps in one operation (R115). -/
def Gen.jump (g : Gen) : Gen := Gen.applyPoly 128 jumpPoly g ⟨0, 0⟩

/-- Several jumps. -/
def Gen.jumps : Nat → Gen → Gen
  | 0, g => g
  | n + 1, g => Gen.jumps n g.jump

/-- The generator of logical core l under job seed j (R115). -/
def Gen.seed (j : Word) (l : Nat) : Gen :=
  let s0 := j ^^^ 0x6A09E667F3BCC908#64
  let s1 := (j * 0x9E3779B97F4A7C15#64) ^^^ 0xBB67AE8584CAA73B#64
  Gen.jumps l (if s0 = 0 ∧ s1 = 0 then ⟨0, 1⟩ else ⟨s0, s1⟩)

/-- The 16 random bits of element e in a run of steps (R116). -/
def srBits (run : List (BitVec 128)) (e : Nat) : Nat :=
  (((run[e / 8]?).getD 0).toNat / 2 ^ (16 * (e % 8))) % 2 ^ 16

/-- Steps an operation of n positions takes under SR (R116). -/
def srSteps (n : Nat) : Nat := (n + 7) / 8

/-- The four counter words and two key words of crng. -/
structure Crng where
  c0 : BitVec 32
  c1 : BitVec 32
  c2 : BitVec 32
  c3 : BitVec 32
  k0 : BitVec 32
  k1 : BitVec 32
  deriving DecidableEq, Repr

/-- One round of crng (R118). -/
def Crng.round (c : Crng) : Crng :=
  let p : Word := c.c0.setWidth 64 * 0xCA5A8263#64
  let q : Word := c.c2.setWidth 64 * 0xE5F23B5D#64
  ⟨q.extractLsb' 32 32 ^^^ c.c1 ^^^ c.k0, q.extractLsb' 0 32, p.extractLsb' 32 32 ^^^ c.c3 ^^^ c.k1, p.extractLsb' 0 32,
    c.k0 + 0x9E3779B9#32, c.k1 + 0x7F4A7C15#32⟩

/-- n rounds of crng. -/
def Crng.rounds : Nat → Crng → Crng
  | 0, c => c
  | n + 1, c => Crng.rounds n c.round

/-- crng(key, ctr) of R118. -/
def crng (key : Word) (ctr : BitVec 128) : BitVec 128 :=
  let c := Crng.rounds 10 ⟨ctr.extractLsb' 0 32, ctr.extractLsb' 32 32, ctr.extractLsb' 64 32, ctr.extractLsb' 96 32,
    key.extractLsb' 0 32, key.extractLsb' 32 32⟩
  c.c3 ++ c.c2 ++ c.c1 ++ c.c0

end Sys2Proof.Machine
end

