-- ==== Sys2Proof/Machine/State.lean ====
section
/-! DEFINITION. The state of the package: everything the spec gives the machine, as plain data, and the state after reset.
Tables whose entries mostly hold their reset value are association lists: a key without an entry holds that value. The
fields turns, cur, act, active, parked, arg, free and ticks are the model's own (DESIGN CHOICE logs 2 and 5). -/

namespace Sys2Proof.Machine

/-- Why a step can stop. -/
inductive Fault where
  /-- Raised by step for a turn that names an encoded instruction as an event of the device: no part of the machine makes
  such a step. Safe. -/
  | notAnEvent
  deriving DecidableEq, Repr

/-- Why a step can be refused. -/
inductive Refusal where
  /-- Raised by exec for an instruction whose meaning is not written yet. Safe. -/
  | notModelled (mnemonic : String)
  deriving DecidableEq, Repr

/-! ## Tasks -/

/-- The source a task was dispatched from (R50, R319). -/
inductive Source where
  | ready | bag | chan (k : Nat)
  deriving DecidableEq, Repr

/-- A running or saved task: its registers and what the slot knows of it (R36, R319). On a core of VW 256 the vector and
predicate registers occupy the low bits. -/
structure Task where
  x : Vector Word 32
  v : Vector (BitVec 1024) 32
  p : Vector (BitVec 128) 8
  frm : Word
  pc : Word
  ctx : Nat
  lcore : Nat
  /-- Address of the record the task was dispatched from, 0 for none (R42). -/
  record : Nat
  source : Source
  level : Nat
  /-- Privileged mode: the firmware cores run in it (R15, R330). -/
  priv : Bool
  /-- The logical cores whose ch1 this task keeps closed, as a task of their ch1 chains (R46). -/
  chain : List Nat
  /-- The launch whose initial task this is (R60). -/
  launch : Option Nat
  /-- Instructions retired in this stay (R53). -/
  retired : Nat
  /-- Slot index of the last save, used to move x31 at resumption (R36). -/
  savedSlot : Nat
  /-- 64 KiB pages that firmware resolved for the instruction at pc, which it keeps mapped (R318). -/
  pinned : List Nat
  deriving DecidableEq, Repr

/-- What a saved frame waits for (R317, R323, R329); resolved is a transparent fault that firmware answered while the context
was not resident (R325). -/
inductive FrameStatus where
  | queued | host | page | res | resolved | sysc | debug
  deriving DecidableEq, Repr

/-- A frame in the task arena (R319): the saved task, its address, the width it was saved under, the fault code. -/
structure Frame where
  addr : Nat
  task : Task
  vw : Nat
  code : Nat
  status : FrameStatus
  /-- Length of the faulting instruction, for a resumption after it (R317). -/
  len : Nat
  /-- Its bytes stand in the arena: not while firmware has still to make room for them (R43). -/
  placed : Bool
  deriving DecidableEq, Repr

/-! ## Logical cores -/

/-- A message (R44): a refusal carries x5 and x6 (R48). -/
structure Msg where
  chan : Nat
  /-- Sending logical core; for a refusal, the core it returns from. -/
  src : Nat
  handler : Nat
  /-- The refusal handler SENDR named, 0 for the context's (R189). -/
  refusal : Nat
  payload : List Word
  /-- x5 and x6 of a refusal. -/
  extra : Option (Word × Word)
  deriving DecidableEq, Repr

/-- A ready-queue entry (R40, R178), or the initial task of a launch (R33). -/
structure ReadyEntry where
  code : Nat
  frame : Nat
  record : Nat
  /-- The logical cores whose ch1 chains the task continues (R46). -/
  chain : List Nat
  /-- Launch number, rectangle word and job seed of an initial task. -/
  initial : Option (Nat × Word × Word)
  deriving DecidableEq, Repr

/-- What a queue entry dispatches. -/
inductive QBody where
  | msg (m : Msg) | entry (e : ReadyEntry) | saved (frame : Nat)
  deriving DecidableEq, Repr

/-- An entry waiting for dispatch on a logical core, in the order of its source and level (R43, R45, R53). level is the
record's own level for source R: 0 or 1 for the context's R level. seq orders the entries of a physical core by their coming
(R43). -/
structure QEntry where
  source : Source
  level : Nat
  body : QBody
  seq : Nat
  deriving DecidableEq, Repr

/-- A stash map entry (R161): offset, lines, global base. -/
structure MapEntry where
  off : Nat
  nl : Nat
  base : Nat
  deriving DecidableEq, Repr

/-- A stub (R286): the arc (lo, hi] and its target. -/
structure Stub where
  lo : Nat
  hi : Nat
  target : Nat
  deriving DecidableEq, Repr

/-- A job table (R226): the next job number and the status words of the 64 most recent numbers. -/
structure JobTable where
  next : Nat
  status : List (Nat × Word)
  deriving DecidableEq, Repr

/-- What each logical core of a context keeps (R31, R33, R343). gen is none while it still holds the seed of job seed 0
that context creation gave it (R115). -/
structure LCore where
  orgn : Word
  rsz : Word
  jseed : Word
  launched : Bool
  gen : Option Gen
  errs : Word
  maps : List MapEntry
  stubs : List Stub
  free : List Nat
  queue : List QEntry
  ch1Closed : Bool
  refusals : List (Nat × List Nat)
  holds : List (Nat × Nat)
  work : List (Word × Word)
  jobs : List (Nat × JobTable)
  /-- Stores that arrived at the stash port (R146). -/
  portSeq : Nat
  deriving DecidableEq, Repr

/-- A logical core at context creation; ORGN, RSZ and JSEED have no stated reset (R327, DESIGN CHOICE log 10). -/
def LCore.init : LCore :=
  ⟨0, 0, 0, false, none, 0, [], [], [], [], false, [], [], [], [], 0⟩

/-! ## Contexts -/

/-- Who performs an access on behalf of what: a context and a logical core, or firmware and the front end by physical
address (R361, DEDUCED log 11). -/
inductive Who where
  | core (ctx lcore : Nat) | phys
  deriving DecidableEq, Repr

/-- What a wait waits for (R185). -/
inductive WaitKind where
  | job (handle : Nat) | cb (desc : Nat) | bar (id episode : Nat) | feed (n : Nat) | room (q : Nat) (die : Nat)
  | die (buf : Nat) (dir : Nat) | logit (buf : Nat) (q : Nat)
  deriving DecidableEq, Repr

/-- A registered wait (R184): record C, the logical core that issued it, the slot, and what was taken for it already. -/
structure Wait where
  kind : WaitKind
  record : Nat
  lcore : Nat
  /-- The deposit bytes once the awaited item was taken; and for ENDW.DQ the bytes of its buffer. -/
  got : Option (List Byte × List Byte)
  deriving DecidableEq, Repr

/-- A barrier (R191): subgroup, participants, and the current episode. -/
structure Barrier where
  row : Nat
  col : Nat
  h : Nat
  w : Nat
  n : Nat
  episode : Nat
  arrived : List Nat
  max : Word
  held : List (Nat × Word)
  deriving DecidableEq, Repr

/-- A launch block (R195), with the core that issued it, none for a host command (R378). -/
structure LaunchBlock where
  code : Nat
  param : Nat
  seed : Word
  row : Nat
  col : Nat
  h : Nat
  w : Nat
  record : Nat
  issuer : Option Nat
  /-- The queue and ring index whose command this is, for its status (R366). -/
  command : Option (QueueRef × Nat)
  deriving DecidableEq, Repr

/-- A launch in progress (R33, R60): the cores whose wake is pending and the initial tasks that have not ended. -/
structure Launch where
  id : Nat
  block : LaunchBlock
  wakes : List Nat
  running : Nat
  deriving DecidableEq, Repr

/-- A production (R260). -/
structure Production where
  tagA : Nat
  tagB : Nat
  hw : Bool
  index : Nat
  addr : Nat
  deriving DecidableEq, Repr

/-- A bag entry (R257): node 1, node 2 or an immediate, and the production chosen on arrival. -/
structure Pair where
  n1 : Nat
  other : Nat ⊕ Word
  prod : Production
  swapped : Bool
  deriving DecidableEq, Repr

/-- A cluster's bag for a context (R257). -/
structure Bag where
  templates : List Pair
  tasks : List Pair
  deriving DecidableEq, Repr

/-- A registered completion link (R268). -/
structure CompletionLink where
  node : Nat
  handle : Nat
  lcore : Nat
  /-- The status with which the job left PENDING (R268). -/
  status : Option Word
  deriving DecidableEq, Repr

/-- A released node awaiting its return to the free list of a core (false) or a cluster's net unit (true) (R256, R261). -/
structure Released where
  node : Nat
  net : Bool
  owner : Nat
  deriving DecidableEq, Repr

/-- A prefix-tree node (R276): id from 1, its parent's id (0 the root), hash, handle and stamp. -/
structure TreeNode where
  id : Nat
  parent : Nat
  hash : Word
  handle : Nat
  stamp : Nat
  deriving DecidableEq, Repr

/-- The KV configuration (R271); npool 0 when the context has no pool. -/
structure KvConfig where
  pbase : Nat
  npool : Nat
  tnodes : Nat
  ach : Nat
  lb : Nat
  deriving DecidableEq, Repr

/-- An MBND arrival (R344). -/
structure Arrival where
  lcore : Nat
  toSi : Bool
  record : Nat
  orgn : Word
  rsz : Word
  deriving DecidableEq, Repr

/-- A stitch (R366, R367). -/
structure Stitch where
  sig : Nat
  wait : Nat
  count : Nat
  deriving DecidableEq, Repr

/-- The device's view of a trigger entry (R335): armed, and for the running window whether the queue has been at or below
the threshold, and the tokens published. -/
structure Trigger where
  armed : Bool
  low : Bool
  tokens : Nat
  deriving DecidableEq, Repr

/-- A context (R30, R360). Table fields hold only what differs from creation. -/
structure Ctx where
  desc : Nat
  pk : Bool
  keySlot : Nat
  ptroot : Nat
  hbase : Word
  hlim : Word
  hoff : Word
  capKey : Word
  epoch : Nat
  ebud : Word
  arenaBase : Nat
  arenaPages : Nat
  nodeBase : Nat
  nodePages : Nat
  bolt : Nat
  faultRing : Nat
  faultLcap : Nat
  traceRing : Nat
  traceOn : Bool
  traceLcap : Nat
  /-- Entries a full trace ring dropped (R146). -/
  traceLost : Nat
  refusal : Nat
  kv : KvConfig
  treeBase : Nat
  mbox : Word
  lvl : Word
  flt : Word
  resident : Bool
  /-- Made non-resident by PREEMPT, so that only RESIDE returns it (R365). -/
  explicit : Bool
  onBi : Bool
  /-- Destroyed and awaiting scrub (R376). -/
  dead : Bool
  lastDispatch : Nat
  fold : List (Nat × Nat)
  cores : List (Nat × LCore)
  tensors : List (Nat × List Word)
  prods : List Production
  bars : List (Nat × Barrier)
  waits : List Wait
  frames : List Frame
  /-- Places of the task arena that hold spilled entries (R43). -/
  spill : List Nat
  launchQ : List LaunchBlock
  launches : List Launch
  nextLaunch : Nat
  /-- Records whose firing continues a ch1 chain, with the logical core of the chain (R46). -/
  chainRecords : List (Nat × Nat)
  trig : List (Nat × Trigger)
  chunkNext : Nat
  chunks : List (List Nat)
  netFree : List (Nat × List Nat)
  released : List Released
  links : List CompletionLink
  bags : List (Nat × Bag)
  kvRc : List (Nat × Nat)
  kvPc : List (Nat × Nat)
  kvFresh : Nat
  kvTail : List Nat
  tree : List TreeNode
  treeStamp : Nat
  ring : List (Nat × Nat × Nat)
  floors : List (Nat × Nat)
  dropped : List (Nat × Nat)
  posts : List (Nat × Nat)
  stitches : List (Nat × Stitch)
  arrivals : List Arrival
  kept : List Arrival
  /-- A migration between its steps 2 and 6 (R344): no entry is dispatched. -/
  migrating : Bool
  /-- The reports of step 6 still to be made (R344): record, logical core that named it, status. -/
  reports : List (Nat × Nat × Nat)
  /-- The fold map that the driver has written, in force from the next move to the SI (R342, DEDUCED log 29). -/
  foldNext : List (Nat × Nat)
  breakArmed : Bool
  /-- Pages whose window of R315 is open: page number and page size. -/
  moveWindows : List (Nat × Nat)
  deriving DecidableEq, Repr

/-! ## Engines -/

/-- A captured tensor descriptor (R229): its eight words. -/
abbrev Tensor := List Word

/-- The part of a split tile a queue entry performs (R236). -/
inductive Half where
  | whole | own | mate
  deriving DecidableEq, Repr

/-- What an engine job does, with its operands captured at issue (R225). -/
inductive JobKind where
  | mma (a b : Tensor) (rows : Option (List Nat)) (row0 col0 k0 slot m n kk : Nat) (acc : Bool)
  | mzero (slot m n : Nat)
  | mldt (t : Tensor) (iv : Bool) (row col slot m n : Nat)
  | mstt (t : Tensor) (iv : Bool) (mode row col slot m n : Nat) (gen : Gen)
  | cpy (dst src nr nb : Nat) (dstStride srcStride : Int) (cb : Nat)
  | cpyg (dst src nr nb : Nat) (dstStride srcStride : Int) (idx : Nat)
  | mvc (t : Tensor) (row0 x y nrow : Nat) (acc : Bool)
  | qfen (queues : List EngineQueue)
  deriving DecidableEq, Repr

/-- What an engine access of a job came to: bytes read or elements of a tile line, each with its poison, or a write (R228). -/
inductive JobAccess where
  | bytes (bs : List (Byte × Bool)) | line (vs : List (Nat × Bool)) | wrote
  deriving DecidableEq, Repr

/-- A job in an engine queue (R225, R226): whose it is, its number, its class and block-steps, and its progress. -/
structure Job where
  kind : JobKind
  ctx : Nat
  lcore : Nat
  slot : Nat
  num : Nat
  clus : Nat
  half : Half
  energy : Nat
  steps : Nat
  onBi : Bool
  /-- Rows a CPY into a circular buffer has written (R241). -/
  row : Nat
  /-- Whether a row met poison (R145). -/
  met : Bool
  /-- Waiting for firmware at an access (PAGE or RES): nothing of the job is performed meanwhile. -/
  waiting : Bool
  /-- The accesses made before that one, in order: they stand, and the job resumes after them (R228). -/
  past : List JobAccess
  deriving DecidableEq, Repr

/-- An MSEND command under way (R246). -/
structure Remote where
  ctx : Nat
  lcore : Nat
  slot : Nat
  num : Nat
  cap : Word
  words : List Word
  tensors : List (Nat × Tensor)
  energy : Nat
  gen : Option Gen
  onBi : Bool
  deriving DecidableEq, Repr

/-- The status a finished half left while the other half runs: code, detail, flags, overrun, whose half and on which logical
cluster it ran (R236). -/
structure HalfStatus where
  ctx : Nat
  lcore : Nat
  slot : Nat
  num : Nat
  own : Bool
  clus : Nat
  code : Nat
  detail : Nat
  flags : Nat
  ovr : Bool
  deriving DecidableEq, Repr

/-! ## In flight, and waiting for firmware -/

/-- A message under way to a logical core (R45): its hops stand in its payload (R287). -/
structure InFlight where
  ctx : Nat
  dst : Nat
  /-- The sending slot and channel order messages (R45); none for refusals and forwards. -/
  slot : Option SlotId
  msg : Msg
  deriving DecidableEq, Repr

/-- A record transition under way (R379): to RUNNING 5, SAVED 6 or DONE 7. -/
structure Transition where
  ctx : Nat
  lcore : Nat
  record : Nat
  state : Nat
  deriving DecidableEq, Repr

/-- A die-queue entry, under way or queued (R294). dir 0 is die 1 to die 2, 1 the other way. -/
structure DieEntry where
  dir : Nat
  ctx : Nat
  seq : Nat
  bytes : List Byte
  deriving DecidableEq, Repr

/-- A row of a logit queue (R302, R304). q is 1 or 2 for a burst die, 0 for hub firmware's queue. -/
structure LogitRow where
  q : Nat
  ctx : Nat
  words : List Word
  u : Word
  lcore : Nat
  slot : Nat
  k : Nat
  deriving DecidableEq, Repr

/-- What waits for firmware (R316): a saved frame, the job at the head of an engine queue, or an operation of the device
that will be made again, slot one that it makes for the KVA in a slot (R318); noMap stands once firmware found that no mapping covers
such an operation's page; arena is a frame for which the task arena has no room, spill a place there for spilled entries, image one
for what a migration spills (R43, R343). -/
inductive Stalled where
  | frame (addr : Nat) | job (q : EngineQueue) | device | slot (id : SlotId) | noMap | arena (addr : Nat) | spill (addr : Nat)
  | image (addr : Nat)
  deriving DecidableEq, Repr

/-- A PAGE waiting for firmware (R316): die is the die whose firmware core has it, passed says that it came there over
channel 0 (R368). -/
structure PageFault where
  ctx : Nat
  va : Nat
  who : Stalled
  die : Nat
  passed : Bool
  deriving DecidableEq, Repr

/-- An entry for a ring of a context: a fault record with its code, or an entry of the stash trace ring (R146, R320). -/
structure RingEntry where
  ctx : Nat
  lcore : Nat
  trace : Bool
  code : Nat
  bytes : List Byte
  deriving DecidableEq, Repr

/-- A line stored through a stash map and not written back since (R162): the logical core that maps it, its stash offset and
physical address, and for each byte the value to which a drop may let it fall back, if any. -/
structure DirtyLine where
  ctx : Nat
  lcore : Nat
  off : Nat
  pa : Nat
  fall : List (Option Byte)
  deriving DecidableEq, Repr

/-- The partial of one L1 (R136): its core, the logical core its poison is charged to, and a value for each element. -/
structure Partial where
  core : PCore
  ctx : Nat
  lcore : Nat
  vals : List (Nat × Nat)
  deriving DecidableEq, Repr

/-- A line with partials (R136): its page kind and the key under which it is stored, operation, width in bytes, the elements' values
before them, and the partials in the order in which they began. State.mem holds the line as it is once they are gathered. -/
structure Gather where
  line : Nat
  kind : Nat
  key : Option (BitVec 256)
  op : Nat
  n : Nat
  base : List (Nat × Nat)
  parts : List Partial
  deriving DecidableEq, Repr

/-- A KVA whose copy on write is under way (R138, R144, R282): the slot that waits, its context, the register of its result, the
record's address, the shared page and its copy, the addresses of the table entry and of the token, the row's place in the page, the
position, and whether it is committed. -/
structure KvCopy where
  slot : SlotId
  ctx : Nat
  d : Reg
  record : Nat
  old : Nat
  new : Nat
  entry : Nat
  src : Nat
  row : Nat
  len : Nat
  commit : Bool
  deriving DecidableEq, Repr

/-- A SYSC request (R329). -/
structure Sysc where
  ctx : Nat
  addr : Nat
  n : Nat
  args : List Word
  deriving DecidableEq, Repr

/-! ## The package -/

/-- A cached translation (R313): context, 64 KiB page number, and the leaf that covers it. -/
structure TlbEntry where
  ctx : Nat
  page : Nat
  pte : Nat
  big : Bool
  addr : Nat
  deriving DecidableEq, Repr

/-- Counters of a physical core (R52, R314): pass counters, the last triple served at each level, the dirty log. -/
structure PhysCore where
  pass : List Nat
  served : List (Nat × Nat)
  dirty : List Nat
  deriving DecidableEq, Repr

/-- A physical core at reset. -/
def PhysCore.init : PhysCore := ⟨List.replicate 8 0, [], []⟩

/-- The registers of a firmware slot (R326). -/
structure FwRegs where
  epc : Word
  ecause : Word
  eaddr : Word
  ptroot : Word
  ctxd : Word
  fwscr : Word
  deriving DecidableEq, Repr

/-- Firmware registers at reset: none stated (DESIGN CHOICE log 10). -/
def FwRegs.init : FwRegs := ⟨0, 0, 0, 0, 0, 0⟩

/-- States of the burst island (R331). -/
inductive BiState where
  | on | drain | ret | off | wake
  deriving DecidableEq, Repr

/-- States of the small island (R331). -/
inductive SiState where
  | on | idle | ret
  deriving DecidableEq, Repr

/-- What a wake names (R334). -/
inductive Domain where
  | dram | bi | si
  deriving DecidableEq, Repr

/-- A wake cause waiting for its domain, with its notify record (0 for none) and the context it belongs to. -/
structure WakeCause where
  target : Domain
  record : Nat
  ctx : Nat
  lcore : Nat
  deriving DecidableEq, Repr

/-- A started command (R366): its ring index and words, whether its action is made while it has not completed (a LAUNCH under
way), and once it has completed the status word still to be stored. -/
structure Started where
  index : Nat
  words : List Word
  acted : Bool
  status : Option Word
  deriving DecidableEq, Repr

/-- A command queue (R361 to R364): header address, tail and head, whether it is bound and rt, whether QUNBIND has closed it,
and its started commands, oldest first. -/
structure Queue where
  header : Nat
  tail : Nat
  head : Nat
  bound : Bool
  rt : Bool
  closing : Bool
  started : List Started
  deriving DecidableEq, Repr

/-- An unbound queue. -/
def Queue.init : Queue := ⟨0, 0, 0, false, false, false, []⟩

/-- What a page of the hub page store is lent to (R339). -/
inductive Lent where
  | page (ctx va : Nat) | stash (ctx lcore : Nat) | tile (ctx clus : Nat)
  deriving DecidableEq, Repr

/-- An access that is held while the DRAM is in SREF (R332, R340): a notify of a queue, the driver queue's header address, a host
write of bytes, with none a read, or a count in a counter that the front end keeps in memory (R352, R361). -/
inductive HostAccess where
  | notify (q : QueueRef) (tail : Word) | header (pa : Nat) | access (pa : Nat) (bytes : List Byte) | count (pa : Nat)
  deriving DecidableEq, Repr

/-- A scrub list entry (R376). -/
structure ScrubEntry where
  ctx : Nat
  ptroot : Nat
  slot : Nat
  deriving DecidableEq, Repr

/-- The management controller (R369 to R374): mailbox, event log, images, counters and sensors. -/
structure Mc where
  status : Nat
  length : Nat
  data : List Byte
  log : List (Nat × Nat × Nat × Word × Word)
  seq : Nat
  /-- Bytes of the staged image, which stands in the hub page store (R370). -/
  staged : Nat
  nor : List Byte
  norValid : Bool
  programming : Bool
  /-- The image being programmed. -/
  prog : List Byte
  image : List Byte
  recovery : Bool
  shutdown : Nat
  time : Nat
  sensors : List Int
  ecc : List (Nat × Nat × Nat)
  pageErrors : List (Nat × Nat)
  deriving DecidableEq, Repr

/-- The management controller after power-on: mailbox OK (R370). -/
def Mc.init : Mc := ⟨0, 0, [], [], 0, 0, [], true, false, [], [], false, 0, 0, [], [], []⟩

/-- Rails, budgets and integrals (R348 to R355): points of MX, VX, SM and FB, cap in mW, idle interval in microseconds,
thermal and reliability integrals per region in 2^-32 of 10 microseconds, gates per cluster, clusters' THR. -/
structure Power where
  mx : Nat
  vx : Nat
  sm : Nat
  fb : Nat
  cap : Nat
  idle : Nat
  powered : Nat
  windows : List (Nat × List Nat)
  reliability : List (Nat × Nat)
  gates : List ((Bool × Nat) × Nat)
  thr : List ((Bool × Nat) × Word)
  junc : Bool
  /-- A current limit of a shared rail was reported that no evaluation has answered yet (R349, R354). -/
  limited : Bool
  deriving DecidableEq, Repr

/-- Power state after reset (R348 gives no point: DESIGN CHOICE log 16; R349 gives the idle interval). -/
def Power.init : Power := ⟨0, 0, 0, 0, 45000, 1000, 0, [], [], [], [], false, false⟩

/-- One turn: which slot moves, or which event happens with what it is given (DESIGN CHOICE log 2). -/
inductive Turn where
  | slot (id : SlotId) | event (i : Instr) (arg : EventArg)
  deriving DecidableEq, Repr

/-- The state of the package. -/
structure State where
  turns : List Turn
  cur : SlotId
  act : Task
  active : Bool
  parked : List (SlotId × Task)
  arg : EventArg
  free : Nat
  mem : Memory
  back : Memory
  stash : Memory
  tile : Memory
  poison : List Nat
  /-- Poisoned lines of the backing store: what a line falls back to with its bytes (R145, R163, R372). -/
  backPoison : List Nat
  stashPoison : List Nat
  tilePoison : List Nat
  ctxs : List (Nat × Ctx)
  cores : List (PCore × PhysCore)
  fw : List (SlotId × FwRegs)
  tlb : List TlbEntry
  engines : List (EngineQueue × List Job)
  halves : List HalfStatus
  remotes : List Remote
  msgs : List InFlight
  trans : List Transition
  dieFlight : List DieEntry
  dieQ : List DieEntry
  logits : List LogitRow
  pages : List PageFault
  pendRes : List PageFault
  sysc : List Sysc
  halted : List (Nat × Nat × Nat)
  /-- Tasks whose frames CTXS wrote, by the frame's physical address: what a frame does not record of them (R330, DESIGN CHOICE log 31). -/
  held : List (Nat × Task)
  bi : BiState
  si : SiState
  dramSref : Bool
  biMap : Bool
  causes : List WakeCause
  power : Power
  cyc : Vector Word 3
  featAcc : Vector Word 2
  featLock : Bool
  featLate : Bool
  lottery : Word
  queues : List (QueueRef × Queue)
  slots : List (Nat × QueueRef)
  mapWait : List QueueRef
  heldHost : List HostAccess
  /-- Entries that wait for a page of their ring, or for the DRAM that holds it, oldest first (R146, R316, R320, R332). -/
  heldEntries : List RingEntry
  dirtyMaps : List DirtyLine
  gathers : List Gather
  /-- Contexts whose MBND stands in the queue of the migration engine (R138, R344). -/
  migQueue : List Nat
  /-- The copies in the queue of the prefix unit, oldest first (R138). -/
  copies : List KvCopy
  store : List (Nat × Lent)
  keys : List (Nat × BitVec 256)
  scrub : List ScrubEntry
  scrb : Word
  /-- The virtual address from which the scrub engine's walk goes on (R377). -/
  scrubAt : Nat
  mc : Mc
  ticks : Nat
  deriving DecidableEq, Repr

/-- The registers of a slot that holds no task, and every register a task finds at dispatch (R36). -/
def Task.blank : Task :=
  { x := Vector.replicate 32 0, v := Vector.replicate 32 0, p := Vector.replicate 8 0, frm := 0, pc := 0, ctx := 0,
    lcore := 0, record := 0, source := .ready, level := 0, priv := false, chain := [], launch := none, retired := 0,
    savedSlot := 0, pinned := [] }

/-- The package after power-on and device reset (R372): no context, the BI OFF, every queue unbound, FEAT accepting
gidan alone, the lottery seed of R364. What the spec leaves open stands in logs 1, 10, 16 and 17. -/
def State.reset : State :=
  { turns := [], cur := ⟨.si 0, 0⟩, act := Task.blank, active := false, parked := [], arg := {}, free := 0,
    mem := [], back := [], stash := [], tile := [], poison := [], backPoison := [], stashPoison := [], tilePoison := [], ctxs := [],
    cores := [], fw := [], tlb := [], engines := [], halves := [], remotes := [], msgs := [], trans := [],
    dieFlight := [], dieQ := [], logits := [], pages := [], pendRes := [], sysc := [], halted := [], held := [],
    bi := .off, si := .ret, dramSref := false, biMap := false, causes := [], power := Power.init,
    cyc := Vector.replicate 3 0, featAcc := Vector.mk #[1, 0] rfl, featLock := false, featLate := false,
    lottery := 0x9E3779B97F4A7C15, queues := [], slots := [], mapWait := [], heldHost := [], heldEntries := [],
    dirtyMaps := [], gathers := [], migQueue := [], copies := [], store := [], keys := [], scrub := [],
    scrb := 0, scrubAt := 0, mc := Mc.init, ticks := 0 }

end Sys2Proof.Machine
end

