-- ==== Sys2Proof/Machine/Ops.lean ====
section
/-! DEFINITION. The named operations that every meaning is made of: registers, contexts and logical cores, translation and
memory access (R119 to R145, R310 to R314), saving a task, taking a fault and returning from one (R316 to R320, R330), and
the forms in which a meaning runs an operation. -/

namespace Sys2Proof.Machine

/-! ## The operation monad -/

/-- How an operation ends without its effect: a fault with its code and address (whether poison was met; the TRAP number),
or a stall that leaves the instruction to be executed again (R37, R64). -/
inductive Trap where
  | fault (code addr : Nat) (pois : Bool) (num : Nat)
  | stall
  deriving DecidableEq, Repr

/-- An operation on the state that may end in a trap, which discards everything it did (R64). -/
abbrev Op := StateT State (Except Trap)

/-- Fault codes of R316. -/
def codeIll : Nat := 1
def codePriv : Nat := 2
def codeAlign : Nat := 3
def codePage : Nat := 4
def codeProt : Nat := 5
def codeTens : Nat := 6
def codePois : Nat := 7
def codeRes : Nat := 8
def codeTrap : Nat := 9

/-- Raises a fault that names no address. -/
def raise {α : Type} (code : Nat) : Op α := throw (.fault code 0 false 0)

/-- Raises a fault at an address. -/
def raiseAt {α : Type} (code addr : Nat) : Op α := throw (.fault code addr false 0)

/-- Raises a fault unless a condition holds. -/
def require (c : Bool) (code : Nat) : Op Unit := if c then pure () else raise code

/-- Runs an operation, giving its trap instead of ending; a trap leaves the state as it was before. -/
def attempt {α : Type} (op : Op α) : Op (Except Trap α) := fun s =>
  match op s with
  | .ok (a, s') => .ok (.ok a, s')
  | .error t => .ok (.error t, s)

/-- The next value of the counter that free values are applied to (DESIGN CHOICE log 5). -/
def freeIndex : Op Nat := do
  let s ← get
  set { s with free := s.free + 1 }
  pure s.free

/-! ## Cores and widths -/

/-- VW of a physical core in bits (R14, R15): the burst-die firmware cores are cores of burst clusters. -/
def coreVw : PCore → Nat
  | .bi _ => Config.vwBi
  | .si _ => Config.vwSi
  | .fw 0 => Config.vwSi
  | .fw _ => Config.vwBi

/-- VW of the core that runs the moving slot. -/
def State.vw (s : State) : Nat := coreVw s.cur.core

/-- Physical die of a core (R16). -/
def coreDie : PCore → Nat
  | .bi l => Config.dieOf l
  | .si _ => 0
  | .fw d => d

/-- Whether a core is on the burst island. -/
def coreIsBi : PCore → Bool
  | .bi _ => true
  | .si _ => false
  | .fw _ => false

/-! ## Registers -/

/-- Reads a scalar register; x0 reads zero (R68). -/
def State.x (s : State) (r : Reg) : Word := if r = 0 then 0 else s.act.x[r]

/-- Writes a scalar register; a write to x0 is discarded (R68). -/
def State.setX (s : State) (r : Reg) (v : Word) : State :=
  if r = 0 then s else { s with act := { s.act with x := s.act.x.set r v } }

/-- The second register of a pair whose first is even (R68). -/
def pairOf (r : Reg) : Reg := ⟨(r.val + 1) % 32, Nat.mod_lt _ (by decide)⟩

/-- Register r + k, for the groups of R68. -/
def regPlus (r : Reg) (k : Nat) : Reg := ⟨(r.val + k) % 32, Nat.mod_lt _ (by decide)⟩

/-- Reads a vector register over the core's VW bits (R198). -/
def State.vreg (s : State) (r : Reg) : Nat := (s.act.v[r]).toNat % 2 ^ s.vw

/-- Writes a vector register over the core's VW bits. -/
def State.setV (s : State) (r : Reg) (v : Nat) : State :=
  { s with act := { s.act with v := s.act.v.set r (BitVec.ofNat 1024 (v % 2 ^ s.vw)) } }

/-- Reads a predicate register; p0 reads all ones (R68, R198). -/
def State.preg (s : State) (p : PReg) : Nat :=
  if p = 0 then 2 ^ (s.vw / 8) - 1 else (s.act.p[p]).toNat % 2 ^ (s.vw / 8)

/-- Writes a predicate register; a write to p0 is discarded (R68). -/
def State.setP (s : State) (p : PReg) (v : Nat) : State :=
  if p = 0 then s else { s with act := { s.act with p := s.act.p.set p (BitVec.ofNat 128 (v % 2 ^ (s.vw / 8))) } }

/-- Sets the program counter. -/
def State.setPc (s : State) (pc : Word) : State := { s with act := { s.act with pc := pc } }

/-- Reads a scalar register. -/
def rdX (r : Reg) : Op Word := do return (← get).x r

/-- Writes a scalar register. -/
def wrX (r : Reg) (v : Word) : Op Unit := modify (·.setX r v)

/-! ## Contexts and logical cores -/

/-- A logical core of a context; one without an entry is as at creation. -/
def Ctx.core (c : Ctx) (l : Nat) : LCore := (assocGet c.cores l).getD LCore.init

/-- A context with one logical core changed. -/
def Ctx.setCore (c : Ctx) (l : Nat) (k : LCore) : Ctx := { c with cores := assocPut c.cores l k }

/-- A context of the package. -/
def State.ctx? (s : State) (id : Nat) : Option Ctx := assocGet s.ctxs id

/-- The package with a context set. -/
def State.setCtx (s : State) (id : Nat) (c : Ctx) : State := { s with ctxs := assocPut s.ctxs id c }

/-- The package with a context changed, if it exists. -/
def State.modCtx (s : State) (id : Nat) (f : Ctx → Ctx) : State :=
  match s.ctx? id with
  | some c => s.setCtx id (f c)
  | none => s

/-- The package with a logical core of a context changed. -/
def State.modCore (s : State) (id l : Nat) (f : LCore → LCore) : State :=
  s.modCtx id (fun c => c.setCore l (f (c.core l)))

/-- A logical core of a context, as at creation if the context does not exist. -/
def State.lcore (s : State) (id l : Nat) : LCore :=
  match s.ctx? id with
  | some c => c.core l
  | none => LCore.init

/-- The context, else PROT. -/
def theCtx (id : Nat) : Op Ctx := do
  match (← get).ctx? id with
  | some c => pure c
  | none => raise codeProt

/-- The context of the running task. -/
def myCtx : Op Ctx := do theCtx (← get).act.ctx

/-- The logical core of the running task. -/
def myCore : Op LCore := do
  let s ← get
  return s.lcore s.act.ctx s.act.lcore

/-- Changes the context of the running task. -/
def modMyCtx (f : Ctx → Ctx) : Op Unit := modify fun s => s.modCtx s.act.ctx f

/-- Changes the logical core of the running task. -/
def modMyCore (f : LCore → LCore) : Op Unit := modify fun s => s.modCore s.act.ctx s.act.lcore f

/-- SI cluster of a logical cluster under the fold map (R342). -/
def Ctx.siCluster (c : Ctx) (clus : Nat) : Nat := (assocGet c.fold clus).getD (clus % 2)

/-- Physical core that hosts a logical core (R17, R342). -/
def Ctx.host (c : Ctx) (l : Nat) : PCore :=
  if c.onBi then .bi l else .si (4 * c.siCluster (Config.clusterOf l) + Config.laneOf l % 4)

/-- Physical core that hosts a logical core of a context. -/
def State.hostOf (s : State) (id l : Nat) : PCore :=
  match s.ctx? id with
  | some c => c.host l
  | none => .si 0

/-- Physical cluster of a core: island and number. The firmware core of a burst die is core 0 of its spare cluster S0 (R15), here
number 64 on die 1 and 65 on die 2; the spec puts the hub's in no cluster, and SI cluster 0 stands for it (DESIGN CHOICE log 54). -/
def coreCluster : PCore → Bool × Nat
  | .bi l => (false, Config.clusterOf l)
  | .si k => (true, k / 4)
  | .fw 0 => (true, 0)
  | .fw (d + 1) => (false, 64 + d)

/-! ## ERRS (R322) -/

def errTr : Nat := 19
def errDq : Nat := 18
def errMask : Nat := 17
def errKvst : Nat := 16
def errKvref : Nat := 15
def errLink : Nat := 14
def errNode : Nat := 13
def errWl : Nat := 12
def errRef : Nat := 11
def errCb : Nat := 10
def errJoin : Nat := 9
def errPois : Nat := 8

/-- ERRS with a bit set. -/
def errsSet (e : Word) (n : Nat) : Word := e ||| (1#64 <<< n)

/-- ERRS after one instruction or device operation met poison: pois set, pcnt counted, saturating (R145). -/
def errsPoison (e : Word) : Word :=
  let n := (e >>> 40) &&& 0xFF
  (if n = 0xFF then e else e + (1#64 <<< 40)) ||| (1#64 <<< errPois)

/-- ERRS after n writes dropped on discarded pages: dwr counted, saturating (R142). -/
def errsDropped (e : Word) (n : Nat) : Word :=
  let k := (e >>> 48).toNat + n
  (e &&& 0x0000FFFFFFFFFFFF) ||| (BitVec.ofNat 64 (if 0xFFFF < k then 0xFFFF else k) <<< 48)

/-- Sets an ERRS bit of a logical core. -/
def State.setErr (s : State) (id l n : Nat) : State := s.modCore id l fun k => { k with errs := errsSet k.errs n }

/-- Counts poison on a logical core. -/
def State.countPoison (s : State) (id l : Nat) : State := s.modCore id l fun k => { k with errs := errsPoison k.errs }

/-- Sets an ERRS bit of the running task's logical core. -/
def setMyErr (n : Nat) : Op Unit := modify fun s => s.setErr s.act.ctx s.act.lcore n

/-! ## Locations -/

/-- First address of the remote stash window (R121). -/
def remoteBase : Nat := 0xFFFE00000000

/-- First address of the local stash window (R121). -/
def localBase : Nat := 0xFFFF00000000

/-- Address of an offset of a logical core's stash in the remote window. -/
def remoteVa (l off : Nat) : Nat := remoteBase + l * 0x20000 + off

/-- Whether an address lies in the local stash window, which names no core unless an instruction supplies it (R121, R378). -/
def inLocal (va : Nat) : Bool := decide (localBase ≤ va) && decide (va < localBase + 0x20000)

/-- An address as the device keeps it: a local-window address in the issuing core's remote window (R378). -/
def canonVa (w : Who) (va : Nat) : Nat :=
  match w with
  | .core _ l => if localBase ≤ va ∧ va < localBase + Config.stashBytes then remoteVa l (va - localBase) else va
  | .phys => va

/-- Stash owner and offset of a window address (R121); none when it names no stash byte. -/
def stashOf (l va : Nat) : Option (Nat × Nat) :=
  if localBase ≤ va then
    if va - localBase < Config.stashBytes then some (l, va - localBase) else none
  else
    let o := va - remoteBase
    if o < 0x4000000 ∧ o % 0x20000 < Config.stashBytes then some (o / 0x20000, o % 0x20000) else none

/-- Key of a stash byte in State.stash. -/
def stashKey (id l off : Nat) : Nat := (id * 512 + l) * 0x20000 + off

/-- Whether a physical address names memory (R312, R339, R25). -/
def memExists (pa : Nat) : Bool :=
  decide (pa < 2 ^ 35) || (decide (Config.pageStoreBase ≤ pa) && decide (pa < Config.hostBase))
    || (decide (Config.hostBase ≤ pa) && decide (pa < 2 ^ 48)) || decide (pa < Config.dramBytes)

/-- What an access is for (R313). -/
inductive Acc where
  | load | store | atomic | fetch
  deriving DecidableEq, Repr

/-- Whether permissions r, w, x admit an access (R313). -/
def Acc.allowed (a : Acc) (r w x : Bool) : Bool :=
  match a with
  | .load => r | .store => w | .atomic => r && w | .fetch => x

/-- Where an address leads: a stash byte by its key, or physical memory (discarded or not, with the address of its page's
table entry for the dirty log, the stash line it was reached through when mapped, R123, and the key under which its page is
stored, R375). kind is the page kind. -/
inductive Loc where
  | stash (key : Nat)
  | mem (pa kind : Nat) (dsc : Bool) (pte : Option Nat) (via : Option (Nat × Nat)) (key : Option (BitVec 256))
  deriving DecidableEq, Repr

/-- Bit n of a number. -/
def bitOf (v n : Nat) : Bool := v / 2 ^ n % 2 == 1

/-- The outcome of a page-table walk (R312): the leaf, whether it covers 2 MiB, and where the entry lies; or PAGE. -/
def walk (m : Memory) (root ea : Nat) : Option (Nat × Bool × Nat) :=
  let e1 := m.readNat (root + 8 * bits ea 47 34) 8
  if !bitOf e1 0 then none
  else
    let a2 := bits e1 42 11 * 2 ^ 16 + 8 * bits ea 33 21
    let e2 := m.readNat a2 8
    if !bitOf e2 0 then none
    else if bits e2 3 1 ≠ 0 then (if bits e2 15 11 ≠ 0 then none else some (e2, true, a2))
    else
      let a3 := bits e2 42 11 * 2 ^ 16 + 8 * bits ea 20 16
      let e3 := m.readNat a3 8
      if !bitOf e3 0 then none else some (e3, false, a3)

/-- The cached translation of a page, if any (R313). -/
def State.tlbFind (s : State) (id page : Nat) : Option TlbEntry :=
  s.tlb.find? fun t => t.ctx = id && t.page = page

/-- The key in a slot; a zeroised one is zero (R375, R376). -/
def State.keyOf (s : State) (k : Nat) : BitVec 256 := (assocGet s.keys k).getD 0

/-- The checks 2 to 4 of R313 on a leaf entry, and its location. -/
def leafLoc (s : State) (id : Nat) (c : Ctx) (acc : Acc) (ea pte : Nat) (big : Bool) (at_ : Nat) : Except Nat Loc :=
  let pa := if big then bits pte 42 16 * 2 ^ 21 + ea % 2 ^ 21 else bits pte 42 11 * 2 ^ 16 + ea % 2 ^ 16
  if bits pte 5 4 = 3 ∨ bits pte 57 46 ≠ id ∨ (bitOf pte 63 ∧ ¬(c.pk ∧ bits pte 62 58 = c.keySlot)) then .error codeProt
  else if !acc.allowed (bitOf pte 1) (bitOf pte 2) (bitOf pte 3) then .error codeProt
  else if !memExists pa then .error codeProt
  else if !bitOf pte 9 && s.dramSref then .error codeRes
  else .ok (.mem pa (bits pte 5 4) (bitOf pte 10) (some at_) none (if bitOf pte 63 then some (s.keyOf c.keySlot) else none))

/-- Whether an address lies in the heap (R311). -/
def Ctx.inHeap (c : Ctx) (ea : Nat) : Bool :=
  bitOf c.hbase.toNat 0 && decide (bits c.hbase.toNat 47 21 * 2 ^ 21 ≤ ea) && decide (ea < bits c.hlim.toNat 47 21 * 2 ^ 21)

/-- The location of a heap address (R311). -/
def heapLoc (s : State) (c : Ctx) (acc : Acc) (ea : Nat) : Except Nat Loc :=
  let h := c.hbase.toNat
  let pa := (ea + bits c.hoff.toNat 47 16 * 2 ^ 16) % 2 ^ 48
  if !acc.allowed (bitOf h 1) (bitOf h 2) (bitOf h 3) then .error codeProt
  else if !memExists pa then .error codeProt
  else if s.dramSref then .error codeRes
  else .ok (.mem pa (bits h 5 4) false none none none)

/-- Translates a global address: the heap, else the page tables through the cached entries (R311 to R313). A walk caches
the entry it used and sets its accessed bit (R312). -/
def globalLoc (id : Nat) (c : Ctx) (acc : Acc) (ea : Nat) : Op Loc := do
  let s ← get
  if c.inHeap ea then
    match heapLoc s c acc ea with
    | .ok loc => pure loc
    | .error code => raiseAt code ea
  else
    match s.tlbFind id (ea / 2 ^ 16) with
    | some t =>
      match leafLoc s id c acc ea t.pte t.big t.addr with
      | .ok loc => pure loc
      | .error code => raiseAt code ea
    | none =>
      match walk s.mem c.ptroot ea with
      | none => raiseAt codePage ea
      | some (pte, big, at_) =>
        match leafLoc s id c acc ea pte big at_ with
        | .error code => raiseAt code ea
        | .ok loc =>
          let pte' := if bitOf pte 6 then pte else pte + 64
          set { s with
            tlb := ⟨id, ea / 2 ^ 16, pte', big, at_⟩ :: s.tlb
            mem := if bitOf pte 6 then s.mem else s.mem.writeNat at_ 8 pte' }
          pure loc

/-- Whether an address lies in host memory (R312). -/
def isHost (pa : Nat) : Bool := decide (Config.hostBase ≤ pa)

/-- Whether an address lies in DRAM (R312, R339). -/
def isDram (pa : Nat) : Bool := decide (pa < Config.dramBytes)

/-! ## Who owns a page, and whether it is discarded (R142, R312) -/

/-- Bytes of a page. -/
def pageBytes (big : Bool) : Nat := if big then 2 ^ 21 else 2 ^ 16

/-- First physical byte of the page of a leaf. -/
def leafBase (pte : Nat) (big : Bool) : Nat := if big then bits pte 42 16 * 2 ^ 21 else bits pte 42 11 * 2 ^ 16

/-- Whether a leaf's frame covers a physical address. -/
def leafCovers (pa pte : Nat) (big : Bool) : Bool :=
  decide (leafBase pte big ≤ pa) && decide (pa < leafBase pte big + pageBytes big)

/-- The numbers of the valid entries among n of a table, ascending in a canonical memory. -/
def validEntries (m : Memory) (table n : Nat) : List Nat :=
  (m.filter fun c => decide (table ≤ c.1) && decide (c.1 < table + 8 * n) && decide ((c.1 - table) % 8 = 0) && bitOf c.2.toNat 0).map
    fun c => (c.1 - table) / 8

/-- Every leaf that a root reaches: virtual address, entry, whether it covers 2 MiB, and its place. -/
def leaves (m : Memory) (root : Nat) : List (Nat × Nat × Bool × Nat) :=
  (validEntries m root 16384).flatMap fun i =>
    let t2 := bits (m.readNat (root + 8 * i) 8) 42 11 * 2 ^ 16
    (validEntries m t2 8192).flatMap fun j =>
      let a2 := t2 + 8 * j
      let e2 := m.readNat a2 8
      if bits e2 3 1 ≠ 0 then (if bits e2 15 11 ≠ 0 then [] else [(i * 2 ^ 34 + j * 2 ^ 21, e2, true, a2)])
      else
        let t3 := bits e2 42 11 * 2 ^ 16
        (validEntries m t3 32).map fun k => (i * 2 ^ 34 + j * 2 ^ 21 + k * 2 ^ 16, m.readNat (t3 + 8 * k) 8, false, t3 + 8 * k)

/-- The context that owns the page of a physical address, with its leaf: one that is cached, as a change of the table takes effect with
a TLBI alone (R313), one of its tables, or 0 for its heap. -/
def State.pageOwner (s : State) (pa : Nat) : Option (Nat × Nat) :=
  match s.tlb.find? fun t => decide (bits t.pte 57 46 = t.ctx) && leafCovers pa t.pte t.big with
  | some t => some (t.ctx, t.pte)
  | none =>
    s.ctxs.findSome? fun p =>
      match (leaves s.mem p.2.ptroot).find? fun l => decide (bits l.2.1 57 46 = p.1) && leafCovers pa l.2.1 l.2.2.1 with
      | some l => some (p.1, l.2.1)
      | none =>
        let ea := (pa + 2 ^ 48 - bits p.2.hoff.toNat 47 16 * 2 ^ 16) % 2 ^ 48
        if p.2.inHeap ea then some (p.1, 0) else none

/-- The context whose discarded page holds a physical address, if one does (R142). -/
def State.discardedOf (s : State) (pa : Nat) : Option Nat :=
  (s.pageOwner pa).bind fun p => if bitOf p.2 10 then some p.1 else none

/-- The location of a physical address: firmware, the front end and the host find a discarded page so too (R142). -/
def State.physLoc (s : State) (pa : Nat) : Loc := .mem pa 1 (s.discardedOf pa).isSome none none none

/-- The map entry that covers a stash offset (R161). -/
def mapOf (k : LCore) (off : Nat) : Option MapEntry :=
  k.maps.find? fun e => decide (e.off ≤ off) && decide (off < e.off + 64 * e.nl)

/-- Resolves an address for an access (R157 checks 1, 3 and 4; R121, R123). -/
def resolve (w : Who) (acc : Acc) (va : Nat) : Op Loc := do
  match w with
  | .phys => do
    if memExists va then return (← get).physLoc va else raiseAt codeProt va
  | .core id l =>
    if 2 ^ 48 ≤ va then raiseAt codeProt va
    else
      let c ← theCtx id
      if remoteBase ≤ va then
        if acc = .fetch then raiseAt codeProt va
        else
          match stashOf l va with
          | none => raiseAt codeProt va
          | some (owner, off) =>
            match mapOf (c.core owner) off with
            | none => pure (.stash (stashKey id owner off))
            | some e =>
              let ea := e.base + (off - e.off)
              if remoteBase ≤ ea then raiseAt codeProt ea
              else
                match ← globalLoc id c acc ea with
                | .mem pa kind dsc pte _ key => pure (.mem pa kind dsc pte (some (owner, off / 64 * 64)) key)
                | .stash key => pure (.stash key)
      else globalLoc id c acc va

/-- An access cut into pieces that stay within one 64-byte line: address and length of each. Every boundary of
translation, mapping and poison falls between lines. -/
def pieces : Nat → Nat → Nat → List (Nat × Nat)
  | 0, _, _ => []
  | f + 1, va, n =>
    if n = 0 then []
    else
      let k := Nat.min n (64 - va % 64)
      (va, k) :: pieces f (va + k) (n - k)

/-- The pieces of an access of n bytes. -/
def piecesOf (va n : Nat) : List (Nat × Nat) := pieces (n / 64 + 2) va n

/-- Resolves pieces in ascending order, so that the fault of the lowest failing byte is raised (R157). -/
def resolveAll (w : Who) (acc : Acc) : List (Nat × Nat) → Op (List (Loc × Nat))
  | [] => pure []
  | (va, n) :: rest => do
    let loc ← resolve w acc va
    let more ← resolveAll w acc rest
    pure ((loc, n) :: more)

/-- Whether a location lies in a line. -/
def Loc.inLine (line : Nat) : Loc → Bool
  | .mem pa _ _ _ _ _ => decide (pa / 64 = line)
  | .stash _ => false

/-- A dirty line after a party has read n of its bytes from offset o on, or another than its core's map has stored them: they stay as
they are at a drop (R162, DESIGN CHOICE log 14). -/
def DirtyLine.seen (d : DirtyLine) (o n : Nat) : DirtyLine :=
  { d with fall := d.fall.zipIdx.map fun p => if o ≤ p.2 ∧ p.2 < o + n then none else p.1 }

/-- Whether an access to a location is a store through the map of a dirty line. -/
def DirtyLine.through (d : DirtyLine) (w : Who) (acc : Acc) (via : Option (Nat × Nat)) : Bool :=
  match w with
  | .core id _ => decide (acc = .store) && decide (id = d.ctx) && decide (via = some (d.lcore, d.off))
  | .phys => false

/-- A dirty line after an access to n bytes at a location (R162). -/
def DirtyLine.met (d : DirtyLine) (w : Who) (acc : Acc) (loc : Loc) (n : Nat) : DirtyLine :=
  match loc with
  | .mem pa _ _ _ via _ => if pa / 64 = d.pa / 64 ∧ !d.through w acc via then d.seen (pa % 64) n else d
  | .stash _ => d

/-- What an access other than a RED of the same kind does to a line's partials, which are gathered (R136), and what an access does to
the lines stored through stash maps (R162). -/
def State.touch (s : State) (w : Who) (acc : Acc) (ls : List (Loc × Nat)) : State :=
  { s with
    gathers := s.gathers.filter fun g => !ls.any fun p => p.1.inLine g.line
    dirtyMaps := s.dirtyMaps.map fun d => ls.foldl (fun d p => d.met w acc p.1 p.2) d }

/-- Checks every byte of an access (R157): the locations of its pieces. -/
def checkRange (w : Who) (acc : Acc) (va n : Nat) : Op (List (Loc × Nat)) := do
  let ls ← resolveAll w acc (piecesOf va n)
  modify (·.touch w acc ls)
  pure ls

/-! ## Reading and writing locations -/

/-- The 64 bytes of a line under a permutation of each block of 16 (R375). -/
def blocksOf (f : Nat → BitVec 128 → BitVec 128) (line : Nat) (bs : List Byte) : List Byte :=
  (List.range 4).flatMap fun i =>
    natToBytes 16 (f (line + 16 * i) (BitVec.ofNat 128 (bytesToNat ((bs.drop (16 * i)).take 16)))).toNat

/-- The plaintext of a line stored under a key (R375). -/
def plainLine (m : Memory) (key : BitVec 256) (line : Nat) : List Byte :=
  blocksOf (fun a => (aesXts key a).symm) line (m.readBytes line 64)

/-- n bytes of memory within a line, deciphered when they are stored under a key. -/
def Memory.readPlain (m : Memory) (key : Option (BitVec 256)) (pa n : Nat) : List Byte :=
  match key with
  | none => m.readBytes pa n
  | some k => ((plainLine m k (pa / 64 * 64)).drop (pa % 64)).take n

/-- The memory with bytes stored within a line, enciphered when they are stored under a key. -/
def Memory.writePlain (m : Memory) (key : Option (BitVec 256)) (pa : Nat) (bs : List Byte) : Memory :=
  match key with
  | none => m.writeBytes pa bs
  | some k =>
    let line := pa / 64 * 64
    let old := plainLine m k line
    m.writeBytes line
      (blocksOf (fun a => aesXts k a) line (old.take (pa % 64) ++ bs ++ old.drop (pa % 64 + bs.length)))

/-- Whether the line of a location is poisoned (R145). A discarded page reads zero, never poison (R142). -/
def State.poisoned (s : State) : Loc → Bool
  | .stash key => s.stashPoison.contains (key / 64)
  | .mem pa _ dsc _ _ _ => !dsc && s.poison.contains (pa / 64)

/-- The n bytes at a location as a read delivers them: zero on a discarded page, all ones from a poisoned line. -/
def State.readLoc (s : State) (loc : Loc) (n : Nat) : List Byte :=
  if s.poisoned loc then List.replicate n 0xFF
  else match loc with
    | .stash key => s.stash.readBytes key n
    | .mem pa _ dsc _ _ key => if dsc then List.replicate n 0 else s.mem.readPlain key pa n

/-- The bytes of several locations one after another. -/
def State.readLocs (s : State) : List (Loc × Nat) → List Byte
  | [] => []
  | (loc, n) :: rest => s.readLoc loc n ++ s.readLocs rest

/-- The lowest poisoned address of an access from va up. -/
def State.poisonVa (s : State) : Nat → List (Loc × Nat) → Option Nat
  | _, [] => none
  | va, (loc, n) :: rest => if s.poisoned loc then some va else s.poisonVa (va + n) rest

/-- Whether any location is poisoned. -/
def State.anyPoison (s : State) (ls : List (Loc × Nat)) : Bool := ls.any fun p => s.poisoned p.1

/-! ## The backing store (R145, R163, R372) -/

/-- Poisoned lines with those of the whole lines of a range taken from others. -/
def adoptLines (ls other : List Nat) (pa n : Nat) : List Nat :=
  let inside (l : Nat) : Bool := decide (pa ≤ 64 * l) && decide (64 * l + 64 ≤ pa + n)
  (ls.filter fun l => !inside l) ++ other.filter inside

/-- Bytes of a range reach the backing store, whole lines with their poison. -/
def State.reachBack (s : State) (pa n : Nat) : State :=
  { s with back := s.back.adopt s.mem pa n, backPoison := adoptLines s.backPoison s.poison pa n }

/-- Bytes of a range fall back to what has reached the backing store, whole lines with their poison. -/
def State.fallBack (s : State) (pa n : Nat) : State :=
  { s with mem := s.mem.adopt s.back pa n, poison := adoptLines s.poison s.backPoison pa n }

/-- Enters a page into the dirty log of a core; a full log is merged at once, so that nothing is lost (R314). -/
def State.logDirty (s : State) (core : PCore) (pte : Option Nat) : State :=
  match pte with
  | none => s
  | some a =>
    let k := (assocGet s.cores core).getD PhysCore.init
    if k.dirty.contains a then s
    else if 64 ≤ k.dirty.length then
      { s with
        mem := (a :: k.dirty).foldl (fun m e => m.writeNat e 8 (m.readNat e 8 ||| 0xC0)) s.mem
        cores := assocPut s.cores core { k with dirty := [] } }
    else { s with cores := assocPut s.cores core { k with dirty := a :: k.dirty } }

/-- A dirty line after a store through its map from offset o on, over bytes that were prior: one that could not fall back may fall back
to what it was (R162). -/
def DirtyLine.stored (d : DirtyLine) (o : Nat) (prior : List Byte) : DirtyLine :=
  { d with fall := d.fall.zipIdx.map fun p =>
      if o ≤ p.2 ∧ p.2 < o + prior.length then some (p.1.getD ((prior[p.2 - o]?).getD 0)) else p.1 }

/-- Records a store through a stash map at a physical address, over bytes that were prior (R162). -/
def State.noteMapped (s : State) (id owner off pa : Nat) (prior : List Byte) : State :=
  let line := pa / 64 * 64
  let same (d : DirtyLine) : Bool := decide (d.ctx = id) && decide (d.lcore = owner) && decide (d.off = off) && decide (d.pa = line)
  let d := (s.dirtyMaps.find? same).getD ⟨id, owner, off, line, List.replicate 64 none⟩
  { s with dirtyMaps := d.stored (pa % 64) prior :: s.dirtyMaps.filter fun d => !same d }

/-- The package with bytes stored at a location. A write of a whole line clears its poison; a part leaves it (R145). A
write to a discarded page is dropped (R142). -/
def State.writeLoc (s : State) (w : Who) (loc : Loc) (bs : List Byte) : State :=
  match loc with
  | .stash key =>
    { s with
      stash := s.stash.writeBytes key bs
      stashPoison := if bs.length = 64 then s.stashPoison.filter (fun n => decide (n ≠ key / 64)) else s.stashPoison }
  | .mem pa _ dsc pte via key =>
    if dsc then s
    else
      let s' := { s with
        mem := s.mem.writePlain key pa bs
        poison := if bs.length = 64 then s.poison.filter (fun n => decide (n ≠ pa / 64)) else s.poison }
      match w with
      | .phys => s'
      | .core id l =>
        let s' := s'.logDirty (s.hostOf id l) pte
        match via with
        | none => s'
        | some (owner, off) => s'.noteMapped id owner off pa (s.mem.readPlain key pa bs.length)

/-- Stores bytes over several locations. -/
def State.writeLocs (s : State) (w : Who) : List (Loc × Nat) → List Byte → State
  | [], _ => s
  | (loc, n) :: rest, bs => (s.writeLoc w loc (bs.take n)).writeLocs w rest (bs.drop n)

/-- Whether a location is on a discarded page. -/
def Loc.discarded : Loc → Bool
  | .stash _ => false
  | .mem _ _ dsc _ _ _ => dsc

/-- The context whose discarded page one of some locations lies in. -/
def State.droppedOf (s : State) (ls : List (Loc × Nat)) : Option Nat :=
  ls.findSome? fun p => match p.1 with
    | .mem pa _ true _ _ _ => s.discardedOf pa
    | _ => none

/-- Counts a write dropped at some locations, on the logical core that made it; one that no logical core made on core 0 of the context
that owns the page (R142, DEDUCED log 45). -/
def State.countDropped (s : State) (w : Who) (ls : List (Loc × Nat)) : State :=
  let count (id l : Nat) : State := s.modCore id l fun k => { k with errs := errsDropped k.errs 1 }
  match w with
  | .core id l => count id l
  | .phys => match s.droppedOf ls with
    | some id => count id 0
    | none => s

/-- Counts a store of a context that arrived at a stash port (R146). -/
def State.countPort (s : State) (w : Who) (ls : List (Loc × Nat)) : State :=
  match w with
  | .phys => s
  | .core id _ =>
    match ls.findSome? fun p => match p.1 with
      | .stash key => some key
      | .mem .. => none with
    | some key => s.modCore id (key / 0x20000 - 512 * id) fun k => { k with portSeq := k.portSeq + 1 }
    | none => s

/-- Who the running task is towards memory: firmware uses physical addresses (DEDUCED log 11). -/
def State.who (s : State) : Who := if s.act.priv then .phys else .core s.act.ctx s.act.lcore

/-- Reads n bytes on behalf of a device operation: the bytes and whether poison was met. -/
def readRange (w : Who) (va n : Nat) : Op (List Byte × Bool) := do
  let ls ← checkRange w .load va n
  let s ← get
  pure (s.readLocs ls, s.anyPoison ls)

/-- The package with bytes stored at checked locations: dropped and counted where a page is discarded (R142). -/
def State.storeAt (s : State) (w : Who) (ls : List (Loc × Nat)) (bs : List Byte) : State :=
  let s := if ls.any (fun p => p.1.discarded) then s.countDropped w ls else s
  (s.writeLocs w ls bs).countPort w ls

/-! ## The front end's own reads and writes, by physical address (R119, R142, R145, R162) -/

/-- A little-endian number of n bytes within a line as a read by physical address delivers it: of zeros on a discarded page, of ones
from a poisoned line. -/
def State.physNat (s : State) (pa n : Nat) : Nat := bytesToNat (s.readLoc (s.physLoc pa) n)

/-- Bytes written within a line by physical address: a discarded page drops them, which is counted on w (R142). -/
def State.physWriteFor (s : State) (w : Who) (pa : Nat) (bs : List Byte) : State :=
  let ls := [(s.physLoc pa, bs.length)]
  (s.touch .phys .store ls).storeAt w ls bs

/-- Bytes that the front end or firmware writes by physical address. -/
def State.physWrite (s : State) (pa : Nat) (bs : List Byte) : State := s.physWriteFor .phys pa bs

/-- A queue header (R361). -/
structure Header where
  base : Nat
  lcap : Nat
  ctx : Nat
  rt : Bool
  tickets : Nat
  deriving DecidableEq, Repr

/-- The header at an address; tickets of 0 are read as 1. -/
def State.headerAt (s : State) (a : Nat) : Header :=
  let w0 := s.physNat a 8
  let w2 := s.physNat (a + 16) 8
  ⟨bits w0 47 6 * 64, bits w0 3 0, bits w2 63 52, bitOf w2 16, Nat.max 1 (bits w2 15 0)⟩

/-- The lines that the front end may read at any moment, as first line and count: the header and the ring of every bound queue, and the
descriptor of every context (R360, R361). -/
def State.frontLines (s : State) : List (Nat × Nat) :=
  (s.queues.filter fun p => p.2.bound).flatMap (fun p =>
    let h := s.headerAt p.2.header
    [(p.2.header / 64, 1), (h.base / 64, 2 ^ h.lcap)]) ++ s.ctxs.map fun p => (p.2.desc / 64, 8)

/-- Whether a physical address lies in such a line. -/
def State.frontReads (s : State) (pa : Nat) : Bool :=
  s.frontLines.any fun r => decide (r.1 ≤ pa / 64) && decide (pa / 64 < r.1 + r.2)

/-- The package once the front end, a party like any other (R119), has read its lines: their partials are gathered (R136), and none of
their bytes falls back at a drop (R162). -/
def State.frontSeen (s : State) : State :=
  { s with
    gathers := s.gathers.filter fun g => !s.frontReads (64 * g.line)
    dirtyMaps := s.dirtyMaps.map fun d => if s.frontReads d.pa then d.seen 0 64 else d }

/-- Stores bytes on behalf of a device operation or engine. -/
def writeRange (w : Who) (va : Nat) (bs : List Byte) : Op Unit := do
  let ls ← checkRange w .store va bs.length
  modify (·.storeAt w ls bs)

/-- A field of 32 bits in memory counted up by one, saturating (R352, R361). -/
def State.countUp (s : State) (pa : Nat) : State :=
  s.physWrite pa (natToBytes 4 (Nat.min (s.physNat pa 4 + 1) (2 ^ 32 - 1)))

/-- Whether a physical address lies in a DRAM in SREF (R332, R340). -/
def State.asleep (s : State) (pa : Nat) : Bool := s.dramSref && isDram pa

/-- An access of the front end by physical address is held while its frame is in a DRAM in SREF (R332, R340). -/
def physReady (pa : Nat) : Op Unit := do
  if (← get).asleep pa then raiseAt codeRes pa

/-- Whether a context traps on poison (R145, R321). -/
def State.ctxTraps (s : State) (id : Nat) : Bool :=
  match s.ctx? id with
  | some c => bitOf c.flt.toNat 0
  | none => false

/-- Whether the running context traps on poison. -/
def State.trapsPoison (s : State) : Bool := s.ctxTraps s.act.ctx

/-- Poison met by a read of the running task: POIS under trap-on-poison, else counted (R145). -/
def meetPoison (met : Bool) (va : Nat) : Op Unit := do
  if met then
    let s ← get
    if s.trapsPoison then throw (.fault codePois va true 0)
    else set (s.countPoison s.act.ctx s.act.lcore)

/-- An operation of the running task that must act on the words it reads: poison raises POIS under trap-on-poison, which is counted, else
PROT, which is not (R64, R145, R316, DEDUCED log 26). -/
def slotNode {α : Type} (op : Op α) : Op α := do
  match ← attempt op with
  | .ok a => pure a
  | .error (.fault code addr pois num) =>
    let s ← get
    if pois && !s.trapsPoison then throw (.fault codeProt addr false num) else throw (.fault code addr pois num)
  | .error .stall => throw .stall

/-- A plain load of the running task (R158): n bytes. Poison is met at its lowest byte (R157, R320). -/
def loadBytes (va n : Nat) : Op (List Byte) := do
  let s ← get
  let ls ← checkRange s.who .load va n
  let s ← get
  match s.poisonVa va ls with
  | some a => meetPoison true a
  | none => pure ()
  pure (s.readLocs ls)

/-- A little-endian number loaded by the running task. -/
def loadNat (va n : Nat) : Op Nat := do return bytesToNat (← loadBytes va n)

/-- Adds a wake cause; one that has no record and is there already adds nothing (R334). -/
def State.wake (s : State) (w : WakeCause) : State :=
  if w.record = 0 ∧ s.causes.contains w then s else { s with causes := s.causes ++ [w] }

/-- A count that is held while its field lies in a DRAM in SREF, which it wakes (R332, R340); id is the context that it is made for. -/
def State.countHeld (s : State) (id pa : Nat) : State :=
  if s.asleep pa then State.wake { s with heldHost := s.heldHost ++ [.count pa] } ⟨.dram, 0, id, 0⟩ else s.countUp pa

/-! ## Device operations that meet a fault -/

/-- The outcome of a device operation on a context's memory: done, to be made again once firmware has resolved a page or
the DRAM is back, or failed with a code. -/
inductive Dev (α : Type) where
  | done (a : α) | later | failed (code : Nat) (addr : Nat)
  deriving DecidableEq, Repr

/-- Runs a device operation of a unit that lies on a die (R177, R188, R368, R379): a PAGE goes to the firmware of that die and the
operation, for which who stands, is made again, unless firmware found no mapping; RES wakes the DRAM first. -/
def deviceFor {α : Type} (who : Stalled) (die id : Nat) (op : Op α) : Op (Dev α) := do
  match ← attempt op with
  | .ok a => pure (.done a)
  | .error .stall => pure .later
  | .error (.fault code addr _ _) =>
    let s ← get
    if code = codePage then
      let gone : PageFault := ⟨id, addr / 2 ^ 16, .noMap, 0, false⟩
      if s.pages.contains gone then do
        set { s with pages := s.pages.erase gone }
        pure (.failed code addr)
      else do
        let asked (p : PageFault) : Bool := decide (p.ctx = id) && decide (p.va = addr) && decide (p.who = who)
        let p : PageFault := ⟨id, addr, who, die, false⟩
        if !s.pages.any asked then set { s with pages := s.pages ++ [p] }
        pure .later
    else if code = codeRes then do
      set (s.wake ⟨.dram, 0, id, 0⟩)
      pure .later
    else pure (.failed code addr)

/-- A device operation that no one instruction waits for. -/
def deviceOn {α : Type} (die id : Nat) (op : Op α) : Op (Dev α) := deviceFor .device die id op

/-- A device operation that the prefix unit of the hub makes for the KVA in a slot (R282). -/
def deviceOf {α : Type} (slot : SlotId) (id : Nat) (op : Op α) : Op (Dev α) := deviceFor (.slot slot) 0 id op

/-- A device operation of the hub: the front end, the prefix unit, a notify, a fault record (DESIGN CHOICE log 59). -/
def device {α : Type} (id : Nat) (op : Op α) : Op (Dev α) := deviceOn 0 id op

/-- The die on which a logical core of a context runs. -/
def State.dieOfCore (s : State) (id l : Nat) : Nat := coreDie (s.hostOf id l)

/-! ## Rings of a context (R146, R320, R321) -/

/-- FLT after a record was posted or lost (R321). -/
def fltPosted (f : Word) (code : Nat) (lost : Bool) : Word :=
  if lost then
    if f.extractLsb' 48 16 = 0xFFFF then f else f + (1#64 <<< 48)
  else
    let n := (f.extractLsb' 32 16) + 1
    (f &&& 0xFFFF0000FFFF00FF) ||| (n.setWidth 64 <<< 32) ||| (BitVec.ofNat 64 code &&& 0xFF) <<< 8

/-- Base and lcap of the ring that an entry goes to. -/
def RingEntry.ring (r : RingEntry) (c : Ctx) : Nat × Nat :=
  if r.trace then (c.traceRing, c.traceLcap) else (c.faultRing, c.faultLcap)

/-- Appends an entry to its ring: false when the ring is full. A poisoned header tells no place (DEDUCED log 22). -/
def ringStep (r : RingEntry) (c : Ctx) : Op Bool := do
  let w : Who := .core r.ctx r.lcore
  let (base, lcap) := r.ring c
  let (hdr, met) ← readRange w base 16
  if met then raiseAt codePois base
  let put := bytesToNat (hdr.take 8)
  let take := bytesToNat (hdr.drop 8)
  if lcap = 0 ∨ (put + 2 ^ 64 - take) % 2 ^ 64 = 2 ^ lcap then pure false
  else
    writeRange w (base + 64 + r.bytes.length * (put % 2 ^ lcap)) r.bytes
    writeRange w base (natToBytes 8 ((put + 1) % 2 ^ 64))
    pure true

/-- An entry posted or lost, as FLT and the count of lost trace entries say (R146, R321). -/
def State.posted (s : State) (r : RingEntry) (lost : Bool) : State :=
  s.modCtx r.ctx fun c =>
    if r.trace then (if lost then { c with traceLost := c.traceLost + 1 } else c)
    else { c with flt := fltPosted c.flt r.code lost }

/-- Whether two entries go to one ring. -/
def RingEntry.with (r q : RingEntry) : Bool := decide (r.ctx = q.ctx) && decide (r.trace = q.trace)

/-- Appends an entry to its ring (R146, R320): a full ring drops and counts it. While firmware resolves a page of the ring, or the DRAM
that holds it wakes (R316, R332, R340), the entry is held, and those that come after it behind it. A ring that cannot be reached at all
loses the entry (DEDUCED log 22). -/
def State.post (s : State) (r : RingEntry) : State :=
  match s.ctx? r.ctx with
  | none => s
  | some c =>
    let held (s : State) : State := { s with heldEntries := s.heldEntries ++ [r] }
    if s.heldEntries.any r.with then held s
    else match device r.ctx (ringStep r c) s with
      | .ok (.done true, s') => s'.posted r false
      | .ok (.done false, _) => s.posted r true
      | .ok (.later, s') => held s'
      | .ok (.failed code _, s') => (if code = codePois then s'.countPoison r.ctx r.lcore else s').posted r true
      | .error _ => s

/-- The held entries, offered to their rings again in their order. -/
def State.postHeld (s : State) : State := s.heldEntries.foldl State.post { s with heldEntries := [] }

/-- Posts a fault record to a context's fault queue (R320). -/
def State.postFault (s : State) (id l slot source code : Nat) (w1 w2 w3 w4 : Nat) : State :=
  let word0 := id * 2 ^ 52 + slot % 8 * 2 ^ 21 + l * 2 ^ 12 + source * 2 ^ 8 + code
  s.post ⟨id, l, false, code, natToBytes 8 word0 ++ natToBytes 8 w1 ++ natToBytes 8 w2 ++ natToBytes 8 w3 ++ natToBytes 8 w4 ++
    List.replicate 24 0⟩

/-! ## The stash trace ring (R146) -/

/-- Whether a feature is offered and accepted (R9, R359). -/
def State.feature (s : State) (n : Nat) : Bool := bitOf (Config.featOffered &&& s.featAcc[0]).toNat n

/-- Appends a trace entry for the store number seq at a stash port, the first being number 0, when it came through the remote window of
another core and the ring is enabled (R146). The ring lies at a virtual address of the storing core's context (DESIGN CHOICE log 55). -/
def State.tracePort (s : State) (id l slot owner off seq : Nat) (remote : Bool) : State :=
  match s.ctx? id with
  | none => s
  | some c =>
    if remote && c.traceOn && s.feature 3 && l != owner then
      s.post ⟨id, l, true, 0, natToBytes 8 (id * 2 ^ 52 + l * 2 ^ 43 + slot % 8 * 2 ^ 40 + off) ++ natToBytes 8 seq⟩
    else s

/-- Where a store of a context's slot arrives at a stash port: the owner and the offset of the first byte that does. -/
def portOf (w : Who) (ls : List (Loc × Nat)) : Option (Nat × Nat) :=
  match w with
  | .core id _ => ls.findSome? fun p => match p.1 with
    | .stash key => some (key / 0x20000 - 512 * id, key % 0x20000)
    | .mem .. => none
  | .phys => none

/-- A plain store of the running task (R158, R142, R146). -/
def storeBytes (va : Nat) (bs : List Byte) : Op Unit := do
  let s ← get
  let w := s.who
  let ls ← checkRange w .store va bs.length
  modify fun t =>
    let t := t.storeAt w ls bs
    match portOf w ls with
    | some (owner, off) =>
      t.tracePort s.act.ctx s.act.lcore s.cur.idx owner off (s.lcore s.act.ctx owner).portSeq (decide (va < localBase))
    | none => t

/-! ## Saving a task (R317, R319) -/

/-- Code of a source in a frame (R319). -/
def Source.code : Source → Nat
  | .ready => 0 | .bag => 1 | .chan k => k + 1

/-- The source of a frame's code. -/
def Source.ofCode (n : Nat) : Source := if n = 0 then .ready else if n = 1 then .bag else .chan (n - 1)

/-- The bytes of a frame (R319). -/
def frameBytes (t : Task) (vw code slot : Nat) : List Byte :=
  natToBytes 8 t.pc.toNat ++ natToBytes 8 t.frm.toNat ++ natToBytes 8 t.record ++
  natToBytes 8 (t.source.code + t.level * 8 + vw * 2 ^ 16 + code * 2 ^ 32 + slot * 2 ^ 40) ++ List.replicate 32 0 ++
  (t.x.toList.drop 1).flatMap (fun w => natToBytes 8 w.toNat) ++ List.replicate 8 0 ++
  (natToBytes (vw / 64) (2 ^ (vw / 8) - 1) ++ (t.p.toList.drop 1).flatMap (fun w => natToBytes (vw / 64) w.toNat)) ++
  t.v.toList.flatMap (fun w => natToBytes (vw / 8) w.toNat)

/-- Length of a frame (R319). -/
def frameLength (vw : Nat) : Nat := 320 + vw / 8 + 4 * vw

/-- The place of a new frame: the lowest 8 KiB place from the start of the task arena that no frame and no spilled entries hold
(DESIGN CHOICE log 7). -/
def Ctx.freePlace (c : Ctx) : Nat :=
  let used := c.frames.map Frame.addr ++ c.spill
  c.arenaBase + 8192 * (((List.range (used.length + 1)).find? fun k => !(used.contains (c.arenaBase + 8192 * k))).getD used.length)

/-- Whether a place lies in the task arena. -/
def Ctx.inArena (c : Ctx) (addr : Nat) : Bool := decide (addr + 8192 ≤ c.arenaBase + 2 ^ 16 * c.arenaPages)

/-- Notes a transition of a task's record as under way (R379). -/
def State.transition (s : State) (t : Task) (state : Nat) : State :=
  if t.record = 0 then s
  else { s with trans := s.trans ++ [⟨t.ctx, t.lcore, t.record, state⟩] }

/-- The moving slot left free. -/
def State.freeSlot (s : State) : State := { s with act := Task.blank, active := false }

/-! ## What stands on chip, and what is spilled to the task arena (R43, R44, R55, R257) -/

/-- Whether a frame is of a task that a transparent fault holds or has re-queued (R344 step 2). -/
def Frame.transparent (fr : Frame) : Bool :=
  decide (fr.status = .page) || decide (fr.status = .res) || decide (fr.status = .resolved)
    || (decide (fr.status = .queued) && (decide (fr.code = codePage) || decide (fr.code = codeRes)))

/-- Whether an entry may be dispatched on a core of a width (R43, R46, R52, R319, R344). -/
def dispatchable (c : Ctx) (k : LCore) (vw : Nat) (e : QEntry) : Bool :=
  match e.body with
  | .msg m => !c.migrating && !(decide (m.chan = 1) && k.ch1Closed)
  | .entry _ => !c.migrating
  | .saved a =>
    match c.frames.find? fun fr => decide (fr.addr = a) with
    | none => false
    | some fr => fr.placed && decide (fr.vw = vw) && (!c.migrating || fr.transparent)

/-- The on-chip queue that an entry stands in, with its size: the core's ready queue, or ch0 or ch6 (R43, R44); none for the refusable
channels, whose messages are never more than their entries. A re-queued task, an entry of its own source (R53), stands in the ready
queue whatever that source is (DESIGN CHOICE log 7). -/
def QEntry.chip (e : QEntry) : Option (Nat × Nat) :=
  match e.body with
  | .msg m => if m.chan = 0 ∨ m.chan = 6 then some (1 + m.chan, Config.channelDepth) else none
  | .entry _ | .saved _ => some (0, 64)

/-- Whether an entry is among those that have room on chip: of the entries of its queue that a core can dispatch, fewer came before
it than the queue holds; the others are spilled (R43, R44). -/
def onChip (all : List QEntry) (e : QEntry) : Bool :=
  match e.chip with
  | none => true
  | some (q, n) =>
    decide ((all.filter fun d => decide (d.chip = some (q, n)) && decide (d.seq < e.seq)).length < n)

/-- The logical cores of resident contexts that a core hosts, each with its context (R30). -/
def State.hosted (s : State) (core : PCore) : List (Nat × Ctx × Nat × LCore) :=
  s.ctxs.flatMap fun p =>
    if p.2.resident && !p.2.dead then
      (p.2.cores.filter fun q => decide (p.2.host q.1 = core)).map fun q => (p.1, p.2, q.1, q.2)
    else []

/-- The entries that a core can dispatch, which contend for room on its chip (R43). -/
def State.contenders (s : State) (core : PCore) : List QEntry :=
  (s.hosted core).flatMap fun h => h.2.2.2.queue.filter (dispatchable h.2.1 h.2.2.2 (coreVw core))

/-- A cluster's bag. -/
def Ctx.bag (c : Ctx) (cl : Nat) : Bag := (assocGet c.bags cl).getD ⟨[], []⟩

/-- Pairs in the bags of resident contexts at the physical cluster of a logical cluster, which share its entries (R257). -/
def State.bagged (s : State) (c : Ctx) (cl : Nat) : Nat :=
  let here (d : Ctx) (p : Nat × Bag) : Bool := decide (d.host (Config.coreOf p.1 0) = c.host (Config.coreOf cl 0))
  (s.ctxs.map fun q =>
    if q.2.resident && !q.2.dead then
      ((q.2.bags.filter (here q.2)).map fun p => p.2.templates.length + p.2.tasks.length).sum
    else 0).sum

/-- Entries of a context in its task arena: those that have no room on chip, of a context that is not resident all of them
(R43, R44, R55, R257, R323). -/
def State.spilledOf (s : State) (c : Ctx) : Nat :=
  let core (p : Nat × LCore) : Nat :=
    let all := s.contenders (c.host p.1)
    (p.2.queue.filter fun e => !(c.resident && onChip all e)).length + (p.2.work.length - (if c.resident then 128 else 0))
  let bag (p : Nat × Bag) : Nat :=
    let n := p.2.templates.length + p.2.tasks.length
    if c.resident then Nat.min n (s.bagged c p.1 - 256) else n
  (c.cores.map core).sum + (c.bags.map bag).sum

/-- Whether an address of a context is mapped (R312). -/
def State.reaches (s : State) (id va : Nat) : Bool :=
  match s.ctx? id with
  | some c => c.inHeap va || (walk s.mem c.ptroot va).isSome
  | none => true

/-- One more place of the task arena taken for spilled entries; an arena without room, or with no page there, raises PAGE to the firmware
core of a die, once (R43). -/
def State.spillPlace (s : State) (id die : Nat) : State :=
  match s.ctx? id with
  | none => s
  | some c =>
    let addr := c.freePlace
    if c.inArena addr && s.reaches id addr then s.setCtx id { c with spill := c.spill ++ [addr] }
    else if s.pages.any fun p => decide (p.ctx = id) && (match p.who with
        | .spill _ => true
        | _ => false) then s
    else { s with pages := s.pages ++ [⟨id, addr, .spill addr, die, false⟩] }

/-- The spilled entries of a context given their places, 64 entries to each (R43, DESIGN CHOICE log 7). Enqueueing itself never fails and
never waits. -/
def State.spillRoom (s : State) (id die : Nat) : State :=
  match s.ctx? id with
  | none => s
  | some c => (List.range ((s.spilledOf c + 63) / 64 - c.spill.length)).foldl (fun s _ => s.spillPlace id die) s

/-- Adds an entry at the tail of a logical core's queue (R43). -/
def State.enqueue (s : State) (id l : Nat) (e : QEntry) : State :=
  ({ s with ticks := s.ticks + 1 }.modCore id l fun k => { k with queue := k.queue ++ [{ e with seq := s.ticks }] }).spillRoom id
    (s.dieOfCore id l)

/-- The package with a frame changed. -/
def State.modFrame (s : State) (id addr : Nat) (f : Frame → Frame) : State :=
  s.modCtx id fun c => { c with frames := c.frames.map fun fr => if fr.addr = addr then f fr else fr }

/-- Writes the bytes of a frame to the task arena (R319). An arena without room, or with no page there, raises PAGE, and the
task is not dispatched until firmware has answered (R43); a DRAM in SREF raises RES. -/
def State.placeFrame (s : State) (id addr die : Nat) : State :=
  match s.ctx? id with
  | none => s
  | some c =>
    match c.frames.find? fun fr => fr.addr = addr with
    | none => s
    | some fr =>
      let ask (va : Nat) : PageFault := ⟨id, va, .arena addr, die, false⟩
      if !c.inArena addr then { s with pages := s.pages ++ [ask addr] }
      else
        match writeRange (.core id fr.task.lcore) addr (frameBytes fr.task fr.vw fr.code fr.task.savedSlot) s with
        | .ok (_, s') => s'.modFrame id addr fun fr => { fr with placed := true }
        | .error (.fault code va _ _) =>
          if code = codePage then { s with pages := s.pages ++ [ask va] }
          else if code = codeRes then State.wake { s with pendRes := s.pendRes ++ [ask va] } ⟨.dram, 0, id, 0⟩
          else s.modFrame id addr fun fr => { fr with placed := true }
        | .error .stall => s

/-- Saves the running task to a frame, frees its slot and starts the SAVED transition (R317): the package and the frame's
address. The pages resolved for its instruction stay with it while it is to be executed again (R318). -/
def State.save (s : State) (status : FrameStatus) (code len : Nat) (resume : Word) : State × Nat :=
  match s.ctx? s.act.ctx with
  | none => (s.freeSlot, 0)
  | some c =>
    let addr := c.freePlace
    let again : Bool := decide (resume = s.act.pc) && (decide (code = 0) || decide (code = codePage))
    let t := { s.act with
      pc := resume, retired := 0, savedSlot := s.cur.idx, pinned := if again then s.act.pinned else [] }
    let s1 := s.setCtx t.ctx { c with frames := c.frames ++ [⟨addr, t, s.vw, code, status, len, false⟩] }
    (((s1.placeFrame t.ctx addr (coreDie s.cur.core)).transition t 6).freeSlot, addr)

/-- Re-queues a saved task at the tail of its level as an entry of its own source, on its own logical core (R53, R317). Where LVL
has changed since its dispatch, a task of a channel or of G follows it, and one of source R keeps the level that it was
dispatched at (DESIGN CHOICE log 56). A frame that the arena had no room for asks for it again (R43). -/
def State.requeue (s : State) (id addr : Nat) : State :=
  match s.ctx? id with
  | none => s
  | some c =>
    match c.frames.find? fun fr => fr.addr = addr with
    | none => s
    | some fr =>
      let s' := (s.modFrame id addr fun fr => { fr with status := .queued }).enqueue id fr.task.lcore
        ⟨fr.task.source, fr.task.level, .saved addr, 0⟩
      let asked (p : PageFault) : Bool := decide (p.ctx = id) && decide (p.who = .arena addr)
      if fr.placed || s.pages.any asked || s.pendRes.any asked then s'
      else s'.placeFrame id addr (coreDie (s.hostOf id fr.task.lcore))

/-- Slices the running task: saved and re-queued (R53, R183). -/
def State.slice (s : State) (resume : Word) : State :=
  let t := s.act
  let (s', addr) := s.save .queued 0 0 resume
  s'.requeue t.ctx addr

/-! ## Taking a fault, and returning -/

/-- A fault of a firmware task: EPC, ECAUSE and EADDR take pc, code and address; the entry address is not stated, and is a
free value (R326, DEDUCED log 11). -/
def State.firmwareFault (s : State) (code addr : Nat) : State :=
  let r := (assocGet s.fw s.cur).getD FwRegs.init
  { s with
    fw := assocPut s.fw s.cur { r with epc := s.act.pc, ecause := BitVec.ofNat 64 code, eaddr := BitVec.ofNat 64 addr }
    free := s.free + 1
    act := { s.act with pc := Config.freeWord s.free &&& 0xFFFFFFFFFFFE, priv := true } }

/-- Taking a fault (R316, R317, R320): poison is accounted; the task is saved; PAGE and RES go to firmware, every other
code posts a fault record and leaves the task SAVED until its fate is named. -/
def State.takeFault (s : State) (len code addr : Nat) (pois : Bool) (num : Nat) : State :=
  let s := if pois then s.countPoison s.act.ctx s.act.lcore else s
  if s.act.priv then s.firmwareFault code addr
  else
    let t := s.act
    let status : FrameStatus := if code = codePage then .page else if code = codeRes then .res else .host
    let (s', fr) := s.save status code len t.pc
    let request : PageFault := ⟨t.ctx, addr, .frame fr, coreDie s.cur.core, false⟩
    if code = codePage then { s' with pages := s'.pages ++ [request] }
    else if code = codeRes then
      State.wake { s' with pendRes := s'.pendRes ++ [request] } ⟨.dram, 0, t.ctx, t.lcore⟩
    else s'.postFault t.ctx t.lcore s.cur.idx 0 code t.pc.toNat addr fr (if code = codeTrap then num else 0)

/-- The return from a fault entry (R330): pc from EPC, mode from ECAUSE. -/
def State.faultReturn (s : State) : State :=
  let r := (assocGet s.fw s.cur).getD FwRegs.init
  { s with act := { s.act with pc := r.epc, priv := Config.eretMode r.ecause } }

/-! ## How a meaning runs an operation -/

/-- Counts an instruction as retired (R53); firmware need keep no page for it any longer (R318). -/
def State.retire (s : State) : State := { s with act := { s.act with retired := s.act.retired + 1, pinned := [] } }

/-- The package past an instruction of len bytes. -/
def State.advance (s : State) (len : Nat) : State :=
  { s with act := { s.act with pc := s.act.pc + BitVec.ofNat 64 len, retired := s.act.retired + 1, pinned := [] } }

/-- What a trap of an instruction of len bytes makes of the package. -/
def State.trapped (s : State) (len : Nat) : Trap → State
  | .fault code addr pois num => s.takeFault len code addr pois num
  | .stall => s

/-- Runs an operation that leaves the slot or sets the pc itself. -/
def perform (len : Nat) (op : Op Unit) (s : State) : Host.Outcome State Fault Refusal :=
  match op s with
  | .ok (_, s') => .next s'
  | .error t => .next (s.trapped len t)

/-- Runs an operation and moves past its 32-bit word. -/
def finish (op : Op Unit) (s : State) : Host.Outcome State Fault Refusal :=
  perform 4 (do op; modify (·.advance 4)) s

/-- Runs an operation and moves past its 16-bit word. -/
def finishC (op : Op Unit) (s : State) : Host.Outcome State Fault Refusal :=
  perform 2 (do op; modify (·.advance 2)) s

/-- Runs a state change and moves past a 32-bit word: for instructions that cannot fault. -/
def update (f : State → State) (s : State) : Host.Outcome State Fault Refusal := .next ((f s).advance 4)

/-- A privileged instruction in user mode raises PRIV (R64). -/
def privileged : Op Unit := do
  if !(← get).act.priv then raise codePriv

/-- Runs an event of the device: nothing happens when it cannot be made. -/
def event (op : Op Unit) (s : State) : Host.Outcome State Fault Refusal :=
  match op s with
  | .ok (_, s') => .next s'
  | .error _ => .next s

/-! ## Fetching (R62, R63) -/

/-- One parcel of the instruction stream; poison always raises POIS (R145). -/
def fetchParcel (va : Nat) : Op Nat := do
  let s ← get
  let ls ← checkRange s.who .fetch va 2
  let s ← get
  if s.anyPoison ls then throw (.fault codePois va true 0)
  pure (bytesToNat (s.readLocs ls))

/-- The instruction word at the program counter and its length in bytes (R62). -/
def fetchWord : Op (Nat × Nat) := do
  let pc := (← get).act.pc
  let lo ← fetchParcel pc.toNat
  if lengthOf lo = 16 then pure (2, lo)
  else
    let hi ← fetchParcel (pc + 2).toNat
    pure (4, lo + 2 ^ 16 * hi)

/-! ## Slots -/

/-- Makes a slot the moving one: its task stands in act, the others in parked (DESIGN CHOICE log 2). -/
def State.switch (s : State) (id : SlotId) : State :=
  if s.cur = id then s
  else
    let parked := if s.active then assocPut s.parked s.cur s.act else s.parked
    match assocGet parked id with
    | some t => { s with cur := id, act := t, active := true, parked := assocDel parked id }
    | none => { s with cur := id, act := Task.blank, active := false, parked := parked }

/-- The task in a slot. -/
def State.taskAt (s : State) (id : SlotId) : Option Task :=
  if s.cur = id then (if s.active then some s.act else none) else assocGet s.parked id

/-- Every slot that holds a task, with its task. -/
def State.running (s : State) : List (SlotId × Task) := (if s.active then [(s.cur, s.act)] else []) ++ s.parked

/-- Stack top of a slot (R36). -/
def stackTop (slot : Nat) : Word := BitVec.ofNat 64 (0xFFFF00018000 - 0x1000 * slot)

/-- The registers at dispatch (R36): x29 the frame, x31 the stack top, every other register zero. -/
def Task.fresh (id l slot : Nat) (pc : Nat) (frame : Word) : Task :=
  { Task.blank with
    x := (Task.blank.x.set 29 frame).set 31 (stackTop slot)
    pc := BitVec.ofNat 64 pc, ctx := id, lcore := l }

/-- A context as creation leaves it, before its descriptor's fields are filled in (R47, R51, R310, R321). -/
def Ctx.blank : Ctx :=
  { desc := 0, pk := false, keySlot := 0, ptroot := 0, hbase := 0x10, hlim := 0, hoff := 0, capKey := 0, epoch := 0,
    ebud := 0, arenaBase := 0, arenaPages := 0, nodeBase := 0, nodePages := 0, bolt := 0, faultRing := 0, faultLcap := 0,
    traceRing := 0, traceOn := false, traceLcap := 0, traceLost := 0, refusal := 0, kv := ⟨0, 0, 0, 0, 0⟩, treeBase := 0,
    mbox := 0x0F33333F, lvl := 0xC002C6DB, flt := 0, resident := true, explicit := false, onBi := false, dead := false,
    lastDispatch := 0, fold := [], cores := [], tensors := [], prods := [], bars := [], waits := [], frames := [], spill := [],
    launchQ := [], launches := [], nextLaunch := 0, chainRecords := [], trig := [], chunkNext := 0, chunks := [],
    netFree := [], released := [], links := [], bags := [], kvRc := [], kvPc := [], kvFresh := 0, kvTail := [],
    tree := [], treeStamp := 0, ring := [], floors := [], dropped := [], posts := [], stitches := [], arrivals := [],
    kept := [], migrating := false, reports := [], foldNext := [], breakArmed := false, moveWindows := [] }

end Sys2Proof.Machine
end

