-- ==== Sys2Proof/Machine/Operands.lean ====
section
/-! DEFINITION. The operand forms: immediates, effective addresses, vector elements, governing predicates and the writing of
vector and predicate destinations (R67, R157, R198, R199). -/

namespace Sys2Proof.Machine

/-- A 15-bit immediate, sign-extended (R73). -/
def imm15 (i : BitVec 15) : Word := i.signExtend 64

/-- A 20-bit immediate shifted left by 15 (R152). -/
def imm20 (i : BitVec 20) : Word := i.signExtend 64 <<< 15

/-- A branch offset in halfwords, as bytes (R67). -/
def off15 (i : BitVec 15) : Word := i.signExtend 64 <<< 1

/-- A jump offset in halfwords, as bytes (R67). -/
def off25 (i : BitVec 25) : Word := i.signExtend 64 <<< 1

/-- The effective address of format M (R157). -/
def State.eaM (s : State) (a : Reg) (off : BitVec 12) : Nat := (s.x a + off.signExtend 64).toNat

/-- The effective address of LDX and STX (R157). -/
def State.eaX (s : State) (a b : Reg) : Nat := (s.x a + s.x b).toNat

/-- Bytes a load size moves (R75). -/
def loadBytesOf : LoadSize → Nat
  | .s8 | .z8 => 1 | .s16 | .z16 => 2 | .s32 | .z32 => 4 | .b64 => 8

/-- The register value a load size makes of the bytes read (R158). -/
def loadValue (z : LoadSize) (v : Nat) : Word :=
  match z with
  | .s8 => (BitVec.ofNat 8 v).signExtend 64
  | .s16 => (BitVec.ofNat 16 v).signExtend 64
  | .s32 => (BitVec.ofNat 32 v).signExtend 64
  | .b64 | .z8 | .z16 | .z32 => BitVec.ofNat 64 v

/-- Bytes a store size moves (R75). -/
def storeBytesOf : StoreSize → Nat
  | .b8 => 1 | .b16 => 2 | .b32 => 4 | .b64 => 8

/-! ## Elements -/

/-- Width of an element type in bits (R69). -/
def elemWidth : ElemType → Nat
  | .i8 => 8 | .i16 => 16 | .i32 => 32 | .i64 => 64 | .bf16 => 16 | .f16 => 16 | .f32 => 32 | .f64 => 64

/-- The format of a floating element type (R69). -/
def elemFmt : ElemType → Fmt
  | .bf16 => .bf16 | .f16 => .f16 | .f32 => .f32 | .f64 => .f64 | .i8 | .i16 | .i32 | .i64 => .f32

/-- The element type of a t2 field (R69). -/
def floatElem : FloatType → ElemType
  | .bf16 => .bf16 | .f16 => .f16 | .f32 => .f32 | .f64 => .f64

/-- Element e of w bits of a register (R198). -/
def elemAt (reg w e : Nat) : Nat := reg / 2 ^ (w * e) % 2 ^ w

/-- A pattern of w bits read signed (R92). -/
def signedAt (w v : Nat) : Int := if v % 2 ^ w < 2 ^ (w - 1) then (v % 2 ^ w : Nat) else ((v % 2 ^ w : Nat) : Int) - 2 ^ w

/-- A pattern of w bits of an integer (R92). -/
def wrapAt (w : Nat) (i : Int) : Nat := (i % (2 ^ w : Int)).toNat

/-- Whether element e of w bits is active under a predicate (R198). -/
def activeAt (pg w e : Nat) : Bool := bitOf pg (w / 8 * e)

/-- A register made of elements of w bits, element 0 lowest. -/
def packElems (w : Nat) : List Nat → Nat
  | [] => 0
  | x :: xs => x % 2 ^ w + 2 ^ w * packElems w xs

/-- Number of elements of w bits in the core's vector register (R198). -/
def State.elems (s : State) (w : Nat) : Nat := s.vw / w

/-- A vector destination: active elements take the result, inactive ones keep their value (R199). -/
def mergeElems (old pg w n : Nat) (f : Nat → Nat) : Nat :=
  packElems w ((List.range n).map fun e => if activeAt pg w e then f e else elemAt old w e)

/-- A predicate destination: each active element's result in its lowest lane, zero elsewhere (R199). -/
def packPred (pg w n : Nat) (f : Nat → Bool) : Nat :=
  packElems (w / 8) ((List.range n).map fun e => if activeAt pg w e && f e then 1 else 0)

end Sys2Proof.Machine
end

