-- ==== Sys2Proof/Machine/Flags.lean ====
section
/-! DEFINITION. FRM: the rounding mode and the sticky flags of the running task (R105). The vector unit alone sets flags,
for active elements; integer instructions set none (R147, R201). -/

namespace Sys2Proof.Machine

/-- FRM with the flags of a mask set (R105). -/
def frmRaise (frm : Word) (flags : FFlags) : Word := frm ||| (BitVec.ofNat 64 (flags % 32) <<< 8)

/-- The rounding mode in force (R105). -/
def State.mode (s : State) : RMode := RMode.ofCode (s.act.frm.toNat % 8)

/-- Sets sticky flags. -/
def State.raiseFlags (s : State) (flags : FFlags) : State :=
  { s with act := { s.act with frm := frmRaise s.act.frm flags } }

/-- FRM after an MTS of v: ones clear the flags they stand for, and a mode of 5 to 7 is not stored (R6, R105). -/
def frmWrite (frm v : Word) : Word :=
  let flags := (frm &&& 0x1F00) &&& ~~~v
  let mode := if v.toNat % 8 ≤ 4 then v &&& 7 else frm &&& 7
  flags ||| mode

/-- FRM loaded from the word of a frame: its reserved bits read zero, and a mode that a write would not store leaves the one before
(R6, R105, DESIGN CHOICE log 31). -/
def frmLoad (frm w : Word) : Word := w &&& 0x1F00 ||| (if w.toNat % 8 ≤ 4 then w &&& 7 else frm &&& 7)

/-- The flags of the active elements of an operation (R105). -/
def activeFlags (pg w n : Nat) (f : Nat → FFlags) : FFlags :=
  (List.range n).foldl (fun acc e => if activeAt pg w e then acc ||| f e else acc) 0

/-- The generator of a logical core: its own state, or the seed of job seed 0 (R115). -/
def LCore.genState (k : LCore) (l : Nat) : Gen := (k.gen).getD (Gen.seed 0 l)

/-- Draws n steps of the running logical core's generator (R116). -/
def drawSteps (n : Nat) : Op (List (BitVec 128)) := do
  let s ← get
  let g := (s.lcore s.act.ctx s.act.lcore).genState s.act.lcore
  modMyCore fun k => { k with gen := some (g.advance n) }
  pure (g.draw n)

/-- The random bits of an operation over n positions under a rounding mode: a run of steps for SR, nothing else (R116). -/
def srRun (mode : RMode) (n : Nat) : Op (List (BitVec 128)) :=
  if mode = .sr then drawSteps (srSteps n) else pure []

end Sys2Proof.Machine
end

