-- ==== Sys2Proof/Machine/Atomics.lean ====
section
/-! DEFINITION. Atomics and reductions (R112, R135, R136, R145, R167 to R171). Each is one step at its location. The aq bit
orders nothing further in the model's one order (DESIGN CHOICE log 3); the rl bit drains the core's partials. -/

namespace Sys2Proof.Machine

/-- Width in bytes of an atomic (R77). -/
def amoBytes (w : Bool) : Nat := if w then 8 else 4

/-! ## Partials (R112, R136) -/

/-- The smaller or greater of two patterns read signed (R168). -/
def signedPick (max : Bool) (w x y : Nat) : Nat :=
  if decide (signedAt w x < signedAt w y) = max then y else x

/-- An RNE sum of two patterns, canonical NaN, no flags (R105, R168). -/
def floatSum (w : Bool) (x y : Nat) : Nat :=
  let f : Fmt := if w then .f64 else .f32
  ((addF .rne (decodeF f x) (decodeF f y)).round f .rne 0).bits

/-- The operations of RED (R136). -/
inductive RedFn where
  | add | fadd | max
  deriving DecidableEq, Repr

/-- The number of an operation in a gather. -/
def RedFn.num : RedFn → Nat
  | .add => 0 | .fadd => 1 | .max => 2

/-- What an operation makes of two patterns of n bytes: a wrapping sum, an RNE sum, a signed maximum (R136, R170). -/
def RedFn.combine (op : RedFn) (n x y : Nat) : Nat :=
  (match op with
   | .add => x + y
   | .fadd => floatSum (decide (n = 8)) x y
   | .max => signedPick true (8 * n) x y) % 2 ^ (8 * n)

/-- The element at an address once every partial is applied to a value, in the order in which the partials began (R112, R136,
DESIGN CHOICE log 3). -/
def gatheredValue (op : RedFn) (n : Nat) (parts : List Partial) (pa v : Nat) : Nat :=
  parts.foldl (fun v p => match assocGet p.vals pa with
    | some y => op.combine n v y
    | none => v) v

/-- Partials after a RED of a core: its partial takes the value in, or begins with it (R136). -/
def addPartial (op : RedFn) (n : Nat) (new : Partial) (pa v : Nat) : List Partial → List Partial
  | [] => [{ new with vals := [(pa, v)] }]
  | p :: rest =>
    if p.core = new.core then
      { p with vals := assocPut p.vals pa (match assocGet p.vals pa with
          | some y => op.combine n y v
          | none => v) } :: rest
    else p :: addPartial op n new pa v rest

/-- The operation of a number. -/
def RedFn.ofNum : Nat → RedFn
  | 0 => .add | 1 => .fadd | _ => .max

/-- What a gather makes of its element at an address. -/
def Gather.value (g : Gather) (pa v : Nat) : Nat := gatheredValue (RedFn.ofNum g.op) g.n g.parts pa v

/-- Whether memory still holds what the partials of a gather make: no other write has come since. -/
def Gather.current (g : Gather) (s : State) : Bool :=
  g.base.all fun b => decide (bytesToNat (s.mem.readPlain g.key b.1 g.n) = g.value b.1 b.2)

/-- The gather that a RED joins or begins. -/
def State.gatherFor (s : State) (op : RedFn) (n line kind : Nat) (key : Option (BitVec 256)) : Gather :=
  match s.gathers.find? fun g => decide (g.line = line) && decide (g.op = op.num) && decide (g.n = n) && g.current s with
  | some g => g
  | none => ⟨line, kind, key, op.num, n, [], []⟩

/-- A RED at a location that is neither poisoned nor discarded (R136): on an RC or UN page it goes into the partial of its core,
elsewhere it is applied directly. -/
def State.reduce (s : State) (op : RedFn) (n v : Nat) (loc : Loc) : State :=
  let old := bytesToNat (s.readLoc loc n)
  match loc with
  | .stash _ => (s.writeLoc s.who loc (natToBytes n (op.combine n old v))).countPort s.who [(loc, n)]
  | .mem pa kind _ _ _ key =>
    if kind = 0 then s.writeLoc s.who loc (natToBytes n (op.combine n old v))
    else
      let g := s.gatherFor op n (pa / 64) kind key
      let base := if (assocGet g.base pa).isSome then g.base else assocPut g.base pa old
      let parts := addPartial op n ⟨s.cur.core, s.act.ctx, s.act.lcore, []⟩ pa v g.parts
      let s' := s.writeLoc s.who loc (natToBytes n (gatheredValue op n parts pa ((assocGet base pa).getD old)))
      { s' with gathers := { g with base := base, parts := parts } :: s'.gathers.filter fun h => decide (h.line ≠ pa / 64) }

/-! ## Releases and FENCE (R134, R136, R172) -/

/-- A gather after the partial of a core has met memory: it is part of the values before the others. -/
def Gather.drain (g : Gather) (core : PCore) : Gather :=
  let mine := g.parts.filter fun p => decide (p.core = core)
  { g with
    base := g.base.map fun b => (b.1, gatheredValue (RedFn.ofNum g.op) g.n mine b.1 b.2)
    parts := g.parts.filter fun p => decide (p.core ≠ core) }

/-- The memory with what a gather makes of its elements. -/
def Gather.store (g : Gather) (m : Memory) : Memory :=
  g.base.foldl (fun m b => m.writePlain g.key b.1 (natToBytes g.n (g.value b.1 b.2))) m

/-- The partials of a core drained: each becomes a write that precedes the partials of the others. Those of UN pages wait for an SC
fence (R129, R134). -/
def State.drain (s : State) (core : PCore) (un : Bool) : State :=
  let hit (g : Gather) : Bool :=
    (un || decide (g.kind ≠ 2)) && (g.parts.any fun p => decide (p.core = core)) && g.current s
  let drained := (s.gathers.filter hit).map fun g => g.drain core
  { s with
    mem := drained.foldl (fun m g => g.store m) s.mem
    gathers := (s.gathers.map fun g => if hit g then g.drain core else g).filter fun g => !g.parts.isEmpty }

/-- The package after a release that reaches beyond the core: its partials on pages other than UN meet memory before it (R134, R136). -/
def State.released (s : State) (rl : Bool) : State := if rl then s.drain s.cur.core false else s

/-- Whether an instruction is a release that reaches beyond the core without a FENCE (R137): messages, joins, the end of a task, launches,
barrier arrivals, KVA, DQS, LQP, TRPUB, and the submission of an engine job (R140). -/
def releasesByItself : Instr → Bool
  | .send .. | .sendr .. | .spawn .. | .spawnj .. | .jdec .. | .jadd .. | .bind .. | .launch .. | .taskEnd | .endj ..
  | .endwJoin .. | .endwJob .. | .endwCb .. | .endwBar .. | .endwFeed .. | .endwRoom .. | .endwDq .. | .bara .. | .barm ..
  | .kva .. | .dqs .. | .lqp .. | .trpub .. | .mma .. | .mmag .. | .mzero .. | .mldt .. | .mstt .. | .msend .. | .cpy ..
  | .cpyg .. | .qfen .. | .mvc .. => true
  | _ => false

/-- The package as an instruction that is a release by itself finds it: what the core has in partials has met memory (R136, R137). -/
def State.readyFor (s : State) (i : Instr) : State := s.released (releasesByItself i)

/-- Whether a FENCE drains the partials of its core: one with a release whose reach goes beyond the core (R131, R172). -/
def fenceDrains (sc : Scope) (k : FenceKind) : Bool :=
  (match sc with | .slot | .core => false | .clus | .die | .pkg | .sys => true) &&
    (match k with | .acq => false | .rel | .ar | .sc => true)

/-- FENCE: partials apart, every access is made at one point in one order, so that a fence has nothing left to order (R134, R172,
DESIGN CHOICE log 3). -/
def execFence (sc : Scope) (k : FenceKind) (s : State) :=
  update (fun s => if fenceDrains sc k then s.drain s.cur.core (decide (k = .sc)) else s) s

/-! ## AMO and CAS2 (R135, R168, R169) -/

/-- Checks an atomic's address (R157): its location. -/
def atomicLoc (va n : Nat) : Op (List (Loc × Nat)) := do
  if 2 ^ 48 ≤ va then raiseAt codeProt va
  if va % n ≠ 0 then raiseAt codeAlign va
  let s ← get
  checkRange s.who .atomic va n

/-- What an atomic read delivers (R142, R145, R171): the value of a good location; none from a poisoned line or a discarded
page, where the second component is the value to deliver. The rl bit makes the atomic a release (R134). -/
def atomicRead (va n : Nat) (rl : Bool) : Op (Option (List (Loc × Nat)) × Nat) := do
  let ls ← atomicLoc va n
  modify (·.released rl)
  let s ← get
  if s.anyPoison ls then do
    meetPoison true va
    pure (none, 2 ^ (8 * n) - 1)
  else if ls.any (fun p => p.1.discarded) then do
    set (s.countDropped s.who ls)
    pure (none, 0)
  else pure (some ls, bytesToNat (s.readLocs ls))

/-- An AMO (R168): f gives the new value from the old one, none to write nothing; zero-extended for FADD. -/
def amo (d a : Reg) (rl w : Bool) (zeroExt : Bool) (f : State → Nat → Option Nat) (s : State) :
    Host.Outcome State Fault Refusal :=
  finish (do
    let n := amoBytes w
    let (ls, old) ← atomicRead (s.x a).toNat n rl
    match ls with
    | none => pure ()
    | some ls =>
      match f s old with
      | none => pure ()
      | some new => modify fun t => (t.writeLocs t.who ls (natToBytes n new)).countPort t.who ls
    wrX d (if ls.isNone then (if old = 0 then 0 else BitVec.allOnes 64)
      else if w then BitVec.ofNat 64 old
      else if zeroExt then BitVec.ofNat 64 (old % 2 ^ 32) else (BitVec.ofNat 32 old).signExtend 64)) s

/-- A two-operand AMO on patterns of the atomic's width. -/
def amoBin (d a b : Reg) (rl w : Bool) (g : Nat → Nat → Nat) (s : State) :=
  amo d a rl w false (fun s old => some (g old ((s.x b).toNat % 2 ^ (8 * amoBytes w)) % 2 ^ (8 * amoBytes w))) s

/-- AMO.ADD (R168). -/
def execAmoAdd (d a b : Reg) (_aq rl w : Bool) (s : State) := amoBin d a b rl w (· + ·) s

/-- AMO.AND (R168). -/
def execAmoAnd (d a b : Reg) (_aq rl w : Bool) (s : State) := amoBin d a b rl w (· &&& ·) s

/-- AMO.OR (R168). -/
def execAmoOr (d a b : Reg) (_aq rl w : Bool) (s : State) := amoBin d a b rl w (· ||| ·) s

/-- AMO.XOR (R168). -/
def execAmoXor (d a b : Reg) (_aq rl w : Bool) (s : State) := amoBin d a b rl w (· ^^^ ·) s

/-- AMO.MIN, signed (R168). -/
def execAmoMin (d a b : Reg) (_aq rl w : Bool) (s : State) := amoBin d a b rl w (signedPick false (8 * amoBytes w)) s

/-- AMO.MAX, signed (R168). -/
def execAmoMax (d a b : Reg) (_aq rl w : Bool) (s : State) := amoBin d a b rl w (signedPick true (8 * amoBytes w)) s

/-- AMO.SWP (R168). -/
def execAmoSwp (d a b : Reg) (_aq rl w : Bool) (s : State) := amoBin d a b rl w (fun _ y => y) s

/-- AMO.CAS: xd holds the expected value; nothing is written when it differs (R168). -/
def execAmoCas (d a b : Reg) (_aq rl w : Bool) (s : State) :=
  amo d a rl w false (fun s old =>
    let m := 2 ^ (8 * amoBytes w)
    if old = (s.x d).toNat % m then some ((s.x b).toNat % m) else none) s

/-- AMO.FADD (R168). -/
def execAmoFadd (d a b : Reg) (_aq rl w : Bool) (s : State) :=
  amo d a rl w true (fun s old => some (floatSum w old ((s.x b).toNat % 2 ^ (8 * amoBytes w)))) s

/-- CAS2 (R169). -/
def execCas2 (d a b : Reg) (_aq rl : Bool) (s : State) : Host.Outcome State Fault Refusal :=
  finish (do
    let (ls, old) ← atomicRead (s.x a).toNat 16 rl
    match ls with
    | none => pure ()
    | some ls =>
      if old = (s.x d).toNat + 2 ^ 64 * (s.x (pairOf d)).toNat then
        modify fun t =>
          (t.writeLocs t.who ls (natToBytes 8 (s.x b).toNat ++ natToBytes 8 (s.x (pairOf b)).toNat)).countPort t.who ls
    wrX d (BitVec.ofNat 64 old)
    wrX (pairOf d) (BitVec.ofNat 64 (old / 2 ^ 64))) s

/-! ## RED (R136, R170) -/

/-- The location of a RED, checked as an atomic's (R157, R171); unlike any other access it gathers nothing (R136). -/
def redLoc (va n : Nat) : Op Loc := do
  if 2 ^ 48 ≤ va then raiseAt codeProt va
  if va % n ≠ 0 then raiseAt codeAlign va
  resolve (← get).who .atomic va

/-- A RED (R136, R170, R171): on poison or a discarded page it is dropped and counted, and never raises POIS. The rl bit makes it a
release, before which the core's earlier partials meet memory. -/
def red (a b : Reg) (rl w : Bool) (op : RedFn) (s : State) : Host.Outcome State Fault Refusal :=
  finish (do
    let n := amoBytes w
    let loc ← redLoc (s.x a).toNat n
    modify (·.released rl)
    modify fun t =>
      if t.poisoned loc then t.countPoison t.act.ctx t.act.lcore
      else if loc.discarded then t.countDropped t.who [(loc, n)]
      else t.reduce op n ((s.x b).toNat % 2 ^ (8 * n)) loc) s

/-- RED.ADD (R170). -/
def execRedAdd (a b : Reg) (_aq rl w : Bool) (s : State) := red a b rl w .add s

/-- RED.FADD (R170). -/
def execRedFadd (a b : Reg) (_aq rl w : Bool) (s : State) := red a b rl w .fadd s

/-- RED.MAX, signed (R170). -/
def execRedMax (a b : Reg) (_aq rl w : Bool) (s : State) := red a b rl w .max s

end Sys2Proof.Machine
end

