-- ==== Sys2Proof/Machine/Branch.lean ====
section
/-! DEFINITION. Jumps and branches (R62, R153 to R156). -/

namespace Sys2Proof.Machine

/-- A transfer of control: the new pc, and the instruction retired. -/
def State.jumpTo (s : State) (target : Word) : State := (s.setPc target).retire

/-- A branch: to pc + off when the condition holds, else past the word. -/
def branchIf (c : State → Bool) (off : BitVec 15) (s : State) : Host.Outcome State Fault Refusal :=
  .next (if c s then s.jumpTo (s.act.pc + off15 off) else s.advance 4)

/-- J (R153). -/
def execJ (off : BitVec 25) (s : State) : Host.Outcome State Fault Refusal := .next (s.jumpTo (s.act.pc + off25 off))

/-- JAL: the link goes to x30 (R153). -/
def execJal (off : BitVec 25) (s : State) : Host.Outcome State Fault Refusal :=
  .next ((s.setX 30 (s.act.pc + 4)).jumpTo (s.act.pc + off25 off))

/-- A jump to a register target, with the link in d: an odd target raises ALIGN without any effect (R62, R153). -/
def jumpReg (d a : Reg) (imm : BitVec 15) : Op Unit := do
  let s ← get
  let target := s.x a + imm15 imm
  if target.getLsbD 0 then raiseAt codeAlign target.toNat
  set ((s.setX d (s.act.pc + 4)).jumpTo target)

/-- JALR (R153). -/
def execJalr (d a : Reg) (imm : BitVec 15) (s : State) := perform 4 (jumpReg d a imm) s

/-- JR (R153). -/
def execJr (a : Reg) (imm : BitVec 15) (s : State) := perform 4 (jumpReg 0 a imm) s

/-- BEQ (R154). -/
def execBeq (a b : Reg) (off : BitVec 15) (s : State) := branchIf (fun s => s.x a == s.x b) off s

/-- BNE (R154). -/
def execBne (a b : Reg) (off : BitVec 15) (s : State) := branchIf (fun s => s.x a != s.x b) off s

/-- BLT, signed (R154). -/
def execBlt (a b : Reg) (off : BitVec 15) (s : State) := branchIf (fun s => (s.x a).slt (s.x b)) off s

/-- BGE, signed (R154). -/
def execBge (a b : Reg) (off : BitVec 15) (s : State) := branchIf (fun s => !(s.x a).slt (s.x b)) off s

/-- BLO, unsigned (R154). -/
def execBlo (a b : Reg) (off : BitVec 15) (s : State) := branchIf (fun s => (s.x a).ult (s.x b)) off s

/-- BHS, unsigned (R154). -/
def execBhs (a b : Reg) (off : BitVec 15) (s : State) := branchIf (fun s => !(s.x a).ult (s.x b)) off s

/-- DBNZ: the decremented value is tested; in x0 it is discarded and the branch is taken (R155). -/
def execDbnz (a : Reg) (off : BitVec 15) (s : State) : Host.Outcome State Fault Refusal :=
  let v := s.x a - 1
  let s' := s.setX a v
  .next (if v ≠ 0 then s'.jumpTo (s'.act.pc + off15 off) else s'.advance 4)

/-- BPA: pb is 1 in every lane that pg makes active (R156). -/
def execBpa (g b : PReg) (off : BitVec 15) (s : State) :=
  branchIf (fun s => s.preg g &&& s.preg b == s.preg g) off s

/-- BPN: pb is 0 in every lane that pg makes active (R156). -/
def execBpn (g b : PReg) (off : BitVec 15) (s : State) :=
  branchIf (fun s => s.preg g &&& s.preg b == 0) off s

end Sys2Proof.Machine
end

