-- ==== Sys2Proof/Machine/Buffers.lean ====
section
/-! DEFINITION. Circular buffers in stash (R124, R164 to R166) and their waiting readers (R187). -/

namespace Sys2Proof.Machine

/-- A circular-buffer descriptor (R164). -/
structure CbDesc where
  lcnt : Nat
  les : Nat
  base : Nat
  put : Nat
  take : Nat
  give : Nat
  ovf : Nat
  wrec : Nat
  deriving DecidableEq, Repr

/-- The descriptor in 32 bytes read as one number. -/
def CbDesc.ofNat (v : Nat) : CbDesc :=
  { lcnt := bits v 31 28, les := bits v 27 24, base := bits v 16 0, put := bits v 127 96, take := bits v 95 64,
    give := bits v 191 160, ovf := bits v 159 144, wrec := bits v 239 192 }

/-- The limits of word 0 and the must-be-zero fields (R164). -/
def cbValid (v : Nat) : Bool :=
  let c := CbDesc.ofNat v
  decide (bits v 63 32 = 0) && decide (bits v 23 17 = 0) && decide (bits v 143 128 = 0) && decide (bits v 255 240 = 0)
    && decide (1 ≤ c.lcnt) && decide (c.lcnt ≤ 12) && decide (4 ≤ c.les) && decide (c.les ≤ 13)
    && decide (c.base % 2 ^ c.les = 0) && decide (c.base + 2 ^ (c.lcnt + c.les) ≤ Config.stashBytes)

/-- Words 1 to 3 of a descriptor. -/
def CbDesc.tail (c : CbDesc) : List Byte :=
  natToBytes 4 c.take ++ natToBytes 4 c.put ++ natToBytes 4 (c.ovf * 2 ^ 16) ++ natToBytes 4 c.give ++ natToBytes 8 c.wrec

/-- Entries filled and not claimed (R164). -/
def CbDesc.filled (c : CbDesc) : Nat := (c.put + 2 ^ 32 - c.take) % 2 ^ 32

/-- Entries the producer may fill (R164). -/
def CbDesc.room (c : CbDesc) : Nat := (2 ^ c.lcnt + 2 ^ 32 - (c.put + 2 ^ 32 - c.give) % 2 ^ 32) % 2 ^ 32

/-- The port of a descriptor (R164): its owner, its stash offset and its contents. The checks run in the order of the rule's
text (R64). A poisoned descriptor gives POIS, as the operation must act on it (DEDUCED log 26). Firmware has no stash. -/
def cbOpen (w : Who) (va : Nat) : Op (Nat × Nat × CbDesc) := do
  if 2 ^ 48 ≤ va then raiseAt codeProt va
  match w with
  | .phys => raiseAt codeProt va
  | .core id l =>
    if va < remoteBase then raiseAt codeProt va
    match stashOf l va with
    | none => raiseAt codeProt va
    | some (owner, off) =>
      let s ← get
      if (mapOf (s.lcore id owner) off).isSome then raiseAt codeProt va
      if va % 32 ≠ 0 then raiseAt codeAlign va
      if s.poisoned (.stash (stashKey id owner off)) then
        throw (.fault codePois va true 0)
      let v := bytesToNat (s.readLoc (.stash (stashKey id owner off)) 32)
      if !cbValid v then raiseAt codeProt va
      pure (owner, off, CbDesc.ofNat v)

/-- Writes the counters of a descriptor back. -/
def cbClose (id owner off : Nat) (c : CbDesc) : Op Unit :=
  modify fun s => s.writeLoc (.core id owner) (.stash (stashKey id owner off + 8)) c.tail

/-- The address of an entry in the window of the address that named the descriptor (R165). -/
def cbEntryVa (va owner : Nat) (c : CbDesc) (i : Nat) : Nat :=
  (if localBase ≤ va then localBase else remoteVa owner 0) + c.base + i * 2 ^ c.les

/-- A filled buffer hands its oldest entry to the waiting reader, in the same step (R187). -/
def cbHand (id owner off : Nat) (c : CbDesc) : Op CbDesc := do
  if c.wrec = 0 ∨ c.filled = 0 then pure c
  else
    let i := c.take % 2 ^ c.lcnt
    modify fun s => s.modCtx id fun ctx => { ctx with
      waits := ctx.waits.map fun wt =>
        match wt.kind with
        | .cb va =>
          if stashOf wt.lcore va = some (owner, off) ∧ wt.got = none then
            { wt with got := some (natToBytes 8 (cbEntryVa va owner c i), []) }
          else wt
        | _ => wt }
    pure { c with take := (c.take + 1) % 2 ^ 32, wrec := 0 }

/-- CBTAKE (R165). -/
def cbTakeOp (d : Reg) (va : Nat) : Op Unit := do
  let s ← get
  let (owner, off, c) ← slotNode (cbOpen s.who va)
  if 1 ≤ c.filled then
    cbClose s.act.ctx owner off { c with take := (c.take + 1) % 2 ^ 32 }
    wrX d (BitVec.ofNat 64 (cbEntryVa va owner c (c.take % 2 ^ c.lcnt)))
  else wrX d (BitVec.allOnes 64)

/-- CBTAKE. -/
def execCbtake (d a : Reg) (s : State) := finish (cbTakeOp d (s.x a).toNat) s

/-- A refused CBGIVE (R166). -/
def cbRefuse (id owner off : Nat) (c : CbDesc) : Op Unit := do
  cbClose id owner off { c with ovf := if c.ovf < 0xFFFF then c.ovf + 1 else 0xFFFF }
  setMyErr errCb

/-- CBGIVE: bit 63 of xb chooses the counter (R166). An n above 4096 is judged by the counters alone (DESIGN CHOICE log 63). -/
def cbGiveOp (va xb : Nat) : Op Unit := do
  let n := bits xb 12 0
  require (bits xb 62 13 == 0) codeIll
  if n = 0 then pure ()
  else do
    let s ← get
    let (owner, off, c) ← slotNode (cbOpen s.who va)
    let id := s.act.ctx
    if bits xb 63 63 = 0 then
      if (c.take + 2 ^ 32 - c.give) % 2 ^ 32 < n then cbRefuse id owner off c
      else cbClose id owner off { c with give := (c.give + n) % 2 ^ 32 }
    else if c.room < n then cbRefuse id owner off c
    else do
      let c' ← cbHand id owner off { c with put := (c.put + n) % 2 ^ 32 }
      cbClose id owner off c'

/-- CBGIVE. -/
def execCbgive (a b : Reg) (s : State) := finish (cbGiveOp (s.x a).toNat (s.x b).toNat) s

end Sys2Proof.Machine
end

