-- ==== Sys2Proof/Machine/Cache.lean ====
section
/-! DEFINITION. Stash mapping and cache maintenance (R161 to R163, R172). Every access to a mapped range is made at the
global location, which is where a coherent copy is; State.back holds what has reached the backing store. -/

namespace Sys2Proof.Machine

/-- Whether a map entry overlaps offsets lo to hi - 1; an empty range overlaps nothing. -/
def MapEntry.overlaps (e : MapEntry) (lo hi : Nat) : Bool :=
  decide (lo < hi) && decide (e.off < hi) && decide (lo < e.off + 64 * e.nl)

/-- Whether a dirty line is of a logical core and passes a test of its stash offset. -/
def DirtyLine.at (d : DirtyLine) (id l : Nat) (test : Nat → Bool) : Bool := decide (d.ctx = id) && decide (d.lcore = l) && test d.off

/-- The dirty mapped lines of a logical core that pass a test become clean (R161, R162). -/
def State.cleanLines (s : State) (id l : Nat) (test : Nat → Bool) : State :=
  { s with dirtyMaps := s.dirtyMaps.filter fun d => !d.at id l test }

/-- What a byte of a removed entry's line may hold (R161): zero, what stands in the stash beneath, or what stands at the global line, now
or, where nobody has read or stored it since, before the stores through the map. A line stored under a key offers only the first two, as
what no write has filled is no write's value there (DESIGN CHOICE log 14). -/
def leftByte (s : State) (id l off : Nat) (e : MapEntry) (pa : Option (Nat × Option (BitVec 256))) (pick : Nat) : Byte :=
  let under := s.stash.read (stashKey id l off)
  let old : Option Byte := (s.dirtyMaps.find? fun d => d.at id l fun o => decide (o = off / 64 * 64)).bind fun d => (d.fall[off % 64]?).join
  match pa, pick % 4 with
  | some (a, none), 2 => s.mem.read (a + (off - e.off) % 64)
  | some (_, none), 3 => old.getD under
  | _, p => if p % 2 = 0 then 0 else under

/-- The physical line that a stash offset is mapped to, with its key; none when it cannot be reached. Nothing is translated for it. -/
def State.mappedLine (s : State) (id l off : Nat) : Option (Nat × Option (BitVec 256)) :=
  match resolve (.core id l) .load (remoteVa l off) s with
  | .ok (.mem pa _ _ _ _ key, _) => some (pa, key)
  | _ => none

/-- The bytes that an entry leaves in the stash; picks from free on say which. -/
def leftBytes (s : State) (id l : Nat) (e : MapEntry) (free : Nat) : List Byte :=
  (List.range e.nl).flatMap fun k =>
    let pa := s.mappedLine id l (e.off + 64 * k)
    (List.range 64).map fun i => leftByte s id l (e.off + 64 * k + i) e pa (Config.freeNat (free + 64 * k + i))

/-- Removes an entry (R161): its dirty lines are written back, and its former range holds undefined bytes, each of them free among
the values that the rule lists, and no poison (DESIGN CHOICE log 14). -/
def State.unmapEntry (s : State) (id l : Nat) (e : MapEntry) : State :=
  let lo := stashKey id l e.off / 64
  { s.cleanLines id l fun o => decide (e.off ≤ o) && decide (o < e.off + 64 * e.nl) with
    free := s.free + 64 * e.nl
    stash := s.stash.writeBytes (stashKey id l e.off) (leftBytes s id l e s.free)
    stashPoison := s.stashPoison.filter fun n => decide (n < lo) || decide (lo + e.nl ≤ n) }

/-- Whether a range of n bytes meets one of the two stash windows (R121, R161). -/
def meetsWindow (va n : Nat) : Bool := decide (remoteBase < va + n) && decide (va < localBase + 0x20000) && decide (n ≠ 0)

/-- SMAP (R161). -/
def smapOp (xa xb : Nat) : Op Unit := do
  let off := bits xa 16 0
  let nl := bits xa 31 17
  let stop := off + 64 * nl
  require (xa < 2 ^ 32 && nl ≤ 1536 && stop ≤ Config.stashBytes) codeProt
  require (off % 64 == 0 && xb % 64 == 0) codeAlign
  require (xb == 0 || (decide (xb + 64 * nl ≤ 2 ^ 48) && !meetsWindow xb (64 * nl))) codeProt
  let k ← myCore
  let gone := k.maps.filter (·.overlaps off stop)
  let kept := k.maps.filter (fun e => !e.overlaps off stop)
  require (xb == 0 || nl == 0 || decide (kept.length < 8)) codeProt
  modify fun s => gone.foldl (fun s e => s.unmapEntry s.act.ctx s.act.lcore e) s
  modMyCore fun k => { k with maps := if xb ≠ 0 ∧ nl > 0 then kept ++ [⟨off, nl, xb⟩] else kept }

/-- SMAP. -/
def execSmap (a b : Reg) (s : State) := finish (smapOp (s.x a).toNat (s.x b).toNat) s

/-- Whether a line at a stash offset meets a range of bytes. -/
def lineIn (line lo n : Nat) : Bool := decide (0 < n) && decide (line < lo + n) && decide (lo < line + 64)

/-- SWB: dirty mapped lines of a range become clean (R162). -/
def swbOp (xa xb : Nat) : Op Unit := do
  require (xb == 0 || decide (xa + xb ≤ Config.stashBytes)) codeProt
  modify fun s => s.cleanLines s.act.ctx s.act.lcore fun o => lineIn o xa xb

/-- SWB. -/
def execSwb (a b : Reg) (s : State) := finish (swbOp (s.x a).toNat (s.x b).toNat) s

/-- The bytes of a dropped line (R162): each location keeps its value, or falls back, as a free choice, to the one before the stores
through the map, as long as no party has read it or stored it otherwise since, and it has not reached the backing store (DESIGN CHOICE
log 14). -/
def droppedBytes (d : DirtyLine) (cur home : List Byte) (free : Nat) : List Byte :=
  (List.range 64).map fun i =>
    let at_ (bs : List Byte) : Byte := (bs[i]?).getD 0
    match (d.fall[i]?).join with
    | some b => if Config.freeBool (free + i) && at_ home != at_ cur then b else at_ cur
    | none => at_ cur

/-- A dirty line dropped; one that the front end may have read keeps its values, as what a party has observed is never lost (R119,
R162). -/
def State.dropLine (s : State) (d : DirtyLine) : State :=
  match s.mappedLine d.ctx d.lcore d.off with
  | some (pa, key) =>
    if pa = d.pa ∧ !s.frontReads pa then
      { s with
        free := s.free + 64
        mem := s.mem.writePlain key pa (droppedBytes d (s.mem.readPlain key pa 64) (s.back.readPlain key pa 64) s.free) }
    else s
  | none => s

/-- SDROP (R162). -/
def sdropOp (xa xb : Nat) : Op Unit := do
  require (xb == 0 || decide (xa + xb ≤ Config.stashBytes)) codeProt
  let test (o : Nat) : Bool := lineIn o xa xb
  modify fun s =>
    ((s.dirtyMaps.filter fun d => d.at s.act.ctx s.act.lcore test).foldl State.dropLine s).cleanLines s.act.ctx s.act.lcore test

/-- SDROP. -/
def execSdrop (a b : Reg) (s : State) := finish (sdropOp (s.x a).toNat (s.x b).toNat) s

/-- The physical lines of checked pieces. -/
def linesOf (ls : List (Loc × Nat)) : List Nat :=
  ls.filterMap fun p => match p.1 with
    | .mem pa _ _ _ _ _ => some (pa / 64 * 64)
    | .stash _ => none

/-- The lines that CFL and CINV act on, checked as R163 says: the fault is that of the lowest failing byte (R157), of which every byte
in the windows is one. -/
def maintained (acc : Acc) (ea n : Nat) : Op (List Nat) := do
  require (decide (n ≤ 65536)) codeIll
  let below := Nat.min n (remoteBase - ea)
  let ls ← checkRange (← get).who acc ea below
  if below < n then raiseAt codeProt (ea + below)
  return linesOf ls

/-- CFL: every line of the range reaches its backing store (R163). It demands read permission of its pages (DESIGN CHOICE log 63). -/
def cflOp (ea n : Nat) : Op Unit := do
  if n ≠ 0 then
    let lines ← maintained .load ea n
    modify fun s => lines.foldl (fun s a => s.reachBack a 64) s

/-- CFL. -/
def execCfl (a b : Reg) (s : State) := finish (cflOp (s.x a).toNat (s.x b).toNat) s

/-- CINV: every line of the range falls back to what has reached its backing store (R163). -/
def cinvOp (ea n : Nat) : Op Unit := do
  if n ≠ 0 then
    let lines ← maintained .store ea n
    modify fun s => lines.foldl (fun s a => s.fallBack a 64) s

/-- CINV. -/
def execCinv (a b : Reg) (s : State) := finish (cinvOp (s.x a).toNat (s.x b).toNat) s

end Sys2Proof.Machine
end

