-- ==== Sys2Proof/Machine/Vector.lean ====
section
/-! DEFINITION. Predicates, element arithmetic, special functions, logic, shifts, compares and movement of the vector pipe
(R198 to R210, R216), and the 16-bit forms (R65). -/

namespace Sys2Proof.Machine

/-! ## Writing elements -/

/-- Writes the active elements of a vector destination and raises their flags (R199, R201). -/
def State.writeElems (s : State) (d : Reg) (pg : PReg) (w : Nat) (g : Nat → Rounded) : State :=
  let p := s.preg pg
  let old := s.vreg d
  let rs := (List.range (s.elems w)).map fun e => if activeAt p w e then g e else ⟨elemAt old w e, 0⟩
  (s.setV d (packElems w (rs.map Rounded.bits))).raiseFlags (rs.foldl (fun acc r => acc ||| r.flags) 0)

/-- A vector operation on integer patterns: no flag, no draw (R201). -/
def vecInt (t : ElemType) (d : Reg) (pg : PReg) (g : State → Nat → Nat) : Op Unit :=
  modify fun s => s.writeElems d pg (elemWidth t) fun e => ⟨g s e % 2 ^ elemWidth t, 0⟩

/-- A floating operation rounded under FRM.mode, with its SR run (R201). -/
def vecRound (t : ElemType) (d : Reg) (pg : PReg) (g : State → Nat → Formed) : Op Unit := do
  let s ← get
  let run ← srRun s.mode (s.elems (elemWidth t))
  modify fun s' => s'.writeElems d pg (elemWidth t) fun e => (g s e).round (elemFmt t) s.mode (srBits run e)

/-- A floating operation whose results need no rounding (R206, R208). -/
def vecExact (t : ElemType) (d : Reg) (pg : PReg) (g : State → Nat → Rounded) : Op Unit :=
  modify fun s => s.writeElems d pg (elemWidth t) (g s)

/-- Element e of a register at a type's width. -/
def State.elem (s : State) (t : ElemType) (r : Reg) (e : Nat) : Nat := elemAt (s.vreg r) (elemWidth t) e

/-- Element e of a register as a floating value. -/
def State.felem (s : State) (t : ElemType) (r : Reg) (e : Nat) : FVal := decodeF (elemFmt t) (s.elem t r e)

/-! ## Widths and predicates -/

/-- VWID (R202). -/
def execVwid (d : Reg) (s : State) := update (fun s => s.setX d (BitVec.ofNat 64 s.vw)) s

/-- PLB: the sum is exact (R203). -/
def execPlb (pd : PReg) (a b : Reg) (pg : PReg) (t : ElemType) (s : State) :=
  update (fun s => s.setP pd (packPred (s.preg pg) (elemWidth t) (s.elems (elemWidth t)) fun e =>
    decide ((s.x a).toInt + (e : Int) < (s.x b).toInt))) s

/-- A lane-wise predicate form (R204). -/
def predLanes (pd pg : PReg) (f : State → Nat) (s : State) : Host.Outcome State Fault Refusal :=
  update (fun s => s.setP pd (s.preg pg &&& f s)) s

/-- PAND (R204). -/
def execPand (pd pa pb pg : PReg) (s : State) := predLanes pd pg (fun s => s.preg pa &&& s.preg pb) s

/-- POR (R204). -/
def execPor (pd pa pb pg : PReg) (s : State) := predLanes pd pg (fun s => s.preg pa ||| s.preg pb) s

/-- PXOR (R204). -/
def execPxor (pd pa pb pg : PReg) (s : State) := predLanes pd pg (fun s => s.preg pa ^^^ s.preg pb) s

/-- PNOT (R204). -/
def execPnot (pd pa pg : PReg) (s : State) :=
  predLanes pd pg (fun s => s.preg pa ^^^ (2 ^ (s.vw / 8) - 1)) s

/-- The elements that are active under pg and set in pa (R205). -/
def State.hits (s : State) (t : ElemType) (pa pg : PReg) : List Nat :=
  (List.range (s.elems (elemWidth t))).filter fun e =>
    activeAt (s.preg pg) (elemWidth t) e && activeAt (s.preg pa) (elemWidth t) e

/-- PFST (R205). -/
def execPfst (pd pa pg : PReg) (t : ElemType) (s : State) :=
  update (fun s => s.setP pd (match s.hits t pa pg with
    | [] => 0
    | e :: _ => 2 ^ (elemWidth t / 8 * e))) s

/-- PCNT (R205). -/
def execPcnt (d : Reg) (pa pg : PReg) (t : ElemType) (s : State) :=
  update (fun s => s.setX d (BitVec.ofNat 64 (s.hits t pa pg).length)) s

/-! ## Arithmetic (R206) -/

/-- Integer division at width w as R149 gives it. -/
def divAt (signed : Bool) (w x y : Nat) : Nat :=
  if y = 0 then 2 ^ w - 1
  else if signed then wrapAt w (Int.tdiv (signedAt w x) (signedAt w y))
  else x / y

/-- The greater or smaller of two patterns, read signed or unsigned. -/
def pickAt (max signed : Bool) (w x y : Nat) : Nat :=
  let less : Bool := if signed then decide (signedAt w x < signedAt w y) else decide (x < y)
  if less = max then y else x

/-- A form with an integer and a floating reading; the integer result wraps. -/
def arith (t : ElemType) (d a b : Reg) (pg : PReg) (fi : Nat → Nat → Int) (ff : RMode → FVal → FVal → Formed) : Op Unit :=
  if t.isInt then vecInt t d pg fun s e => wrapAt (elemWidth t) (fi (s.elem t a e) (s.elem t b e))
  else vecRound t d pg fun s e => ff s.mode (s.felem t a e) (s.felem t b e)

/-- VADD. -/
def vaddOp (d a b : Reg) (pg : PReg) (t : ElemType) : Op Unit := arith t d a b pg (fun x y => x + y) addF

/-- VSUB. -/
def vsubOp (d a b : Reg) (pg : PReg) (t : ElemType) : Op Unit :=
  arith t d a b pg (fun x y => x - y) fun m x y => addF m x y.negate

/-- VMUL. -/
def vmulOp (d a b : Reg) (pg : PReg) (t : ElemType) : Op Unit := arith t d a b pg (fun x y => x * y) fun _ => mulF

/-- VDIV, signed or unsigned for integers. -/
def vdivOp (signed : Bool) (d a b : Reg) (pg : PReg) (t : ElemType) : Op Unit :=
  if t.isInt then vecInt t d pg fun s e => divAt signed (elemWidth t) (s.elem t a e) (s.elem t b e)
  else vecRound t d pg fun s e => divF (s.felem t a e) (s.felem t b e)

/-- A value of a format as its pattern: exact for values that the format holds. -/
def exactBits (f : Fmt) (x : Formed) : Rounded := x.round f .rne 0

/-- VMAX and VMIN. -/
def vpickOp (max signed : Bool) (d a b : Reg) (pg : PReg) (t : ElemType) : Op Unit :=
  if t.isInt then vecInt t d pg fun s e => pickAt max signed (elemWidth t) (s.elem t a e) (s.elem t b e)
  else vecExact t d pg fun s e => exactBits (elemFmt t) (selectF max (s.felem t a e) (s.felem t b e))

/-- VABS and VNEG on floats: a NaN gives the canonical one (R206). -/
def signForm (f : FVal → FVal) (x : FVal) : Formed := if x.isNan then nanOf [x] else ⟨f x, 0⟩

/-- VABS. -/
def vabsOp (d a : Reg) (pg : PReg) (t : ElemType) : Op Unit :=
  if t.isInt then vecInt t d pg fun s e => wrapAt (elemWidth t) (signedAt (elemWidth t) (s.elem t a e)).natAbs
  else vecExact t d pg fun s e => exactBits (elemFmt t) (signForm FVal.abs (s.felem t a e))

/-- VNEG. -/
def vnegOp (d a : Reg) (pg : PReg) (t : ElemType) : Op Unit :=
  if t.isInt then vecInt t d pg fun s e => wrapAt (elemWidth t) (-(s.elem t a e : Int))
  else vecExact t d pg fun s e => exactBits (elemFmt t) (signForm FVal.negate (s.felem t a e))

/-- VADD. -/
def execVadd (d a b : Reg) (pg : PReg) (t : ElemType) (s : State) := finish (vaddOp d a b pg t) s

/-- VSUB. -/
def execVsub (d a b : Reg) (pg : PReg) (t : ElemType) (s : State) := finish (vsubOp d a b pg t) s

/-- VMUL. -/
def execVmul (d a b : Reg) (pg : PReg) (t : ElemType) (s : State) := finish (vmulOp d a b pg t) s

/-- VDIV, signed or floating. -/
def execVdiv (d a b : Reg) (pg : PReg) (t : ElemType) (s : State) := finish (vdivOp true d a b pg t) s

/-- VDIV, unsigned. -/
def execVdivUnsigned (d a b : Reg) (pg : PReg) (t : ElemType) (s : State) := finish (vdivOp false d a b pg t) s

/-- VMAX, signed or floating. -/
def execVmax (d a b : Reg) (pg : PReg) (t : ElemType) (s : State) := finish (vpickOp true true d a b pg t) s

/-- VMAX, unsigned. -/
def execVmaxUnsigned (d a b : Reg) (pg : PReg) (t : ElemType) (s : State) := finish (vpickOp true false d a b pg t) s

/-- VMIN, signed or floating. -/
def execVmin (d a b : Reg) (pg : PReg) (t : ElemType) (s : State) := finish (vpickOp false true d a b pg t) s

/-- VMIN, unsigned. -/
def execVminUnsigned (d a b : Reg) (pg : PReg) (t : ElemType) (s : State) := finish (vpickOp false false d a b pg t) s

/-- VABS. -/
def execVabs (d a : Reg) (pg : PReg) (t : ElemType) (s : State) := finish (vabsOp d a pg t) s

/-- VNEG. -/
def execVneg (d a : Reg) (pg : PReg) (t : ElemType) (s : State) := finish (vnegOp d a pg t) s

/-- VSEL: not governed; pg selects (R206). -/
def execVsel (d a b : Reg) (pg : PReg) (t : ElemType) (s : State) :=
  update (fun s => s.setV d (mergeElems (s.vreg b) (s.preg pg) (elemWidth t) (s.elems (elemWidth t)) (s.elem t a))) s

/-- VFMA and VFMS (R207). -/
def fmaOp (neg : Bool) (d a b c : Reg) (pg : PReg) (t : FloatType) : Op Unit :=
  let e := floatElem t
  vecRound e d pg fun s i =>
    let z := s.felem e c i
    fmaF s.mode (s.felem e a i) (s.felem e b i) (if neg then z.negate else z)

/-- VFMA. -/
def execVfma (d a b c : Reg) (pg : PReg) (t : FloatType) (s : State) := finish (fmaOp false d a b c pg t) s

/-- VFMS. -/
def execVfms (d a b c : Reg) (pg : PReg) (t : FloatType) (s : State) := finish (fmaOp true d a b c pg t) s

/-! ## Special functions (R208) -/

/-- VSQRT. -/
def execVsqrt (d a : Reg) (pg : PReg) (t : ElemType) (s : State) :=
  finish (vecRound t d pg fun s e => sqrtF (s.felem t a e)) s

/-- VRCP. -/
def execVrcp (d a : Reg) (pg : PReg) (t : ElemType) (s : State) :=
  finish (vecRound t d pg fun s e => divF (.fin false 1 0) (s.felem t a e)) s

/-- A bounded function: FRM.mode has no part, and nothing is drawn. -/
def bounded (g : Special) (d a : Reg) (pg : PReg) (t : ElemType) : Op Unit :=
  vecExact t d pg fun s e => specialF g (elemFmt t) (s.elem t a e)

/-- VRSQ. -/
def execVrsq (d a : Reg) (pg : PReg) (t : ElemType) (s : State) := finish (bounded .rsq d a pg t) s

/-- VEXP2. -/
def execVexp2 (d a : Reg) (pg : PReg) (t : ElemType) (s : State) := finish (bounded .exp2 d a pg t) s

/-- VLOG2. -/
def execVlog2 (d a : Reg) (pg : PReg) (t : ElemType) (s : State) := finish (bounded .log2 d a pg t) s

/-- VTANH. -/
def execVtanh (d a : Reg) (pg : PReg) (t : ElemType) (s : State) := finish (bounded .tanh d a pg t) s

/-- VSIN. -/
def execVsin (d a : Reg) (pg : PReg) (t : ElemType) (s : State) := finish (bounded .sin d a pg t) s

/-! ## Logic and shifts (R209) -/

/-- A bitwise form of two sources. -/
def logic2 (f : Nat → Nat → Nat) (d a b : Reg) (pg : PReg) (t : ElemType) : Op Unit :=
  vecInt t d pg fun s e => f (s.elem t a e) (s.elem t b e)

/-- VAND. -/
def execVand (d a b : Reg) (pg : PReg) (t : ElemType) (s : State) := finish (logic2 (· &&& ·) d a b pg t) s

/-- VOR. -/
def execVor (d a b : Reg) (pg : PReg) (t : ElemType) (s : State) := finish (logic2 (· ||| ·) d a b pg t) s

/-- VXOR. -/
def execVxor (d a b : Reg) (pg : PReg) (t : ElemType) (s : State) := finish (logic2 (· ^^^ ·) d a b pg t) s

/-- VNOT. -/
def execVnot (d a : Reg) (pg : PReg) (t : ElemType) (s : State) :=
  finish (vecInt t d pg fun s e => 2 ^ elemWidth t - 1 - s.elem t a e) s

/-- VSHL: the count is taken modulo the width. -/
def execVshl (d a b : Reg) (pg : PReg) (t : ElemType) (s : State) :=
  finish (vecInt t d pg fun s e => s.elem t a e * 2 ^ (s.elem t b e % elemWidth t)) s

/-- VSHR, logical. -/
def execVshr (d a b : Reg) (pg : PReg) (t : ElemType) (s : State) :=
  finish (vecInt t d pg fun s e => s.elem t a e / 2 ^ (s.elem t b e % elemWidth t)) s

/-- VSAR, arithmetic. -/
def execVsar (d a b : Reg) (pg : PReg) (t : ElemType) (s : State) :=
  finish (vecInt t d pg fun s e =>
    wrapAt (elemWidth t) (signedAt (elemWidth t) (s.elem t a e) / (2 ^ (s.elem t b e % elemWidth t) : Nat))) s

/-! ## Compares (R109, R210) -/

/-- A compare: the integer test on patterns, the floating one on values; only a signalling NaN raises nv. -/
def compareOp (pd : PReg) (a b : Reg) (pg : PReg) (t : ElemType) (fi : Nat → Nat → Bool) (ff : FVal → FVal → Bool) :
    Op Unit :=
  modify fun s =>
    let w := elemWidth t
    let n := s.elems w
    let p := s.preg pg
    if t.isInt then s.setP pd (packPred p w n fun e => fi (s.elem t a e) (s.elem t b e))
    else
      (s.setP pd (packPred p w n fun e => ff (s.felem t a e) (s.felem t b e))).raiseFlags
        (activeFlags p w n fun e => flagIf ((s.felem t a e).isSig || (s.felem t b e).isSig) flagNv)

/-- VCMP.EQ. -/
def execVcmpEq (pd : PReg) (a b : Reg) (pg : PReg) (t : ElemType) (s : State) :=
  finish (compareOp pd a b pg t (· == ·) eqIeee) s

/-- VCMP.NE: true when an operand is NaN. -/
def execVcmpNe (pd : PReg) (a b : Reg) (pg : PReg) (t : ElemType) (s : State) :=
  finish (compareOp pd a b pg t (· != ·) fun x y => !eqIeee x y) s

/-- VCMP.LT, signed. -/
def execVcmpLt (pd : PReg) (a b : Reg) (pg : PReg) (t : ElemType) (s : State) :=
  finish (compareOp pd a b pg t (fun x y => decide (signedAt (elemWidth t) x < signedAt (elemWidth t) y)) ltIeee) s

/-- VCMP.LE, signed. -/
def execVcmpLe (pd : PReg) (a b : Reg) (pg : PReg) (t : ElemType) (s : State) :=
  finish (compareOp pd a b pg t (fun x y => decide (signedAt (elemWidth t) x ≤ signedAt (elemWidth t) y))
    fun x y => ltIeee x y || eqIeee x y) s

/-- VCMP.LO, unsigned. -/
def execVcmpLo (pd : PReg) (a b : Reg) (pg : PReg) (t : ElemType) (s : State) :=
  finish (compareOp pd a b pg t (fun x y => decide (x < y)) ltIeee) s

/-- VCMP.LS, unsigned. -/
def execVcmpLs (pd : PReg) (a b : Reg) (pg : PReg) (t : ElemType) (s : State) :=
  finish (compareOp pd a b pg t (fun x y => decide (x ≤ y)) ltIeee) s

/-! ## Movement (R216) -/

/-- VPERM. -/
def execVperm (d a b : Reg) (pg : PReg) (t : ElemType) (s : State) :=
  finish (vecInt t d pg fun s e =>
    let j := s.elem t b e
    if j < s.elems (elemWidth t) then s.elem t a j else 0) s

/-- VBCAST: the source is a scalar register. -/
def execVbcast (d a : Reg) (pg : PReg) (t : ElemType) (s : State) := finish (vecInt t d pg fun s _ => (s.x a).toNat) s

/-- Whether a scalar names an element that exists and is active (R216). -/
def State.namesElem (s : State) (t : ElemType) (pg : PReg) (i : Nat) : Bool :=
  decide (i < s.elems (elemWidth t)) && activeAt (s.preg pg) (elemWidth t) i

/-- VEXT: the destination and the index are scalar registers. -/
def execVext (d a b : Reg) (pg : PReg) (t : ElemType) (s : State) :=
  update (fun s =>
    let i := (s.x b).toNat
    s.setX d (if s.namesElem t pg i then BitVec.ofNat 64 (s.elem t a i) else 0)) s

/-- VINS: the value and the index are scalar registers. -/
def execVins (d a b : Reg) (pg : PReg) (t : ElemType) (s : State) :=
  update (fun s =>
    let i := (s.x b).toNat
    let w := elemWidth t
    if s.namesElem t pg i then
      s.setV d (packElems w ((List.range (s.elems w)).map fun e => if e = i then (s.x a).toNat else s.elem t d e))
    else s) s

/-- VIDX. -/
def execVidx (d : Reg) (pg : PReg) (t : ElemType) (s : State) := finish (vecInt t d pg fun _ e => e) s

/-- VMOV. -/
def vmovOp (d a : Reg) (pg : PReg) (t : ElemType) : Op Unit := vecInt t d pg fun s e => s.elem t a e

/-- VMOV. -/
def execVmov (d a : Reg) (pg : PReg) (t : ElemType) (s : State) := finish (vmovOp d a pg t) s

/-! ## The 16-bit forms: the 32-bit form under p0, with vd as the first source (R65) -/

/-- The floating type that t names. -/
def cFloat (t : Bool) : ElemType := if t then .bf16 else .f32

/-- The integer type that t names. -/
def cInt (t : Bool) : ElemType := if t then .i16 else .i32

/-- C.VADDF. -/
def execCVaddf (d v : Reg) (t : Bool) (s : State) := finishC (vaddOp d d v 0 (cFloat t)) s

/-- C.VSUBF. -/
def execCVsubf (d v : Reg) (t : Bool) (s : State) := finishC (vsubOp d d v 0 (cFloat t)) s

/-- C.VMULF. -/
def execCVmulf (d v : Reg) (t : Bool) (s : State) := finishC (vmulOp d d v 0 (cFloat t)) s

/-- C.VMAXF. -/
def execCVmaxf (d v : Reg) (t : Bool) (s : State) := finishC (vpickOp true true d d v 0 (cFloat t)) s

/-- C.VMINF. -/
def execCVminf (d v : Reg) (t : Bool) (s : State) := finishC (vpickOp false true d d v 0 (cFloat t)) s

/-- C.VADDI. -/
def execCVaddi (d v : Reg) (t : Bool) (s : State) := finishC (vaddOp d d v 0 (cInt t)) s

/-- C.VSUBI. -/
def execCVsubi (d v : Reg) (t : Bool) (s : State) := finishC (vsubOp d d v 0 (cInt t)) s

/-- C.VMULI. -/
def execCVmuli (d v : Reg) (t : Bool) (s : State) := finishC (vmulOp d d v 0 (cInt t)) s

/-- C.VMAXI. -/
def execCVmaxi (d v : Reg) (t : Bool) (s : State) := finishC (vpickOp true true d d v 0 (cInt t)) s

/-- C.VMINI. -/
def execCVmini (d v : Reg) (t : Bool) (s : State) := finishC (vpickOp false true d d v 0 (cInt t)) s

/-- C.VAND. -/
def execCVand (d v : Reg) (s : State) := finishC (logic2 (· &&& ·) d d v 0 .i8) s

/-- C.VOR. -/
def execCVor (d v : Reg) (s : State) := finishC (logic2 (· ||| ·) d d v 0 .i8) s

/-- C.VXOR. -/
def execCVxor (d v : Reg) (s : State) := finishC (logic2 (· ^^^ ·) d d v 0 .i8) s

/-- C.VMOV. -/
def execCVmov (d v : Reg) (s : State) := finishC (vmovOp d v 0 .i8) s

/-- C.VNEGF. -/
def execCVnegf (d v : Reg) (t : Bool) (s : State) := finishC (vnegOp d v 0 (cFloat t)) s

/-- C.VABSF. -/
def execCVabsf (d v : Reg) (t : Bool) (s : State) := finishC (vabsOp d v 0 (cFloat t)) s

end Sys2Proof.Machine
end

