-- ==== Sys2Proof/Machine/Convert.lean ====
section
/-! DEFINITION. Conversions, block quantization, reductions, scans and random numbers of the vector pipe (R81, R106, R107,
R111, R211 to R215, R221, R222). -/

namespace Sys2Proof.Machine

/-! ## Conversions -/

/-- The rounding that cv bits 1:0 select (R81). -/
def State.cvMode (s : State) (cv : Nat) : RMode :=
  match cv % 4 with
  | 0 => .rne | 1 => .rz | 2 => .sr | _ => s.mode

/-- One converted element (R211): the integer side is read signed or unsigned. -/
def convertElem (signed : Bool) (st dt : ElemType) (mode : RMode) (r v : Nat) : Rounded :=
  let wd := elemWidth dt
  if st.isInt then
    let i : Int := if signed then signedAt (elemWidth st) v else v
    if dt.isInt then
      let lo : Int := if signed then -2 ^ (wd - 1) else 0
      let hi : Int := if signed then 2 ^ (wd - 1) - 1 else 2 ^ wd - 1
      if i < lo then ⟨wrapAt wd lo, flagNv⟩ else if hi < i then ⟨wrapAt wd hi, flagNv⟩ else ⟨wrapAt wd i, 0⟩
    else roundVal (elemFmt dt) mode r false (ofInt i)
  else
    let x := decodeF (elemFmt st) v
    if dt.isInt then toIntF mode r signed wd x else roundVal (elemFmt dt) mode r false x

/-- VCVT (R211): n positions; bits above them are zero when the destination is the narrower type. -/
def vcvtOp (signed : Bool) (d a : Reg) (cv : Nat) (pg : PReg) (dt : ElemType) : Op Unit := do
  let s ← get
  let st := ElemType.ofCode (cv / 4)
  let wd := elemWidth dt
  let ws := elemWidth st
  let n := s.vw / Nat.max ws wd
  let mode := s.cvMode cv
  let run ← srRun mode n
  let p := s.preg pg
  let rs := (List.range n).map fun e =>
    if activeAt p wd e then convertElem signed st dt mode (srBits run e) (elemAt (s.vreg a) ws e)
    else ⟨elemAt (s.vreg d) wd e, 0⟩
  modify fun s' => (s'.setV d (packElems wd (rs.map Rounded.bits))).raiseFlags (rs.foldl (fun acc r => acc ||| r.flags) 0)

/-- VCVT, signed. -/
def execVcvt (d a : Reg) (cv : Fin 32) (pg : PReg) (t : ElemType) (s : State) := finish (vcvtOp true d a cv.val pg t) s

/-- VCVT, unsigned. -/
def execVcvtUnsigned (d a : Reg) (cv : Fin 32) (pg : PReg) (t : ElemType) (s : State) :=
  finish (vcvtOp false d a cv.val pg t) s

/-! ## Block formats -/

/-- The eight-bit and block formats of R81. -/
inductive BlockFmt where
  | e4m3 | e5m2 | e3m2 | e2m3 | e2m1x
  deriving DecidableEq, Repr

/-- The format that cv bits 4:2 name (R81). -/
def BlockFmt.ofCode : Nat → BlockFmt
  | 0 => .e4m3 | 1 => .e5m2 | 2 => .e3m2 | 3 => .e2m3 | _ => .e2m1x

/-- The element format. -/
def BlockFmt.fmt : BlockFmt → Fmt
  | .e4m3 => .e4m3 | .e5m2 => .e5m2 | .e3m2 => .e3m2 | .e2m3 => .e2m3 | .e2m1x => .e2m1

/-- Bytes of a block of 32 elements (R212). -/
def BlockFmt.bytes : BlockFmt → Nat
  | .e4m3 | .e5m2 => 32 | .e3m2 | .e2m3 => 25 | .e2m1x => 18

/-- Element i of a block held as a number (R94, R98, R99). -/
def BlockFmt.decode (f : BlockFmt) (blk i : Nat) : FVal :=
  match f with
  | .e4m3 => decodeF .e4m3 (blk / 2 ^ (8 * i) % 256)
  | .e5m2 => decodeF .e5m2 (blk / 2 ^ (8 * i) % 256)
  | .e3m2 => decode6 .e3m2 blk i
  | .e2m3 => decode6 .e2m3 blk i
  | .e2m1x => decodeE2m1x blk i

/-- Registers of the floating group and blocks in a register (R212). -/
def blockGroup (vw wf : Nat) : Nat × Nat := if 32 * wf ≤ vw then (1, vw / (32 * wf)) else (32 * wf / vw, 1)

/-- Block b of VQNT (R213): its bytes as a number, and the flags. -/
def qntBlock (f : BlockFmt) (mode : RMode) (run : List (BitVec 128)) (old b : Nat) (xs : List FVal) : Block :=
  match f with
  | .e4m3 | .e5m2 =>
    let rs := xs.zipIdx.map fun (x, i) => roundVal f.fmt mode (srBits run (32 * b + i)) true x
    ⟨packCodes 8 (rs.map Rounded.bits), rs.foldl (fun acc r => acc ||| r.flags) 0⟩
  | .e3m2 | .e2m3 | .e2m1x =>
    let sup := (decodeF .f32 (old / 2 ^ (32 * b) % 2 ^ 32)).abs
    quantizeBlock f.fmt mode (fun i => srBits run (32 * b + i)) xs (maxMag (sup :: xs))

/-- VQNT (R212, R213). -/
def vqntOp (d a : Reg) (cv : Nat) (pg : PReg) (t : ElemType) : Op Unit := do
  let s ← get
  let wf := elemWidth t
  let (k, nb) := blockGroup s.vw wf
  require (decide (a.val % k = 0)) codeIll
  let f := BlockFmt.ofCode (cv / 4)
  let mode := s.cvMode cv
  let run ← srRun mode (32 * nb)
  let per := s.vw / wf
  let x (e : Nat) : FVal :=
    if activeAt (s.preg pg) wf (e % per) then s.felem t (regPlus a (e / per)) (e % per) else .zero
  let blocks := (List.range nb).map fun b =>
    qntBlock f mode run (s.vreg d) b ((List.range 32).map fun i => x (32 * b + i))
  modify fun s' => (s'.setV d (packElems (8 * f.bytes) (blocks.map Block.bits))).raiseFlags
    (blocks.foldl (fun acc r => acc ||| r.flags) 0)

/-- VQNT. -/
def execVqnt (d a : Reg) (cv : Fin 32) (pg : PReg) (t : ElemType) (s : State) := finish (vqntOp d a cv.val pg t) s

/-- Writes register j of the floating group of VDQT. -/
def dqtReg (f : BlockFmt) (mode : RMode) (run : List (BitVec 128)) (packed : Nat) (d : Reg) (pg : PReg) (t : ElemType)
    (j : Nat) (s : State) : State :=
  let per := s.vw / elemWidth t
  s.writeElems (regPlus d j) pg (elemWidth t) fun ep =>
    let e := j * per + ep
    roundVal (elemFmt t) mode (srBits run e) false
      (f.decode (packed / 2 ^ (8 * f.bytes * (e / 32)) % 2 ^ (8 * f.bytes)) (e % 32))

/-- VDQT (R212, R214). -/
def vdqtOp (d a : Reg) (cv : Nat) (pg : PReg) (t : ElemType) : Op Unit := do
  let s ← get
  let (k, nb) := blockGroup s.vw (elemWidth t)
  require (decide (d.val % k = 0)) codeIll
  let f := BlockFmt.ofCode (cv / 4)
  let mode := s.cvMode cv
  let run ← srRun mode (32 * nb)
  modify fun s' => (List.range k).foldl (fun acc j => dqtReg f mode run (s.vreg a) d pg t j acc) s'

/-- VDQT. -/
def execVdqt (d a : Reg) (cv : Fin 32) (pg : PReg) (t : ElemType) (s : State) := finish (vdqtOp d a cv.val pg t) s

/-! ## Reductions and scans -/

/-- The operations of R111. -/
inductive RedOp where
  | add | max | min
  deriving DecidableEq, Repr

/-- The identity pattern of an operation (R111). -/
def redIdentity (o : RedOp) (signed : Bool) (t : ElemType) : Nat :=
  let w := elemWidth t
  if t.isInt then
    match o with
    | .add => 0
    | .max => if signed then 2 ^ (w - 1) else 0
    | .min => if signed then 2 ^ (w - 1) - 1 else 2 ^ w - 1
  else
    match o with
    | .add => signBit (elemFmt t) true
    | .max => signBit (elemFmt t) true + (elemFmt t).inf
    | .min => (elemFmt t).inf

/-- One combination, rounded RNE (R109, R111). -/
def redCombine (o : RedOp) (signed : Bool) (t : ElemType) (x y : Nat) : Rounded :=
  let w := elemWidth t
  let f := elemFmt t
  if t.isInt then
    match o with
    | .add => ⟨(x + y) % 2 ^ w, 0⟩
    | .max => ⟨pickAt true signed w x y, 0⟩
    | .min => ⟨pickAt false signed w x y, 0⟩
  else
    match o with
    | .add => (addF .rne (decodeF f x) (decodeF f y)).round f .rne 0
    | .max => exactBits f (selectF true (decodeF f x) (decodeF f y))
    | .min => exactBits f (selectF false (decodeF f x) (decodeF f y))

/-- The element, or the identity for an inactive one (R111). -/
def State.redElems (s : State) (o : RedOp) (signed : Bool) (t : ElemType) (a : Reg) (pg : PReg) : List Nat :=
  (List.range (s.elems (elemWidth t))).map fun e =>
    if activeAt (s.preg pg) (elemWidth t) e then s.elem t a e else redIdentity o signed t

/-- One level of the pairwise tree: adjacent results combined, lower index first. -/
def redLevel (f : Nat → Nat → Rounded) : List Rounded → List Rounded
  | x :: y :: rest =>
    let r := f x.bits y.bits
    ⟨r.bits, r.flags ||| x.flags ||| y.flags⟩ :: redLevel f rest
  | xs => xs

/-- The pairwise tree over at most 2^k elements (R111). -/
def redTree (f : Nat → Nat → Rounded) : Nat → List Rounded → Rounded
  | 0, xs => xs.headD ⟨0, 0⟩
  | k + 1, xs => redTree f k (redLevel f xs)

/-- How a reduction of integers is placed in xd (R215). -/
def placeRed (signed : Bool) (t : ElemType) (v : Nat) : Word :=
  if t.isInt && signed then BitVec.ofInt 64 (signedAt (elemWidth t) v) else BitVec.ofNat 64 v

/-- VRED (R215). -/
def redOp (o : RedOp) (signed : Bool) (d a : Reg) (pg : PReg) (t : ElemType) : Op Unit :=
  modify fun s =>
    let r := redTree (redCombine o signed t) 7 ((s.redElems o signed t a pg).map fun v => ⟨v, 0⟩)
    (s.setX d (placeRed signed t r.bits)).raiseFlags r.flags

/-- VRED.ADD. -/
def execVredAdd (d a : Reg) (pg : PReg) (t : ElemType) (s : State) := finish (redOp .add true d a pg t) s

/-- VRED.MAX, signed or floating. -/
def execVredMax (d a : Reg) (pg : PReg) (t : ElemType) (s : State) := finish (redOp .max true d a pg t) s

/-- VRED.MAX, unsigned. -/
def execVredMaxUnsigned (d a : Reg) (pg : PReg) (t : ElemType) (s : State) := finish (redOp .max false d a pg t) s

/-- VRED.MIN, signed or floating. -/
def execVredMin (d a : Reg) (pg : PReg) (t : ElemType) (s : State) := finish (redOp .min true d a pg t) s

/-- VRED.MIN, unsigned. -/
def execVredMinUnsigned (d a : Reg) (pg : PReg) (t : ElemType) (s : State) := finish (redOp .min false d a pg t) s

/-- The partial results of a scan after an element that has been taken (R111). -/
def scanFrom (f : Nat → Nat → Rounded) (acc : Nat) : List Nat → List Rounded
  | [] => []
  | x :: xs =>
    let r := f acc x
    r :: scanFrom f r.bits xs

/-- VSCAN (R215): out[0] is the first element as it stands. -/
def scanOp (o : RedOp) (signed : Bool) (d a : Reg) (pg : PReg) (t : ElemType) : Op Unit :=
  modify fun s =>
    let outs : List Rounded := match s.redElems o signed t a pg with
      | [] => []
      | x :: xs => ⟨x, 0⟩ :: scanFrom (redCombine o signed t) x xs
    let w := elemWidth t
    (s.setV d (mergeElems (s.vreg d) (s.preg pg) w (s.elems w) fun e => ((outs[e]?).getD ⟨0, 0⟩).bits)).raiseFlags
      (outs.foldl (fun acc r => acc ||| r.flags) 0)

/-- VSCAN.ADD. -/
def execVscanAdd (d a : Reg) (pg : PReg) (t : ElemType) (s : State) := finish (scanOp .add true d a pg t) s

/-- VSCAN.MAX, signed or floating. -/
def execVscanMax (d a : Reg) (pg : PReg) (t : ElemType) (s : State) := finish (scanOp .max true d a pg t) s

/-- VSCAN.MAX, unsigned. -/
def execVscanMaxUnsigned (d a : Reg) (pg : PReg) (t : ElemType) (s : State) := finish (scanOp .max false d a pg t) s

/-- Whether a pattern lies strictly beyond another, or is a number where the other is NaN (R109). -/
def beyond (max signed : Bool) (t : ElemType) (best x : Nat) : Bool :=
  if t.isInt then
    let w := elemWidth t
    let lt (p q : Nat) : Bool := if signed then decide (signedAt w p < signedAt w q) else decide (p < q)
    if max then lt best x else lt x best
  else
    let b := decodeF (elemFmt t) best
    let y := decodeF (elemFmt t) x
    (b.isNan && !y.isNan) || (if max then ltTotal b y else ltTotal y b)

/-- The index of the extreme among active elements, the lowest on a tie (R215). -/
def argmFrom (max signed : Bool) (t : ElemType) : Option (Nat × Nat) → List (Nat × Nat) → Option (Nat × Nat)
  | best, [] => best
  | none, p :: rest => argmFrom max signed t (some p) rest
  | some b, p :: rest => argmFrom max signed t (if beyond max signed t b.2 p.2 then some p else some b) rest

/-- VARGM (R215). -/
def argmOp (max signed : Bool) (d a : Reg) (pg : PReg) (t : ElemType) : Op Unit :=
  modify fun s =>
    let w := elemWidth t
    let es := ((List.range (s.elems w)).filter fun e => activeAt (s.preg pg) w e).map fun e => (e, s.elem t a e)
    let v : Word := match argmFrom max signed t none es with
      | none => BitVec.allOnes 64
      | some (e, _) => BitVec.ofNat 64 e
    (s.setX d v).raiseFlags (flagIf (!t.isInt && es.any fun p => (decodeF (elemFmt t) p.2).isSig) flagNv)

/-- VARGM.MAX, signed or floating. -/
def execVargmMax (d a : Reg) (pg : PReg) (t : ElemType) (s : State) := finish (argmOp true true d a pg t) s

/-- VARGM.MAX, unsigned. -/
def execVargmMaxUnsigned (d a : Reg) (pg : PReg) (t : ElemType) (s : State) := finish (argmOp true false d a pg t) s

/-- VARGM.MIN, signed or floating. -/
def execVargmMin (d a : Reg) (pg : PReg) (t : ElemType) (s : State) := finish (argmOp false true d a pg t) s

/-- VARGM.MIN, unsigned. -/
def execVargmMinUnsigned (d a : Reg) (pg : PReg) (t : ElemType) (s : State) := finish (argmOp false false d a pg t) s

/-! ## Random numbers -/

/-- VRNG: every step is consumed, whatever pg holds (R221). -/
def vrngOp (d : Reg) (pg : PReg) (t : ElemType) : Op Unit := do
  let s ← get
  let run ← drawSteps (s.vw / 128)
  let r := packElems 128 (run.map BitVec.toNat)
  vecInt t d pg fun _ e => elemAt r (elemWidth t) e

/-- VRNG. -/
def execVrng (d : Reg) (pg : PReg) (t : ElemType) (s : State) := finish (vrngOp d pg t) s

/-- VRNGC: keys from va, counters from vb (R222). -/
def vrngcOp (d a b : Reg) (pg : PReg) (t : ElemType) : Op Unit := do
  let s ← get
  let r := packElems 128 ((List.range (s.vw / 128)).map fun j =>
    (crng (BitVec.ofNat 64 (elemAt (s.vreg a) 128 j)) (BitVec.ofNat 128 (elemAt (s.vreg b) 128 j))).toNat)
  vecInt t d pg fun _ e => elemAt r (elemWidth t) e

/-- VRNGC. -/
def execVrngc (d a b : Reg) (pg : PReg) (t : ElemType) (s : State) := finish (vrngcOp d a b pg t) s

end Sys2Proof.Machine
end

