-- ==== Sys2Proof/Machine/Records.lean ====
section
/-! DEFINITION. Task records (R38 to R42, R177, R379): their layout, the join and bind steps, firing, and the record
operations of instructions and of the device. -/

namespace Sys2Proof.Machine

/-- A task record read from memory (R38). -/
structure TaskRecord where
  code : Nat
  frame : Nat
  join : Int
  bseq : Nat
  ctx : Nat
  lvl : Nat
  tgt : Nat
  state : Nat
  deriving DecidableEq, Repr

/-- Record states (R39). -/
def stFree : Nat := 0
def stUnbound : Nat := 1
def stArmed : Nat := 2
def stFiredUnbound : Nat := 3
def stReady : Nat := 4
def stRunning : Nat := 5
def stSaved : Nat := 6
def stDone : Nat := 7

/-- A 32-bit pattern read signed. -/
def signed32 (n : Nat) : Int := if n % 2 ^ 32 < 2 ^ 31 then (n % 2 ^ 32 : Nat) else ((n % 2 ^ 32 : Nat) : Int) - 2 ^ 32

/-- The record in 32 bytes, read as one number (R38). -/
def TaskRecord.ofNat (v : Nat) : TaskRecord :=
  { code := bits v 47 0, frame := bits v (64 + 47) 64, join := signed32 (bits v (128 + 63) (128 + 32)),
    bseq := bits v (128 + 31) (128 + 16), ctx := bits v (192 + 63) (192 + 52), lvl := bits v (192 + 51) (192 + 49),
    tgt := bits v (192 + 48) (192 + 40), state := bits v (192 + 39) (192 + 36) }

/-- Whether every must-be-zero field of a record is zero (R38). -/
def recordZeros (v : Nat) : Bool :=
  decide (bits v 63 48 = 0) && decide (bits v (64 + 63) (64 + 48) = 0) && decide (bits v (128 + 15) 128 = 0)
    && decide (bits v (192 + 35) 192 = 0) && decide (bits v 0 0 = 0)

/-- The 32 bytes of a record (R38). -/
def TaskRecord.bytes (r : TaskRecord) : List Byte :=
  natToBytes 8 r.code ++ natToBytes 8 r.frame ++
  natToBytes 8 ((r.join % 2 ^ 32).toNat * 2 ^ 32 + r.bseq * 2 ^ 16) ++
  natToBytes 8 (r.ctx * 2 ^ 52 + r.lvl * 2 ^ 49 + r.tgt * 2 ^ 40 + r.state * 2 ^ 36)

/-- Saturation to 32 signed bits (R40). -/
def satS32 (i : Int) : Int := if i < -2 ^ 31 then -2 ^ 31 else if 2 ^ 31 - 1 < i then 2 ^ 31 - 1 else i

/-- The record after join_update, without the firing (R40). -/
def TaskRecord.joined (r : TaskRecord) (delta : Int) : TaskRecord :=
  let j := satS32 (r.join + delta)
  let state :=
    if 0 < r.join ∧ j ≤ 0 then
      (if r.state = stArmed then stReady else if r.state = stUnbound then stFiredUnbound else r.state)
    else if r.join ≤ 0 ∧ 0 < j ∧ r.state = stDone then (if r.code = 0 then stUnbound else stArmed)
    else r.state
  { r with join := j, state := state }

/-- Whether join_update fires the record (R40). -/
def TaskRecord.fires (r : TaskRecord) (delta : Int) : Bool :=
  decide (0 < r.join) && decide (satS32 (r.join + delta) ≤ 0) && decide (r.state = stArmed)

/-- Whether join_update sets ERRS.join (R40). -/
def TaskRecord.joinErr (r : TaskRecord) (delta : Int) : Bool :=
  decide (satS32 (r.join + delta) < 0) || decide (satS32 (r.join + delta) ≠ r.join + delta)

/-- The record after bind, without the firing (R40). -/
def TaskRecord.bound (r : TaskRecord) (code frame : Nat) : TaskRecord :=
  { r with
    code := code
    frame := frame
    bseq := (r.bseq + 1) % 2 ^ 16
    state := if r.state = stUnbound then stArmed else if r.state = stFiredUnbound then stReady else r.state }

/-- Places a fired record's task on its target's ready queue (R40, R41). A record that continues ch1 chains hands every one of
them on (R46). -/
def State.fire (s : State) (id va : Nat) (r : TaskRecord) : State :=
  match s.ctx? id with
  | none => s
  | some c =>
    let chain := (c.chainRecords.filter fun p => decide (p.1 = va)).map Prod.snd
    (s.setCtx id { c with chainRecords := c.chainRecords.filter fun p => decide (p.1 ≠ va) }).enqueue id r.tgt
      ⟨.ready, r.lvl, .entry ⟨r.code, r.frame, va, chain, none⟩, 0⟩

/-- Reads a record for an operation (R177): none when its line is poisoned. -/
def openRecord (w : Who) (id va : Nat) : Op (Option (TaskRecord × List (Loc × Nat))) := do
  if va % 32 ≠ 0 then raiseAt codeAlign va
  let ls ← checkRange w .atomic va 32
  let s ← get
  if s.anyPoison ls then pure none
  else
    let v := bytesToNat (s.readLocs ls)
    let r := TaskRecord.ofNat v
    if r.state = stFree ∨ 8 ≤ r.state ∨ r.ctx ≠ id ∨ !recordZeros v then raiseAt codeProt va
    pure (some (r, ls))

/-- Writes a record back. -/
def closeRecord (w : Who) (ls : List (Loc × Nat)) (r : TaskRecord) : Op Unit :=
  modify fun s => (s.writeLocs w ls r.bytes).countPort w ls

/-- join_update at a record, as one step (R40): the record after it, or none when poison stopped it. errs names the logical
core whose ERRS takes the indication; none for the record's target (R322). -/
def joinStep (w : Who) (id va : Nat) (delta : Int) (errs : Option Nat) : Op (Option TaskRecord) := do
  match ← openRecord w id va with
  | none => pure none
  | some (r, ls) =>
    let r' := r.joined delta
    closeRecord w ls r'
    if r.fires delta then modify (·.fire id (canonVa w va) r')
    if r.joinErr delta then modify (·.setErr id (errs.getD r.tgt) errJoin)
    pure (some r')

/-- bind at a record, as one step (R40). -/
def bindStep (w : Who) (id va code frame : Nat) : Op (Option TaskRecord) := do
  match ← openRecord w id va with
  | none => pure none
  | some (r, ls) =>
    let r' := r.bound code frame
    closeRecord w ls r'
    if r.state = stFiredUnbound then modify (·.fire id (canonVa w va) r')
    pure (some r')

/-- A record step of the running task (R177): none when poison lost it, which is counted, or raised under
trap-on-poison. -/
def myRecord (va : Nat) (op : Who → Nat → Op (Option TaskRecord)) : Op (Option TaskRecord) := do
  let s ← get
  match ← op s.who s.act.ctx with
  | some r => pure (some r)
  | none => do
    meetPoison true va
    pure none

/-- A record operation of the device (R177, R188): whether it is finished, done or reported, rather than to be made again.
A failure posts a fault record naming the record. -/
def deviceRecord (w : Who) (id l va source : Nat) (op : Op (Option TaskRecord)) : Op Bool := do
  match ← deviceOn ((← get).dieOfCore id l) id op with
  | .done (some _) => pure true
  | .done none => do
    modify fun s => (s.countPoison id l).postFault id l 0 source codePois 0 (canonVa w va) 0 0
    pure true
  | .later => pure false
  | .failed code _ => do
    modify fun s => s.postFault id l 0 source code 0 (canonVa w va) 0 0
    pure true

/-- The device's join_update on a record that a core named (R377, R378). -/
def deviceJoin (id l va : Nat) (delta : Int) (source : Nat) : Op Bool :=
  deviceRecord (.core id l) id l va source (joinStep (.core id l) id va delta none)

/-- The step of a transition, which changes the state field alone (R38, R379): whether the record took it, rather than that its page is
discarded, where it is dropped and counted; none on poison. -/
def transitionWrite (t : Transition) : Op (Option Bool) := do
  let w : Who := .core t.ctx t.lcore
  let ls ← checkRange w .atomic t.record 32
  let s ← get
  if s.anyPoison ls then pure none
  else if ls.any (fun p => p.1.discarded) then do
    set (s.countDropped w ls)
    pure (some false)
  else
    let v := bytesToNat (s.readLocs ls)
    modify fun s => (s.writeLocs w ls (natToBytes 32 (withField v (192 + 36) 4 t.state))).countPort w ls
    pure (some true)

/-- A RUNNING, SAVED or DONE transition (R42, R379): whether it is finished. A PAGE goes to firmware and the step is made again;
poison and every other failure, RES among them, are reported with source 7 and drop the step. -/
def transitionStep (t : Transition) : Op Bool := do
  let report (code : Nat) : Op Unit := modify (·.postFault t.ctx t.lcore 0 7 code 0 t.record 0 0)
  match ← attempt (transitionWrite t) with
  | .error (.fault code addr _ _) =>
    if code = codePage then
      match ← deviceOn ((← get).dieOfCore t.ctx t.lcore) t.ctx (raiseAt (α := Unit) code addr) with
      | .failed code _ => do
        report code
        pure true
      | _ => pure false
    else do
      report code
      pure true
  | .error .stall => pure false
  | .ok none => do
    modify (·.countPoison t.ctx t.lcore)
    report codePois
    pure true
  | .ok (some _) => pure true

end Sys2Proof.Machine
end

