-- ==== Sys2Proof/Machine/Jobs.lean ====
section
/-! DEFINITION. Job tables, handles and status words (R225 to R227, R244), and the energy budget that issue draws on (R248,
R350, R351). -/

namespace Sys2Proof.Machine

/-- Status codes of R227. -/
def jobPending : Nat := 0
def jobDone : Nat := 1
def jobPoison : Nat := 2
def jobRefused : Nat := 3
def jobFault : Nat := 4
def jobTensor : Nat := 5
def jobRetired : Nat := 6

/-- A status word (R227). -/
def jobWord (num code detail flags : Nat) (ovr : Bool) : Word :=
  BitVec.ofNat 64 (num % 2 ^ 32 * 2 ^ 32 + (if ovr then 2 ^ 23 else 0) + flags % 32 * 2 ^ 16 + detail % 256 * 2 ^ 8 + code)

/-- The job table of a slot index (R226). -/
def LCore.table (k : LCore) (slot : Nat) : JobTable := (assocGet k.jobs slot).getD ⟨0, []⟩

/-- Whether a number is among the 64 most recent before next (R227). -/
def JobTable.recent (t : JobTable) (num : Nat) : Bool := decide ((t.next + 2 ^ 32 - 1 - num) % 2 ^ 32 < 64)

/-- The status word of a job number: RETIRED for one that is not kept (R227). -/
def JobTable.word (t : JobTable) (num : Nat) : Word :=
  match (if t.recent num then assocGet t.status num else none) with
  | some w => w
  | none => jobWord num jobRetired 0 0 false

/-- Whether a status word is of a pending job. -/
def wordPending (w : Word) : Bool := w.toNat % 16 == jobPending

/-- The table after it took its next number (R225 step 4). -/
def JobTable.take (t : JobTable) : JobTable :=
  let t' : JobTable := ⟨(t.next + 1) % 2 ^ 32, (t.next, jobWord t.next jobPending 0 0 false) :: t.status⟩
  { t' with status := t'.status.filter fun p => t'.recent p.1 }

/-- A job handle (R226). -/
def jobHandle (l slot num : Nat) : Word := BitVec.ofNat 64 (l * 2 ^ 39 + slot * 2 ^ 36 + num)

/-- Whether a handle has a bit set that must be zero (R244). -/
def badHandle (h : Nat) : Bool := decide (bits h 63 48 ≠ 0) || decide (bits h 35 32 ≠ 0)

/-- The status word of a handle in a context's tables (R244). -/
def State.jobStatus (s : State) (id h : Nat) : Word :=
  ((s.lcore id (bits h 47 39)).table (bits h 38 36)).word (bits h 31 0)

/-- The context whose completion links on a job take the status with which it leaves PENDING (R268). -/
def Ctx.noteStatus (c : Ctx) (handle : Nat) (w : Word) : Ctx :=
  { c with links := c.links.map fun k => if k.handle = handle ∧ k.status = none then { k with status := some w } else k }

/-- Completes a job with a status word: its table, where it still keeps the job, and its completion links. -/
def State.setJob (s : State) (id l slot num : Nat) (w : Word) : State :=
  (s.modCore id l fun k =>
    let t := k.table slot
    if t.recent num && (assocGet t.status num).isSome then
      { k with jobs := assocPut k.jobs slot { t with status := assocPut t.status num w } }
    else k).modCtx id fun c => c.noteStatus (jobHandle l slot num).toNat w

/-- Issue stalls while job number j - 64 of the table is pending (R225 step 2, R226). -/
def stallOnTable : Op Unit := do
  let s ← get
  let t := (s.lcore s.act.ctx s.act.lcore).table s.cur.idx
  match assocGet t.status ((t.next + 2 ^ 32 - 64) % 2 ^ 32) with
  | some w => if wordPending w then throw .stall
  | none => pure ()

/-- Takes the next job number of the running slot's table (R225 step 4). -/
def takeNumber : Op Nat := do
  let s ← get
  let slot := s.cur.idx
  let t := (s.lcore s.act.ctx s.act.lcore).table slot
  modMyCore fun k => { k with jobs := assocPut k.jobs slot t.take }
  pure t.next

/-- Writes the handle of a number of the running slot. -/
def writeHandle (d : Reg) (num : Nat) : Op Unit := do
  let s ← get
  wrX d (jobHandle s.act.lcore s.cur.idx num)

/-! ## Budgets -/

/-- The debit factor of an operating point (R348). -/
def pointFactor : Nat → Nat
  | 0 => 5 | 1 => 6 | 2 => 7 | 3 => 8 | 4 => 10 | 5 => 12 | 6 => 14 | _ => 16

/-- The cost of a class in nJ (R248). -/
def classCost : Nat → Nat
  | 0 => 4 | 1 => 7 | 2 => 10 | _ => 14

/-- The rail whose point scales a debit (R350). -/
inductive Rail where
  | mx | fb | hub
  deriving DecidableEq, Repr

/-- The factor in force for a rail and island (R350). -/
def State.factor (s : State) (onBi : Bool) : Rail → Nat
  | .hub => 16
  | .mx => if onBi then pointFactor s.power.mx else 2
  | .fb => if onBi then pointFactor s.power.fb else 2

/-- Quotient rounded up. -/
def ceilDiv (a b : Nat) : Nat := (a + b - 1) / b

/-- Whether a budget is without limit: a share of 0xFFFF (R351). -/
def ebudFree (e : Word) : Bool := e.toNat / 2 ^ 48 == 0xFFFF

/-- A budget after a debit, floored at 0 (R248). -/
def ebudDebit (e : Word) (d : Nat) : Word :=
  if ebudFree e then e else BitVec.ofNat 64 (e.toNat / 2 ^ 48 * 2 ^ 48 + (e.toNat % 2 ^ 48 - d))

/-- A budget after a refill (R351): a share of 0 gains nothing; one without limit is refilled like the others. -/
def ebudRefill (e : Word) : Word :=
  let share := e.toNat / 2 ^ 48
  if share = 0 then e
  else BitVec.ofNat 64 (share * 2 ^ 48 + Nat.min (e.toNat % 2 ^ 48 + share) (64 * share))

/-- Waits while EBUD is zero, then debits u block-steps of a class (R225 step 2, R248, R350). -/
def debitIssue (u cls : Nat) (rail : Rail) : Op Unit := do
  let s ← get
  let c ← myCtx
  if !ebudFree c.ebud && c.ebud.toNat % 2 ^ 48 == 0 then throw .stall
  let q := s.factor (coreIsBi s.cur.core) rail
  modMyCtx fun c => { c with ebud := ebudDebit c.ebud (ceilDiv (u * classCost cls * q) 16) }

/-! ## Completion -/

/-- Completes a job. Of a split job the first half to finish leaves its status for the second, which combines the two by
rank: FAULT, POISON, DONE (R236). -/
def State.completeJob (s : State) (j : Job) (code detail flags : Nat) (ovr : Bool) : State :=
  match j.half with
  | .whole => s.setJob j.ctx j.lcore j.slot j.num (jobWord j.num code detail flags ovr)
  | .own | .mate =>
    let own := decide (j.half = .own)
    match s.halves.find? fun h => h.ctx = j.ctx && h.lcore = j.lcore && h.slot = j.slot && h.num = j.num with
    | none => { s with halves := s.halves ++ [⟨j.ctx, j.lcore, j.slot, j.num, own, j.clus, code, detail, flags, ovr⟩] }
    | some h =>
      let rank (c : Nat) : Nat := if c = jobFault then 2 else if c = jobPoison then 1 else 0
      let mine : Bool := decide (rank h.code < rank code) || (decide (rank code = rank h.code) && own)
      let s := { s with halves := s.halves.filter fun g => decide (g ≠ h) }
      s.setJob j.ctx j.lcore j.slot j.num
        (jobWord j.num (if mine then code else h.code) (if mine then detail else h.detail) (flags ||| h.flags)
          (ovr || h.ovr))

end Sys2Proof.Machine
end

