-- ==== Sys2Proof/Machine/Queues.lean ====
section
/-! DEFINITION. The queues that tasks wait on: feeds (R59, R188, R362), die queues (R294 to R298) and logit queues (R302 to
R304), with their registered waiters served in order of registration. -/

namespace Sys2Proof.Machine

/-- Hands an item to the oldest waiter that a test admits and that has none yet; its bytes depend on the waiter. -/
def giveOldest (test : Wait → Bool) (item : Wait → List Byte × List Byte) : List Wait → List Wait
  | [] => []
  | w :: rest =>
    if test w && w.got.isNone then { w with got := some (item w) } :: rest else w :: giveOldest test item rest

/-- Whether a context has a waiter that a test admits and that has nothing yet. -/
def Ctx.waiting (c : Ctx) (test : Wait → Bool) : Bool := c.waits.any fun w => test w && w.got.isNone

/-! ## Feeds -/

/-- A feed descriptor (R362). -/
structure Feed where
  base : Nat
  lcap : Nat
  put : Nat
  take : Nat
  deriving DecidableEq, Repr

/-- Address of the descriptor of feed n in the context descriptor (R360). -/
def feedAddr (c : Ctx) (n : Nat) : Nat := c.desc + 0x100 + 16 * n

/-- The descriptor of a feed; lcap 0 means no feed. -/
def State.feed (s : State) (c : Ctx) (n : Nat) : Feed :=
  let w0 := s.physNat (feedAddr c n) 8
  let w1 := s.physNat (feedAddr c n + 8) 8
  ⟨bits w0 47 6 * 64, bits w0 3 0, bits w1 63 32, bits w1 31 0⟩

/-- Records in a feed. -/
def Feed.count (f : Feed) : Nat := (f.put + 2 ^ 32 - f.take) % 2 ^ 32

/-- Room in a feed (R362). -/
def Feed.room (f : Feed) : Nat := 2 ^ f.lcap - f.count

/-- Address of the ring slot of a record number. -/
def Feed.slot (f : Feed) (k : Nat) : Nat := f.base + 64 * (k % 2 ^ f.lcap)

/-- Writes the counters of a feed of context id (R362), for which its core 0 stands. -/
def State.setFeed (s : State) (id : Nat) (c : Ctx) (n : Nat) (f : Feed) : State :=
  s.physWriteFor (.core id 0) (feedAddr c n + 8) (natToBytes 8 (f.put % 2 ^ 32 * 2 ^ 32 + f.take % 2 ^ 32))

/-- Takes the oldest record of a feed: its bytes, the address at which they met poison, and the records left. The ring is read at
its address in the context (DEDUCED log 23). -/
def feedTake (id n : Nat) : Op (Option (List Byte × Option Nat × Nat)) := do
  let c ← theCtx id
  let f := (← get).feed c n
  if f.lcap = 0 ∨ f.count = 0 then pure none
  else
    let va := f.slot f.take
    let ls ← checkRange (.core id 0) .load va 64
    let s ← get
    let f' := { f with take := (f.take + 1) % 2 ^ 32 }
    modify (·.setFeed id c n f')
    pure (some (s.readLocs ls, s.poisonVa va ls, f'.count))

/-- Whether a wait is on feed n. -/
def onFeed (n : Nat) (w : Wait) : Bool := decide (w.kind = .feed n)

/-- The logical core of the oldest waiter that a test admits and that has nothing yet. -/
def Ctx.waiterCore (c : Ctx) (test : Wait → Bool) : Nat :=
  ((c.waits.find? fun w => test w && w.got.isNone).map Wait.lcore).getD 0

/-- Hands a record to the oldest waiter of a feed, while there are both (R188). The ring is read as a device operation: a PAGE there
goes to firmware and a RES wakes the DRAM (R316, R340), and its poison is counted (R145); a record that cannot be read stays. -/
def serveFeed (id n : Nat) : Nat → Op Unit
  | 0 => pure ()
  | fuel + 1 => do
    let c ← theCtx id
    if c.waiting (onFeed n) then
      match ← device id (feedTake id n) with
      | .done (some (bs, met, _)) => do
        if met.isSome then modify (·.countPoison id (c.waiterCore (onFeed n)))
        modify fun s => s.modCtx id fun c => { c with waits := giveOldest (onFeed n) (fun _ => (bs, [])) c.waits }
        serveFeed id n fuel
      | _ => pure ()

/-! ## Die queues -/

/-- Direction of the queue that a die sends on; 0 is die 1 to die 2. -/
def dieOut (die : Nat) : Nat := if die = 1 then 0 else 1

/-- Direction of the queue that a die receives on. -/
def dieIn (die : Nat) : Nat := 1 - dieOut die

/-- Entries of a direction that hold a place: under way or queued (R294, R297). -/
def State.dieCount (s : State) (dir : Nat) : Nat :=
  (s.dieFlight.filter fun e => decide (e.dir = dir)).length + (s.dieQ.filter fun e => decide (e.dir = dir)).length

/-- A value of a small table of a context; 0 when unlisted. -/
def tableGet (t : List (Nat × Nat)) (k : Nat) : Nat := (assocGet t k).getD 0

/-- Whether a sequence number is stale under a floor (R294). -/
def staleSeq (seq floor : Nat) : Bool := decide (2 ^ 31 ≤ (seq + 2 ^ 32 - floor) % 2 ^ 32)

/-- Counts n entries of a context as dropped (R296). -/
def State.countStale (s : State) (id dir n : Nat) : State :=
  s.modCtx id fun c => { c with dropped := assocPut c.dropped dir (tableGet c.dropped dir + n) }

/-- Whether a queued entry is of a context and direction. -/
def dieMine (id dir : Nat) (e : DieEntry) : Bool := decide (e.dir = dir) && decide (e.ctx = id)

/-- Discards and counts the queued stale entries of a context (R295). -/
def State.dieFlush (s : State) (id dir : Nat) : State :=
  match s.ctx? id with
  | none => s
  | some c =>
    let gone (e : DieEntry) : Bool := dieMine id dir e && staleSeq e.seq (tableGet c.floors dir)
    { s with dieQ := s.dieQ.filter fun e => !gone e }.countStale id dir (s.dieQ.filter gone).length

/-- Takes the oldest entry of a context: the value DQR writes, and the bytes (R296). -/
def State.dieTake (s : State) (id dir : Nat) : Option (Word × List Byte × State) :=
  match s.ctx? id, s.dieQ.find? (dieMine id dir) with
  | some c, some e =>
    let n := tableGet c.dropped dir
    some (BitVec.ofNat 64 (e.seq * 2 ^ 32 + (if 0xFFFF < n then 0xFFFF else n) * 2 ^ 16), e.bytes,
      { s with dieQ := s.dieQ.erase e }.modCtx id fun c => { c with dropped := assocPut c.dropped dir 0 })
  | _, _ => none

/-- Whether a wait is on a die queue. -/
def onDie (dir : Nat) (w : Wait) : Bool :=
  match w.kind with
  | .die _ d => decide (d = dir)
  | _ => false

/-- Hands entries to the waiters of a die queue in order of registration (R296). -/
def State.serveDie (s : State) (id dir : Nat) : Nat → State
  | 0 => s
  | fuel + 1 =>
    match s.ctx? id with
    | none => s
    | some c =>
      if c.waiting (onDie dir) then
        match (s.dieFlush id dir).dieTake id dir with
        | none => s.dieFlush id dir
        | some (v, bs, s') =>
          (s'.modCtx id fun c => { c with waits := giveOldest (onDie dir) (fun _ => (natToBytes 8 v.toNat, bs)) c.waits })
            |>.serveDie id dir fuel
      else s

/-! ## Logit queues -/

/-- The bytes that a claim of a row writes (R304). -/
def LogitRow.bytes (r : LogitRow) : List Byte :=
  r.words.flatMap (fun w => natToBytes 8 w.toNat) ++ natToBytes 8 r.u.toNat ++
  natToBytes 8 (r.k * 2 ^ 32 + r.slot * 2 ^ 9 + r.lcore) ++ List.replicate 16 0

/-- Whether a row is of a context on a queue. -/
def rowMine (id q : Nat) (r : LogitRow) : Bool := decide (r.q = q) && decide (r.ctx = id)

/-- Claims the oldest row of a context (R304). -/
def State.logitTake (s : State) (id q : Nat) : Option (Word × List Byte × State) :=
  match s.logits.find? (rowMine id q) with
  | some r => some (BitVec.ofNat 64 r.k, r.bytes, { s with logits := s.logits.erase r })
  | none => none

/-- Whether a wait is on a logit queue. -/
def onLogit (q : Nat) (w : Wait) : Bool :=
  match w.kind with
  | .logit _ q' => decide (q' = q)
  | _ => false

/-- Hands rows to the waiters of a logit queue in order of registration (R296, R304). -/
def State.serveLogit (s : State) (id q : Nat) : Nat → State
  | 0 => s
  | fuel + 1 =>
    match s.ctx? id with
    | none => s
    | some c =>
      if c.waiting (onLogit q) then
        match s.logitTake id q with
        | none => s
        | some (v, bs, s') =>
          (s'.modCtx id fun c => { c with waits := giveOldest (onLogit q) (fun _ => (natToBytes 8 v.toNat, bs)) c.waits })
            |>.serveLogit id q fuel
      else s

/-- Rows on a logit queue, of every context (R302). -/
def State.logitCount (s : State) (q : Nat) : Nat := (s.logits.filter fun r => decide (r.q = q)).length

/-- Checks of an address field that also carries flag bits: bits 63:48 zero and a mask of bits zero, else PROT. -/
def checkField (v hi lo : Nat) : Op Unit := require (decide (bits v 63 48 = 0) && decide (bits v hi lo = 0)) codeProt

/-- Checks that a buffer can be written (R196, R296, R304). -/
def checkBuffer (va n : Nat) : Op Unit := do
  let s ← get
  let _ ← checkRange s.who .store va n

end Sys2Proof.Machine
end

