-- ==== Sys2Proof/Machine/Tasks.lean ====
section
/-! DEFINITION. Task creation, record operations, the end of a task and the waits it leaves (R174 to R188). -/

namespace Sys2Proof.Machine

/-! ## Creating tasks -/

/-- Checks a code address: non-zero with bits 63:48 clear, else PROT; even, else ALIGN (R181, R189). -/
def checkCode (v : Nat) : Op Unit := do
  if v = 0 ∨ 2 ^ 48 ≤ v then raiseAt codeProt v
  if v % 2 = 1 then raiseAt codeAlign v

/-- The checks of SPAWN on xa (R178). -/
def checkSpawn (xa : Nat) : Op Unit := do
  require (decide (bits xa 63 60 = 0)) codeProt
  checkCode (bits xa 47 0)

/-- The target core and entry that xa names (R178). -/
def spawnEntry (xa frame : Nat) : QEntry :=
  ⟨.ready, bits xa 59 57, .entry ⟨bits xa 47 0, frame, 0, [], none⟩, 0⟩

/-- Entries of a logical core on its ready queue, saturating (R178). -/
def readyCount (k : LCore) : Nat := Nat.min (k.queue.filter fun e => decide (e.source = .ready)).length 65535

/-- SPAWN (R178). -/
def spawnOp (d : Reg) (xa xb : Nat) : Op Unit := do
  checkSpawn xa
  require (decide (xb < 2 ^ 48)) codeProt
  let s ← get
  let _ ← myCtx
  let tgt := bits xa 56 48
  modify (·.enqueue s.act.ctx tgt (spawnEntry xa xb))
  wrX d (BitVec.ofNat 64 (readyCount ((← get).lcore s.act.ctx tgt)))

/-- SPAWN. -/
def execSpawn (d a b : Reg) (s : State) := finish (spawnOp d (s.x a).toNat (s.x b).toNat) s

/-- SPAWNJ: the increment before the enqueue; neither when poison lost the step (R177, R179). -/
def spawnjOp (d : Reg) (xa xb : Nat) : Op Unit := do
  checkSpawn xa
  let s ← get
  match ← myRecord xb fun w id => joinStep w id xb 1 (some s.act.lcore) with
  | none => pure ()
  | some r => do
    modify (·.enqueue s.act.ctx (bits xa 56 48) (spawnEntry xa xb))
    wrX d (BitVec.ofInt 64 r.join)

/-- SPAWNJ. -/
def execSpawnj (d a b : Reg) (s : State) := finish (spawnjOp d (s.x a).toNat (s.x b).toNat) s

/-! ## Records -/

/-- A join_update of the running task (R177, R180). -/
def myJoin (va : Nat) (delta : Int) : Op Unit := do
  let s ← get
  let _ ← myRecord va fun w id => joinStep w id va delta (some s.act.lcore)

/-- The delta of JDEC (R180). -/
def jdecDelta (xb : Word) : Int := -(Nat.min xb.toNat (2 ^ 31 - 1) : Nat)

/-- The delta of JADD (R180). -/
def jaddDelta (xb : Word) : Int := satS32 xb.toInt

/-- JDEC. -/
def execJdec (a b : Reg) (s : State) := finish (myJoin (s.x a).toNat (jdecDelta (s.x b))) s

/-- JADD. -/
def execJadd (a b : Reg) (s : State) := finish (myJoin (s.x a).toNat (jaddDelta (s.x b))) s

/-- BIND (R181). -/
def bindOp (xa xb xs : Nat) : Op Unit := do
  checkCode xb
  require (decide (xs < 2 ^ 48)) codeProt
  let _ ← myRecord xa fun w id => bindStep w id xa xb xs

/-- BIND: the frame stands in the register of the d field. -/
def execBind (a b d : Reg) (s : State) := finish (bindOp (s.x a).toNat (s.x b).toNat (s.x d).toNat) s

/-! ## Ending a task -/

/-- One fewer initial task of a launch running (R60). -/
def State.initialEnded (s : State) (t : Task) : State :=
  match t.launch with
  | none => s
  | some n => s.modCtx t.ctx fun c => { c with
      launches := c.launches.map fun l => if l.id = n then { l with running := l.running - 1 } else l }

/-- Opens ch1 of logical cores whose chains have ended (R46). -/
def State.openCores (s : State) (id : Nat) (ls : List Nat) : State :=
  ls.foldl (fun s l => s.modCore id l fun k => { k with ch1Closed := false }) s

/-- Opens ch1 for a task whose chains have ended (R46). -/
def State.openCh1 (s : State) (t : Task) : State := s.openCores t.ctx t.chain

/-- Ends the running task (R35, R42, R46, R175). cont is the record whose task continues its ch1 chains, none after END and
ENDJ, which open ch1. -/
def State.endTask (s : State) (cont : Option Nat) : State :=
  let t := s.act
  let s := (s.transition t 7).initialEnded t
  let s := match cont with
    | some va => s.modCtx t.ctx fun c => { c with chainRecords := c.chainRecords ++ t.chain.map fun l => (va, l) }
    | none => s.openCh1 t
  s.freeSlot

/-- END (R182). -/
def execTaskEnd (s : State) : Host.Outcome State Fault Refusal := .next (s.endTask none)

/-- The running task's own record becomes DONE at once, ahead of its end (R182). -/
def doneFirst (va : Nat) : Op Unit := do
  let s ← get
  match ← openRecord s.who s.act.ctx va with
  | none => pure ()
  | some (r, ls) =>
    closeRecord s.who ls { r with state := stDone }
    modify fun s => { s with
      trans := s.trans.filter fun t => decide (¬(t.ctx = s.act.ctx ∧ t.record = s.act.record))
      act := { s.act with record := 0 } }

/-- ENDJ (R182). -/
def endjOp (va : Nat) : Op Unit := do
  let s ← get
  if s.act.record ≠ 0 ∧ canonVa s.who va = s.act.record then doneFirst va
  myJoin va (-1)
  modify (·.endTask none)

/-- ENDJ. -/
def execEndj (a : Reg) (s : State) := perform 4 (endjOp (s.x a).toNat) s

/-- YLD: the slicing path, with resumption at the next instruction (R183). -/
def execYld (s : State) : Host.Outcome State Fault Refusal := .next (s.slice (s.act.pc + 4))

/-! ## ENDW -/

/-- ENDW.JOIN (R186): a poisoned record ends the task, binds nothing and is reported (R177). -/
def endwJoinOp (xa xb : Nat) : Op Unit := do
  checkCode xb
  let s ← get
  let x29 := (s.x 29).toNat
  require (decide (x29 < 2 ^ 48)) codeProt
  let va := canonVa s.who xa
  let r ← myRecord xa fun w id => do
    match ← openRecord w id xa with
    | none => pure none
    | some (r, _) =>
      if r.state = stUnbound ∨ r.state = stArmed ∨ r.state = stFiredUnbound then pure (some r) else raiseAt codeProt xa
  match r with
  | none => do
    modify fun s => s.postFault s.act.ctx s.act.lcore s.cur.idx 1 codePois 0 va 0 0
    modify (·.endTask (some va))
  | some _ => do
    let t := s.act
    modify (·.endTask (some va))
    let _ ← bindStep s.who t.ctx xa xb x29

/-- ENDW.JOIN. -/
def execEndwJoin (a b : Reg) (s : State) := perform 4 (endwJoinOp (s.x a).toNat (s.x b).toNat) s

/-- The checks of ENDW on the continuation record C (R184): deposit is the deposit's size, own that C.tgt must be the
issuing logical core. A poisoned C is counted and passes (R177). -/
def checkCont (xb deposit : Nat) (own : Bool) : Op Unit := do
  let s ← get
  let _ ← myRecord xb fun w id => do
    match ← openRecord w id xb with
    | none => pure none
    | some (r, _) =>
      if ¬(r.state = stUnbound ∨ r.state = stArmed) ∨ r.join < 1 then raiseAt codeProt xb
      if deposit ≠ 0 then
        if r.frame % deposit ≠ 0 then raiseAt codeAlign r.frame
      if own && decide (r.tgt ≠ s.act.lcore) then raiseAt codeProt xb
      pure (some r)

/-- Registers a wait of the running task and ends it (R184). -/
def registerWait (kind : WaitKind) (xb : Nat) (got : Option (List Byte × List Byte)) : Op Unit := do
  let s ← get
  let va := canonVa s.who xb
  modMyCtx fun c => { c with waits := c.waits ++ [⟨kind, va, s.act.lcore, got⟩] }
  modify (·.endTask (some va))

/-- ENDW.JOB (R185). -/
def endwJobOp (xa xb : Nat) : Op Unit := do
  checkCont xb 8 false
  require (!badHandle xa) codeProt
  registerWait (.job xa) xb none

/-- ENDW.JOB. -/
def execEndwJob (a b : Reg) (s : State) := perform 4 (endwJobOp (s.x a).toNat (s.x b).toNat) s

/-- ENDW.CB: registration and claiming in one port step (R187). wrec holds C as xb names it; the wait itself names it in the issuer's
remote-window form (R378, DEDUCED log 41). -/
def endwCbOp (xa xb : Nat) : Op Unit := do
  checkCont xb 8 false
  let s ← get
  let (owner, off, c) ← slotNode (cbOpen s.who xa)
  if 1 ≤ c.filled then do
    cbClose s.act.ctx owner off { c with take := (c.take + 1) % 2 ^ 32 }
    registerWait (.cb xa) xb (some (natToBytes 8 (cbEntryVa xa owner c (c.take % 2 ^ c.lcnt)), []))
  else do
    if c.wrec ≠ 0 then raiseAt codeProt xa
    cbClose s.act.ctx owner off { c with wrec := xb }
    registerWait (.cb xa) xb none

/-- ENDW.CB. -/
def execEndwCb (a b : Reg) (s : State) := perform 4 (endwCbOp (s.x a).toNat (s.x b).toNat) s

/-- The episode that holds a core's latest unreleased arrival (R185, R192). -/
def Barrier.awaited (b : Barrier) (l : Nat) : Option Nat :=
  if b.arrived.contains l then some (b.episode + (b.held.filter fun h => decide (h.1 = l)).length) else none

/-- ENDW.BAR (R185): without an arrival awaiting release the condition holds at once, with a deposit of 0. -/
def endwBarOp (xa xb : Nat) : Op Unit := do
  checkCont xb 8 true
  require (decide (xa < 16)) codeProt
  let s ← get
  let c ← myCtx
  match (assocGet c.bars xa).bind fun b => b.awaited s.act.lcore with
  | some e => registerWait (.bar xa e) xb none
  | none => registerWait (.bar xa 0) xb (some (natToBytes 8 0, []))

/-- ENDW.BAR. -/
def execEndwBar (a b : Reg) (s : State) := perform 4 (endwBarOp (s.x a).toNat (s.x b).toNat) s

/-- ENDW.FEED (R185, R188). -/
def endwFeedOp (xa xb : Nat) : Op Unit := do
  checkCont xb 64 false
  require (decide (xa < 16)) codeProt
  let s ← get
  let c ← myCtx
  require (decide ((s.feed c xa).lcap ≠ 0)) codeProt
  registerWait (.feed xa) xb none
  serveFeed s.act.ctx xa (c.waits.length + 1)

/-- ENDW.FEED. -/
def execEndwFeed (a b : Reg) (s : State) := perform 4 (endwFeedOp (s.x a).toNat (s.x b).toNat) s

/-- ENDW.ROOM (R185). -/
def endwRoomOp (xa xb : Nat) : Op Unit := do
  checkCont xb 0 false
  let s ← get
  let die := coreDie s.cur.core
  require (decide (xa ≤ 2) && !(decide (xa = 1) && decide (die = 0))) codeProt
  registerWait (.room xa die) xb none

/-- ENDW.ROOM. -/
def execEndwRoom (a b : Reg) (s : State) := perform 4 (endwRoomOp (s.x a).toNat (s.x b).toNat) s

/-- ENDW.DQ: a die queue or the logit queue by bit 0 of xa (R296). -/
def endwDqOp (xa xb : Nat) : Op Unit := do
  checkCont xb 8 false
  checkField xa 5 1
  let s ← get
  let die := coreDie s.cur.core
  let buf := canonVa s.who (bits xa 47 6 * 64)
  let c ← myCtx
  if xa % 2 = 0 then do
    require (decide (die ≠ 0)) codeProt
    checkBuffer (bits xa 47 6 * 64) 256
    registerWait (.die buf (dieIn die)) xb none
    modify (·.serveDie s.act.ctx (dieIn die) (c.waits.length + 1))
  else do
    checkBuffer (bits xa 47 6 * 64) 64
    registerWait (.logit buf die) xb none
    modify (·.serveLogit s.act.ctx die (c.waits.length + 1))

/-- ENDW.DQ. -/
def execEndwDq (a b : Reg) (s : State) := perform 4 (endwDqOp (s.x a).toNat (s.x b).toNat) s

end Sys2Proof.Machine
end

