-- ==== Sys2Proof/Machine/Sync.lean ====
section
/-! DEFINITION. Messages, barriers, work lists, launches and feeds as instructions (R189 to R196). -/

namespace Sys2Proof.Machine

/-! ## Messages -/

/-- The context that a message belongs to: the sender's, and for firmware the one that CTXD names (R15, R326, DEDUCED log 57). -/
def State.sendCtx (s : State) : Nat :=
  if s.act.priv then bits (s.physNat ((assocGet s.fw s.cur).getD FwRegs.init).ctxd.toNat 8) 63 52 else s.act.ctx

/-- The checks of SEND on the channel word, and the message put under way (R45, R189). ch0 is firmware's: a send to it in user mode
raises PRIV (R44). -/
def sendOp (d : Reg) (xa xb : Nat) (refusal : Nat) : Op Unit := do
  checkCode xa
  require (decide (bits xb 63 12 = 0)) codeProt
  let ch := bits xb 11 9
  let s ← get
  require (decide (ch ≠ 0) || s.act.priv) codePriv
  require (decide (ch ≠ 7)) codeIll
  if refusal ≠ 0 then checkCode refusal
  let payload := (List.range 4).map fun i => s.x (regPlus d i)
  let m : Msg := ⟨ch, s.act.lcore, xa, refusal, payload, none⟩
  set { s with msgs := s.msgs ++ [(⟨s.sendCtx, bits xb 8 0, some s.cur, m⟩ : InFlight)] }

/-- SEND. -/
def execSend (d a b : Reg) (s : State) := finish (sendOp d (s.x a).toNat (s.x b).toNat 0) s

/-- SENDR: a zero xc selects the context's refusal handler. -/
def execSendr (d a b c : Reg) (s : State) := finish (sendOp d (s.x a).toNat (s.x b).toNat (s.x c).toNat) s

/-! ## Barriers -/

/-- A size code as a size: log2 up to a limit, else none (R32, R191). -/
def sizeOf2 (code limit : Nat) : Option Nat := if code ≤ limit then some (2 ^ code) else none

/-- Whether (row, col, h, w) is a subgroup of the rectangle of ORGN and RSZ (R34). -/
def isSubgroup (orgn rsz : Nat) (row col h w : Nat) : Bool :=
  let r0 := bits orgn 8 5
  let c0 := bits orgn 4 0
  let rh := bits rsz 15 8
  let rw := bits rsz 7 0
  decide (rh % h = 0) && decide (rw % w = 0) && decide (row % h = 0) && decide (col % w = 0)
    && decide (r0 ≤ row) && decide (row + h ≤ r0 + rh) && decide (c0 ≤ col) && decide (col + w ≤ c0 + rw)

/-- BARI (R191). -/
def bariOp (xa xb : Nat) : Op Unit := do
  require (decide (xa < 16) && decide (bits xb 63 25 = 0)) codeProt
  let n := bits xb 24 15
  require (decide (1 ≤ n) && decide (n ≤ 2 ^ bits xb 11 9 * 2 ^ bits xb 14 12)) codeProt
  let k ← myCore
  match sizeOf2 (bits xb 11 9) 4, sizeOf2 (bits xb 14 12) 5 with
  | some h, some w => do
    let row := bits xb 3 0
    let col := bits xb 8 4
    require (isSubgroup k.orgn.toNat k.rsz.toNat row col h w) codeIll
    let c ← myCtx
    let busy := match assocGet c.bars xa with
      | some b => !b.arrived.isEmpty || !b.held.isEmpty
      | none => false
    require (!busy) codeProt
    modMyCtx fun c => { c with bars := assocPut c.bars xa ⟨row, col, h, w, n, 0, [], 0, []⟩ }
  | _, _ => raise codeIll

/-- BARI. -/
def execBari (a b : Reg) (s : State) := finish (bariOp (s.x a).toNat (s.x b).toNat) s

/-- Whether a logical core lies in a barrier's subgroup (R192). -/
def Barrier.covers (b : Barrier) (l : Nat) : Bool :=
  decide (b.row ≤ l / 32) && decide (l / 32 < b.row + b.h) && decide (b.col ≤ l % 32) && decide (l % 32 < b.col + b.w)

/-- The unsigned maximum of two words (R108, R192). -/
def maxWord (x y : Word) : Word := if x.toNat < y.toNat then y else x

/-- Arrivals taken in order at a barrier's home, held ones replayed after each release (R192): the barrier after them, and
the episodes released with their maxima. The first argument bounds the number of single arrivals looked at. -/
def Barrier.arrivals : Nat → Barrier → List (Nat × Word) → Barrier × List (Nat × Word)
  | 0, b, _ => (b, [])
  | _, b, [] => (b, [])
  | fuel + 1, b, (l, v) :: rest =>
    if b.arrived.contains l then Barrier.arrivals fuel { b with held := b.held ++ [(l, v)] } rest
    else
      let m := maxWord b.max v
      if b.arrived.length + 1 = b.n then
        let (b', out) := Barrier.arrivals fuel
          { b with episode := b.episode + 1, arrived := [], max := 0, held := [] } (b.held ++ rest)
        (b', (b.episode, m) :: out)
      else Barrier.arrivals fuel { b with arrived := b.arrived ++ [l], max := m } rest

/-- Satisfies the waits on a released episode (R185). -/
def releaseWaits (id : Nat) (waits : List Wait) (episode : Nat) (max : Word) : List Wait :=
  waits.map fun w =>
    if w.kind = .bar id episode ∧ w.got = none then { w with got := some (natToBytes 8 max.toNat, []) } else w

/-- BARA and BARM (R192). -/
def arriveOp (xa : Nat) (v : Word) : Op Unit := do
  require (decide (xa < 16)) codeProt
  let s ← get
  let c ← myCtx
  match assocGet c.bars xa with
  | none => raise codeProt
  | some b => do
    require (b.covers s.act.lcore) codeProt
    let n := b.held.length + 2
    let (b', out) := b.arrivals (n * n) [(s.act.lcore, v)]
    modMyCtx fun c => { c with
      bars := assocPut c.bars xa b'
      waits := out.foldl (fun ws r => releaseWaits xa ws r.1 r.2) c.waits }

/-- BARA. -/
def execBara (a : Reg) (s : State) := finish (arriveOp (s.x a).toNat 0) s

/-- BARM. -/
def execBarm (a b : Reg) (s : State) := finish (arriveOp (s.x a).toNat (s.x b)) s

/-! ## Work lists: the top of a list is its head -/

/-- WLPUSH (R55, R193). -/
def wlpushOp (xa xb : Word) : Op Unit :=
  if xa = 0 then setMyErr errWl
  else do
    modMyCore fun k => { k with work := (xa, xb) :: k.work }
    modify fun s => s.spillRoom s.act.ctx (s.dieOfCore s.act.ctx s.act.lcore)

/-- WLPUSH. -/
def execWlpush (a b : Reg) (s : State) := finish (wlpushOp (s.x a) (s.x b)) s

/-- WLPOP (R193). -/
def wlpopOp (d : Reg) : Op Unit := do
  match (← myCore).work with
  | [] => do
    wrX d 0
    wrX (pairOf d) 0
  | (x, y) :: rest => do
    modMyCore fun k => { k with work := rest }
    wrX d x
    wrX (pairOf d) y

/-- WLPOP. -/
def execWlpop (d : Reg) (s : State) := finish (wlpopOp d) s

/-- WLCNT (R193). -/
def execWlcnt (d : Reg) (s : State) :=
  finish (do wrX d (BitVec.ofNat 64 (Nat.min (← myCore).work.length (2 ^ 32 - 1)))) s

/-! ## Launches and feeds -/

/-- The statuses of LAUNCH (R195). -/
def launchPosted : Nat := 0
def launchFull : Nat := 1
def launchRect : Nat := 2
def launchBlock : Nat := 3

/-- A launch block from its eight words (R195): the block, or RECT or BLOCK. -/
def parseLaunch (w : List Nat) (issuer : Option Nat) : Except Nat LaunchBlock :=
  let g (i : Nat) : Nat := (w[i]?).getD 0
  if g 0 % 2 = 1 ∨ 2 ^ 48 ≤ g 0 ∨ 2 ^ 48 ≤ g 1 ∨ 2 ^ 15 ≤ g 3 ∨ 2 ^ 48 ≤ g 4 ∨ g 4 % 32 ≠ 0 ∨ g 5 ≠ 0 ∨ g 6 ≠ 0 ∨ g 7 ≠ 0
  then .error launchBlock
  else
    match sizeOf2 (bits (g 3) 11 9) 4, sizeOf2 (bits (g 3) 14 12) 5 with
    | some h, some wd =>
      let row := bits (g 3) 3 0
      let col := bits (g 3) 8 4
      if row % h ≠ 0 ∨ col % wd ≠ 0 then .error launchRect
      else .ok ⟨g 0, g 1, BitVec.ofNat 64 (g 2), row, col, h, wd, g 4, issuer, none⟩
    | _, _ => .error launchRect

/-- The 64-bit words of bytes, n of them. -/
def wordsOf : Nat → List Byte → List Nat
  | 0, _ => []
  | n + 1, bs => bytesToNat (bs.take 8) :: wordsOf n (bs.drop 8)

/-- LAUNCH (R60, R195): the completion record is kept as the issuing core names it (R378). -/
def launchOp (d : Reg) (va : Nat) : Op Unit := do
  if va % 64 ≠ 0 then raiseAt codeAlign va
  let bs ← loadBytes va 64
  let s ← get
  let c ← myCtx
  match parseLaunch (wordsOf 8 bs) (some s.act.lcore) with
  | .error st => wrX d (BitVec.ofNat 64 st)
  | .ok b =>
    if Config.launchDepth ≤ c.launchQ.length then wrX d (BitVec.ofNat 64 launchFull)
    else do
      modMyCtx fun c => { c with launchQ := c.launchQ ++ [{ b with record := canonVa s.who b.record }] }
      wrX d (BitVec.ofNat 64 launchPosted)

/-- LAUNCH. -/
def execLaunch (d a : Reg) (s : State) := finish (launchOp d (s.x a).toNat) s

/-- FPOP (R188, R196): the buffer is checked before the feed is touched. -/
def fpopOp (d : Reg) (xa : Nat) : Op Unit := do
  checkField xa 5 4
  let buf := bits xa 47 6 * 64
  let n := bits xa 3 0
  checkBuffer buf 64
  let s ← get
  let c ← myCtx
  if c.waiting (onFeed n) then wrX d (BitVec.allOnes 64)
  else
    match ← feedTake s.act.ctx n with
    | none => wrX d (BitVec.allOnes 64)
    | some (bs, met, left) => do
      match met with
      | some va => meetPoison true va
      | none => pure ()
      storeBytes buf bs
      wrX d (BitVec.ofNat 64 left)

/-- FPOP. -/
def execFpop (d a : Reg) (s : State) := finish (fpopOp d (s.x a).toNat) s

end Sys2Proof.Machine
end

