-- ==== Sys2Proof/Machine/Tensors.lean ====
section
/-! DEFINITION. The tensor table: descriptors, element resolution and the table instructions (R229 to R232). -/

namespace Sys2Proof.Machine

/-- The formats a descriptor can name (R229): a t3 type, or an eight-bit or block format. -/
inductive TFmt where
  | elem (t : ElemType) | block (f : BlockFmt)
  deriving DecidableEq, Repr

/-- The format of a fmt code; none for 13 to 15 (R229). -/
def TFmt.ofCode (n : Nat) : Option TFmt :=
  if n < 8 then some (.elem (ElemType.ofCode n))
  else if n < 13 then some (.block (BlockFmt.ofCode (n - 8)))
  else none

/-- Whether elements are packed in blocks of 32 (R229, R230). -/
def TFmt.blocked : TFmt → Bool
  | .block .e3m2 | .block .e2m3 | .block .e2m1x => true
  | .block .e4m3 | .block .e5m2 => false
  | .elem _ => false

/-- Bytes of an element of an unblocked format (R230). -/
def TFmt.bytes : TFmt → Nat
  | .elem t => elemWidth t / 8
  | .block _ => 1

/-- A tensor descriptor (R229). -/
structure TDesc where
  base : Nat
  rows : Nat
  cols : Nat
  stride : Int
  rlen : Nat
  rdim : Nat
  scale : Nat
  fmt : TFmt
  deriving DecidableEq, Repr

/-- Word i of a descriptor. -/
def Tensor.word (t : Tensor) (i : Nat) : Nat := ((t[i]?).getD 0).toNat

/-- The descriptor in eight words, none when a limit of R229 is broken. A base in the stash region outside both windows breaks none: the
accesses through it fault (DESIGN CHOICE log 67). -/
def parseTensor (t : Tensor) : Option TDesc :=
  let w := t.word
  match TFmt.ofCode (bits (w 3) 3 0) with
  | none => none
  | some f =>
    let rows := bits (w 1) 31 0
    let cols := bits (w 1) 63 32
    let stride := signedAt 64 (w 2)
    let rlen := bits (w 3) 63 32
    let rdim := bits (w 3) 31 30
    let scale := bits (w 3) 15 8
    let scaled : Bool := match f with
      | .block .e4m3 | .block .e5m2 => true
      | _ => false
    if bits (w 0) 63 48 ≠ 0 ∨ rows = 0 ∨ cols = 0 ∨ 2 ^ 47 ≤ stride.natAbs ∨ 2 ≤ rdim ∨ bits (w 3) 29 16 ≠ 0
      ∨ bits (w 3) 7 4 ≠ 0 ∨ w 4 ≠ 0 ∨ w 5 ≠ 0 ∨ w 6 ≠ 0 ∨ w 7 ≠ 0
      ∨ (if rdim = 0 then rows else cols) < rlen ∨ (¬scaled ∧ scale ≠ 0x7F) ∨ (f.blocked ∧ cols % 32 ≠ 0)
    then none
    else some ⟨bits (w 0) 47 0, rows, cols, stride, rlen, rdim, scale, f⟩

/-- The coordinates of an element after ring reduction; none when it is outside (R230). -/
def TDesc.coords (t : TDesc) (r c : Nat) : Option (Nat × Nat) :=
  let r' := if t.rlen ≠ 0 ∧ t.rdim = 0 then r % t.rlen else r
  let c' := if t.rlen ≠ 0 ∧ t.rdim = 1 then c % t.rlen else c
  if t.rows ≤ r' ∨ t.cols ≤ c' then none else some (r', c')

/-- The address of an element of an unblocked tensor, or of the block that holds it: exact, so that one at or above 2^48 fails its access
(R7, R157, R230). A sum below zero fails so too, and comes after every address (DESIGN CHOICE log 63). -/
def TDesc.addr (t : TDesc) (r c : Nat) : Nat :=
  let col : Int := match t.fmt with
    | .block f => if t.fmt.blocked then ((c / 32 * f.bytes : Nat) : Int) else (c : Int)
    | .elem e => ((c * (elemWidth e / 8) : Nat) : Int)
  let sum : Int := t.base + r * t.stride + col
  if sum < 0 then 2 ^ 64 + wrapAt 64 sum else sum.toNat

/-- Entry id of a context's table (R229). -/
def Ctx.tensor (c : Ctx) (id : Nat) : Option Tensor := if id < 1024 then assocGet c.tensors id else none

/-- The words of 64 bytes. -/
def tensorOf (bs : List Byte) : Tensor := (List.range 8).map fun i => BitVec.ofNat 64 (bytesToNat ((bs.drop (8 * i)).take 8))

/-- TDEF (R231). -/
def tdefOp (xa xb : Nat) : Op Unit := do
  require (decide (xa < 2 ^ 16)) codeProt
  if xb % 64 ≠ 0 then raiseAt codeAlign xb
  let bs ← loadBytes xb 64
  let t := tensorOf bs
  require (decide (xa < 1024) && (parseTensor t).isSome) codeTens
  modMyCtx fun c => { c with tensors := assocPut c.tensors xa t }

/-- TDEF. -/
def execTdef (a b : Reg) (s : State) := finish (tdefOp (s.x a).toNat (s.x b).toNat) s

/-- TUND (R231). -/
def tundOp (xa : Nat) : Op Unit := do
  require (decide (xa < 2 ^ 16)) codeProt
  modMyCtx fun c => { c with tensors := assocDel c.tensors xa }

/-- TUND. -/
def execTund (a : Reg) (s : State) := finish (tundOp (s.x a).toNat) s

/-- TQRY (R231). -/
def tqryOp (d : Reg) (xa : Nat) : Op Unit := do
  require (decide (xa < 2 ^ 19)) codeProt
  match (← myCtx).tensor (bits xa 15 0) with
  | none => wrX d (BitVec.allOnes 64)
  | some t => wrX d (BitVec.ofNat 64 (t.word (bits xa 18 16)))

/-- TQRY. -/
def execTqry (d a : Reg) (s : State) := finish (tqryOp d (s.x a).toNat) s

/-- The defined tensor of an id, else TENS. -/
def needTensor (id : Nat) : Op Tensor := do
  match (← myCtx).tensor id with
  | some t => pure t
  | none => raise codeTens

/-- The descriptor of a table entry, else TENS. -/
def needDesc (t : Tensor) : Op TDesc :=
  match parseTensor t with
  | some d => pure d
  | none => raise codeTens

end Sys2Proof.Machine
end

