-- ==== Sys2Proof/Machine/VectorMem.lean ====
section
/-! DEFINITION. The memory forms of the vector pipe (R217 to R220). Each element is an access of its own, checked before any
takes effect. -/

namespace Sys2Proof.Machine

/-- Inserts an element access in ascending order of address. -/
def insertAccess (p : Nat × Nat) : List (Nat × Nat) → List (Nat × Nat)
  | [] => [p]
  | q :: rest => if p.2 < q.2 then p :: q :: rest else q :: insertAccess p rest

/-- Element accesses (element, address) in ascending order of address, so that the lowest failing byte decides (R217). -/
def byAddress : List (Nat × Nat) → List (Nat × Nat)
  | [] => []
  | p :: rest => insertAccess p (byAddress rest)

/-- Checks accesses of n bytes in the order given. -/
def checkAccesses (acc : Acc) (n : Nat) : List (Nat × Nat) → Op Unit
  | [] => pure ()
  | p :: rest => do
    if 2 ^ 48 ≤ p.2 then raiseAt codeProt p.2
    let s ← get
    let _ ← checkRange s.who acc p.2 n
    checkAccesses acc n rest

/-- The lower of two addresses that may be absent. -/
def lowerVa : Option Nat → Option Nat → Option Nat
  | some a, some b => some (Nat.min a b)
  | some a, none => some a
  | none, b => b

/-- Reads accesses of n bytes: the value of each element, and the lowest address that met poison. -/
def readAccesses (n : Nat) : List (Nat × Nat) → Op (List (Nat × Nat) × Option Nat)
  | [] => pure ([], none)
  | p :: rest => do
    let ls ← checkRange (← get).who .load p.2 n
    let s ← get
    let (vs, m) ← readAccesses n rest
    pure ((p.1, bytesToNat (s.readLocs ls)) :: vs, lowerVa (s.poisonVa p.2 ls) m)

/-- Stores elements of a register in ascending element order (R217). At a stash port each is a store of its own (R146, DESIGN CHOICE
log 55). -/
def storeAccesses (n : Nat) (v : Nat → Nat) : List (Nat × Nat) → Op Unit
  | [] => pure ()
  | p :: rest => do
    storeBytes p.2 (natToBytes n (v p.1))
    storeAccesses n v rest

/-- The accesses of the active elements, in ascending element order; f gives the address, none for no access. -/
def State.accesses (s : State) (t : ElemType) (pg : PReg) (f : Nat → Option Nat) : List (Nat × Nat) :=
  (List.range (s.elems (elemWidth t))).filterMap fun e =>
    if activeAt (s.preg pg) (elemWidth t) e then (f e).map fun va => (e, va) else none

/-- A vector load (R145, R217): active elements without an access read zero (R220). -/
def vecLoad (d : Reg) (pg : PReg) (t : ElemType) (f : Nat → Option Nat) : Op Unit := do
  let s ← get
  let n := elemWidth t / 8
  let acc := s.accesses t pg f
  checkAccesses .load n (byAddress acc)
  let (vs, met) ← readAccesses n acc
  match met with
  | some va => meetPoison true va
  | none => pure ()
  vecInt t d pg fun _ e => (assocGet vs e).getD 0

/-- A vector store (R217). -/
def vecStore (r : Reg) (pg : PReg) (t : ElemType) (f : Nat → Option Nat) : Op Unit := do
  let s ← get
  let n := elemWidth t / 8
  let acc := s.accesses t pg f
  checkAccesses .store n (byAddress acc)
  storeAccesses n (s.elem t r) acc

/-- Accesses of n bytes joined where one follows the other: first address and length. -/
def joinAccesses (n : Nat) : List (Nat × Nat) → List (Nat × Nat)
  | [] => []
  | p :: rest =>
    match joinAccesses n rest with
    | (a, k) :: more => if a = p.2 + n then (p.2, n + k) :: more else (p.2, n) :: (a, k) :: more
    | [] => [(p.2, n)]

/-- The lines that a run of bytes covers whole lose their poison (R145). -/
def clearWhole : List (Nat × Nat) → Op Unit
  | [] => pure ()
  | (va, n) :: rest => do
    let ls ← checkRange (← get).who .store va n
    modify fun s => ls.foldl (fun s p =>
      if p.2 < 64 ∨ p.1.discarded then s
      else match p.1 with
        | .stash key => { s with stashPoison := s.stashPoison.filter fun l => decide (l ≠ key / 64) }
        | .mem pa _ _ _ _ _ => { s with poison := s.poison.filter fun l => decide (l ≠ pa / 64) }) s
    clearWhole rest

/-- A contiguous vector store: it is one access to the lines that its active elements cover whole (R145, R218). -/
def vecStoreRun (r : Reg) (pg : PReg) (t : ElemType) (f : Nat → Option Nat) : Op Unit := do
  let s ← get
  vecStore r pg t f
  clearWhole (joinAccesses (elemWidth t / 8) (s.accesses t pg f))

/-- Addresses of the contiguous forms (R218). -/
def contiguous (xa xb : Word) (t : ElemType) (e : Nat) : Option Nat :=
  some (xa + xb + BitVec.ofNat 64 (e * (elemWidth t / 8))).toNat

/-- Addresses of the strided forms (R218). -/
def strided (xa xb : Word) (e : Nat) : Option Nat := some (xa + BitVec.ofNat 64 e * xb).toNat

/-- Addresses of the gather and scatter forms (R219). -/
def gathered (s : State) (xa : Word) (b : Reg) (t : ElemType) (e : Nat) : Option Nat :=
  some (xa + BitVec.ofInt 64 (signedAt (elemWidth t) (s.elem t b e) * (elemWidth t / 8 : Nat))).toNat

/-- VLD (R218). -/
def execVld (d a b : Reg) (pg : PReg) (t : ElemType) (s : State) := finish (vecLoad d pg t (contiguous (s.x a) (s.x b) t)) s

/-- VST (R218). -/
def execVst (d a b : Reg) (pg : PReg) (t : ElemType) (s : State) := finish (vecStoreRun d pg t (contiguous (s.x a) (s.x b) t)) s

/-- VLDS (R218). -/
def execVlds (d a b : Reg) (pg : PReg) (t : ElemType) (s : State) := finish (vecLoad d pg t (strided (s.x a) (s.x b))) s

/-- VSTS (R218). -/
def execVsts (d a b : Reg) (pg : PReg) (t : ElemType) (s : State) := finish (vecStore d pg t (strided (s.x a) (s.x b))) s

/-- VGTH (R219). -/
def execVgth (d a b : Reg) (pg : PReg) (t : ElemType) (s : State) := finish (vecLoad d pg t (gathered s (s.x a) b t)) s

/-- VSCT (R219). -/
def execVsct (d a b : Reg) (pg : PReg) (t : ElemType) (s : State) := finish (vecStore d pg t (gathered s (s.x a) b t)) s

/-- The addresses of a tensor form (R220): the tensor must be defined, of exactly type t and not of a block format. -/
def tensorAccess (xa xb : Nat) (t : ElemType) : Op (Nat → Option Nat) := do
  require (decide (xa < 2 ^ 16)) codeProt
  let d ← needDesc (← needTensor xa)
  require (decide (d.fmt = .elem t)) codeTens
  pure fun e => (d.coords (bits xb 31 0) (bits xb 63 32 + e)).map fun p => d.addr p.1 p.2

/-- VLDT (R220). -/
def execVldt (d a b : Reg) (pg : PReg) (t : ElemType) (s : State) :=
  finish (do vecLoad d pg t (← tensorAccess (s.x a).toNat (s.x b).toNat t)) s

/-- VSTT (R220). -/
def execVstt (d a b : Reg) (pg : PReg) (t : ElemType) (s : State) :=
  finish (do vecStore d pg t (← tensorAccess (s.x a).toNat (s.x b).toNat t)) s

end Sys2Proof.Machine
end

