-- ==== Sys2Proof/Machine/Engines.lean ====
section
/-! DEFINITION. Engine commands as instructions: operand checks, capture, issue and polling (R224 to R226, R233 to R248). -/

namespace Sys2Proof.Machine

/-! ## Where a command is performed -/

/-- Who a command is for, and the logical cluster that performs it: the issuing one, or the target of MSEND (R246). -/
structure Issuer where
  ctx : Nat
  lcore : Nat
  slot : Nat
  clus : Nat
  onBi : Bool
  deriving DecidableEq, Repr

/-- The running slot as an issuer. -/
def State.issuer (s : State) : Issuer :=
  ⟨s.act.ctx, s.act.lcore, s.cur.idx, Config.clusterOf s.act.lcore, coreIsBi s.cur.core⟩

/-- The physical cluster that a logical cluster of a context occupies: island, number (R17, R342). -/
def Ctx.engineCluster (c : Ctx) (clus : Nat) : Bool × Nat := if c.onBi then (false, clus) else (true, c.siCluster clus)

/-- The matrix queue of a logical cluster. -/
def Ctx.matrixQueue (c : Ctx) (clus : Nat) : EngineQueue := .matrix (c.engineCluster clus).1 (c.engineCluster clus).2

/-- The copy queue of a logical cluster. -/
def Ctx.copyQueue (c : Ctx) (clus : Nat) : EngineQueue := .copy (c.engineCluster clus).1 (c.engineCluster clus).2

/-- The gather queue of a logical cluster. -/
def Ctx.gatherQueue (c : Ctx) (clus : Nat) : EngineQueue := .gather (c.engineCluster clus).1 (c.engineCluster clus).2

/-- A command ready for issue: its entries, each with its queue, and its debit: block-steps, class, rail (R248, R350). -/
structure Command where
  jobs : List (EngineQueue × Job)
  debit : Option (Nat × Nat × Rail)
  deriving DecidableEq, Repr

/-- An entry of a command; the job number is filled in at issue. -/
def mkJob (it : Issuer) (clus : Nat) (half : Half) (kind : JobKind) (cls steps : Nat) : Job :=
  ⟨kind, it.ctx, it.lcore, it.slot, 0, clus, half, cls, steps, it.onBi, 0, false, false, []⟩

/-- Raises TENS with the detail of R227: 1 undefined id, 2 unusable descriptor, 3 coordinate limit. -/
def raiseTens {α : Type} (detail : Nat) : Op α := throw (.fault codeTens 0 false detail)

/-- Raises TENS with a detail unless a condition holds. -/
def requireTens (c : Bool) (detail : Nat) : Op Unit := if c then pure () else raiseTens detail

/-- A defined tensor, from the table or from what MSEND captured. -/
def lookTensor (tens : Nat → Option Tensor) (id : Nat) : Op (Tensor × TDesc) :=
  match tens id with
  | none => raiseTens 1
  | some t =>
    match parseTensor t with
    | some d => pure (t, d)
    | none => raiseTens 2

/-! ## Tiles (R236) -/

/-- Tile slots that a tile takes (R236). -/
def tileSlots (m n : Nat) : Nat := m / 64 * ceilDiv n 64

/-- Whether a product tile splits over the cluster and its partner; PROT when it does not fit (R236). -/
def placeProduct (m n slot : Nat) : Op Bool := do
  if slot + tileSlots m n ≤ 8 then pure false
  else
    require (decide (m = 256) && decide (128 < n) && decide (slot = 0)) codeProt
    pure true

/-- The entries of a matrix-queue command: one, or the two halves of a split (R236). -/
def matrixEntries (c : Ctx) (it : Issuer) (split : Bool) (kind : JobKind) (cls steps : Nat) : List (EngineQueue × Job) :=
  if split then
    [(c.matrixQueue it.clus, mkJob it it.clus .own kind cls (steps / 2)),
     (c.matrixQueue (Config.partner it.clus), mkJob it (Config.partner it.clus) .mate kind cls (steps / 2))]
  else [(c.matrixQueue it.clus, mkJob it it.clus .whole kind cls steps)]

/-- Operand groups of R234 with their K: 4-bit, 6- and 8-bit, integer, 16-bit. -/
def operandGroup : TFmt → Option (Nat × Nat)
  | .block .e2m1x => some (0, 128)
  | .block .e4m3 | .block .e5m2 | .block .e3m2 | .block .e2m3 => some (1, 64)
  | .elem .i8 => some (2, 64)
  | .elem .bf16 | .elem .f16 => some (3, 32)
  | .elem .i16 | .elem .i32 | .elem .i64 | .elem .f32 | .elem .f64 => none

/-- Bytes of a row of a tensor. -/
def TDesc.rowBytes (t : TDesc) : Nat :=
  match t.fmt with
  | .elem e => t.cols * (elemWidth e / 8)
  | .block f => if t.fmt.blocked then t.cols / 32 * f.bytes else t.cols

/-- Whether a tensor lies wholly within the stash of one logical core of a cluster (R237). -/
def TDesc.inStash (t : TDesc) (l clus : Nat) : Bool :=
  let span : Int := ((t.rows - 1 : Nat) : Int) * t.stride
  let lo := (t.base : Int) + (if span < 0 then span else 0)
  let hi := (t.base : Int) + (if span < 0 then 0 else span) + t.rowBytes
  if lo < (remoteBase : Int) then false
  else
    match stashOf l lo.toNat, stashOf l (hi - 1).toNat with
    | some (o, _), some (o', _) => decide (o = o') && decide (Config.clusterOf o = clus) && decide ((hi - lo) ≤ Config.stashBytes)
    | _, _ => false

/-- M of an M code (R83). -/
def rowsOfCode (m : Nat) : Nat := 64 * 2 ^ m

/-- The block-steps of a product (R248). -/
def productSteps (m n : Nat) : Nat := m / 64 * ceilDiv n 64

/-- MMA and MMAG (R233 to R237): rows gives the gathered row indices of MMAG. R237's TENS for an A outside the cluster's stash follows the
checks of R234 and comes before the PROT of R236's placement (R64, DESIGN CHOICE log 63). -/
def prepMma (it : Issuer) (tens : Nat → Option Tensor) (xa xb xk m n cls : Nat) (rows : Option (List Nat)) : Op Command := do
  require (decide (xa < 2 ^ 32) && decide (bits xb 63 48 = 0)) codeProt
  let k0 := bits xk 63 20
  requireTens (decide (k0 % 32 = 0)) 3
  let (ta, da) ← lookTensor tens (bits xk 15 0)
  let (tb, db) ← lookTensor tens (bits xb 15 0)
  match operandGroup da.fmt, operandGroup db.fmt with
  | some (ga, kk), some (gb, _) => do
    requireTens (decide (ga = gb)) 2
    if rows.isSome then requireTens (da.inStash it.lcore it.clus) 2
    let slot := bits xk 18 16
    let split ← placeProduct m n slot
    let c ← theCtx it.ctx
    let u := productSteps m n
    let kind : JobKind := .mma ta tb rows xa (bits xb 47 16) k0 slot m n kk (bitOf xk 19)
    pure ⟨matrixEntries c it split kind cls u, some (u, cls, .mx)⟩
  | _, _ => raiseTens 2

/-- The fields of a tile operand (R238). -/
structure TileArg where
  rnd : Nat
  iv : Bool
  pair : Bool
  n : Nat
  m : Nat
  slot : Nat
  id : Nat
  deriving DecidableEq, Repr

/-- Reads and checks a tile operand (R238): rounding only where allowed, placement with and without pair. -/
def tileArg (xa : Nat) (store : Bool) : Op TileArg := do
  let t : TileArg := ⟨bits xa 29 27, bitOf xa 26, bitOf xa 25, 16 * (bits xa 24 21 + 1), rowsOfCode (bits xa 20 19),
    bits xa 18 16, bits xa 15 0⟩
  require (decide (xa < 2 ^ 30)) codeProt
  require (if store then decide (t.rnd ≤ 4) else decide (t.rnd = 0)) codeProt
  require (decide (bits xa 20 19 ≠ 3)) codeProt
  if t.pair then require (decide (t.m = 256) && decide (128 < t.n) && decide (t.slot = 0)) codeProt
  else require (decide (t.slot + tileSlots t.m t.n ≤ 8)) codeProt
  pure t

/-- MZERO (R238, R239). -/
def prepMzero (it : Issuer) (xa : Nat) : Op Command := do
  let t ← tileArg xa false
  require (decide (t.id = 0)) codeProt
  let c ← theCtx it.ctx
  pure ⟨matrixEntries c it t.pair (.mzero t.slot t.m t.n) 0 0, none⟩

/-- The coordinate limits of a tile transfer of a block format (R238). -/
def checkTileCoords (d : TDesc) (t : TileArg) (xb : Nat) : Op Unit :=
  requireTens (!d.fmt.blocked || (decide (bits xb 63 32 % 32 = 0) && decide (t.n % 32 = 0))) 3

/-- MLDT (R238, R239). The TENS of an undefined tensor follows every PROT of R238 (R64, R224), and R239's check of iv with the format,
detail 2, comes before R238's limit of the coordinates, detail 3 (DESIGN CHOICE log 63). -/
def prepMldt (it : Issuer) (tens : Nat → Option Tensor) (xa xb : Nat) : Op Command := do
  let t ← tileArg xa false
  let (w, d) ← lookTensor tens t.id
  let ints : Bool := match d.fmt with
    | .elem e => e.isInt
    | .block _ => false
  requireTens (!t.iv || ints) 2
  checkTileCoords d t xb
  let c ← theCtx it.ctx
  pure ⟨matrixEntries c it t.pair (.mldt w t.iv (bits xb 31 0) (bits xb 63 32) t.slot t.m t.n) 0 0, none⟩

/-- MSTT (R238, R240): gen is the generator state at issue, from which an SR run is taken (R117). The TENS of an undefined tensor follows
every PROT of R238 (R64, R224, DESIGN CHOICE log 63). -/
def prepMstt (it : Issuer) (tens : Nat → Option Tensor) (xa xb : Nat) (gen : Gen) : Op Command := do
  let t ← tileArg xa true
  let (w, d) ← lookTensor tens t.id
  checkTileCoords d t xb
  let c ← theCtx it.ctx
  pure ⟨matrixEntries c it t.pair (.mstt w t.iv t.rnd (bits xb 31 0) (bits xb 63 32) t.slot t.m t.n gen) 0 0, none⟩

/-- Generator steps that an MSTT takes at issue (R240). -/
def msttSteps (xa : Nat) : Nat :=
  if bits xa 29 27 = 4 then ceilDiv (rowsOfCode (bits xa 20 19) * (16 * (bits xa 24 21 + 1))) 8 else 0

/-! ## Copies and channel products -/

/-- The fields of a copy block (R241). -/
structure CopyBlock where
  dst : Nat
  src : Nat
  nr : Nat
  nb : Nat
  dstStride : Int
  srcStride : Int
  deriving DecidableEq, Repr

/-- Checks and reads a copy block in four words (R241); ring says that the destination is a circular buffer. -/
def copyBlock (w : List Nat) (ring : Bool) : Op CopyBlock := do
  let g (i : Nat) : Nat := (w[i]?).getD 0
  let b : CopyBlock := ⟨g 0, g 1, bits (g 2) 63 32, bits (g 2) 31 0, signedAt 32 (bits (g 3) 63 32), signedAt 32 (g 3)⟩
  require (decide (b.dst < 2 ^ 48) && decide (b.src < 2 ^ 48) && decide (1 ≤ b.nr) && decide (b.nr ≤ 65536)
    && decide (1 ≤ b.nb) && decide (b.nb ≤ 2 ^ 20) && (!ring || (decide (b.dst = 0) && decide (b.dstStride = 0)))) codeProt
  pure b

/-- CPY (R241). What R164 raises for the buffer descriptor comes before the PROT of one in another cluster's stash (DESIGN CHOICE log
63). -/
def prepCpy (it : Issuer) (w : List Nat) (cb cls : Nat) : Op Command := do
  let b ← copyBlock w (decide (cb ≠ 0))
  if cb ≠ 0 then
    let (owner, _, d) ← cbOpen (.core it.ctx it.lcore) cb
    require (decide (Config.clusterOf owner = it.clus) && decide (b.nb = 2 ^ d.les)) codeProt
  let c ← theCtx it.ctx
  let u := ceilDiv (b.nr * b.nb) 4096
  pure ⟨[(c.copyQueue it.clus, mkJob it it.clus .whole (.cpy b.dst b.src b.nr b.nb b.dstStride b.srcStride cb) cls u)],
    some (u, cls, .fb)⟩

/-- CPYG (R242). -/
def prepCpyg (it : Issuer) (w : List Nat) (idx : Nat) : Op Command := do
  let b ← copyBlock w false
  if idx % 4 ≠ 0 then raiseAt codeAlign idx
  let c ← theCtx it.ctx
  pure ⟨[(c.gatherQueue it.clus, mkJob it it.clus .whole (.cpyg b.dst b.src b.nr b.nb b.dstStride b.srcStride idx) 0 0)], none⟩

/-- Whether a format can be W of an MVC (R243). -/
def mvcFormat : TFmt → Bool
  | .elem .bf16 | .elem .f16 | .block _ => true
  | .elem _ => false

/-- MVC on CMVU n (R243). -/
def prepMvc (it : Issuer) (tens : Nat → Option Tensor) (n : Nat) (w : List Nat) (cls : Nat) : Op Command := do
  let g (i : Nat) : Nat := (w[i]?).getD 0
  let nrow := bits (g 3) 31 0
  let (t, d) ← lookTensor tens (bits (g 0) 15 0)
  requireTens (mvcFormat d.fmt) 2
  require (decide (bits (g 0) 31 16 = 0) && decide (g 1 < 2 ^ 48) && decide (g 2 < 2 ^ 48) && decide (1 ≤ nrow)
    && decide (nrow ≤ 65536) && decide (bits (g 3) 63 33 = 0)) codeProt
  let u := ceilDiv (nrow * d.cols) 4096
  pure ⟨[(.cmvu n, mkJob it it.clus .whole (.mvc t (bits (g 0) 63 32) (g 1) (g 2) nrow (bitOf (g 3) 32)) cls u)],
    some (u, cls, .hub)⟩

/-! ## Issue (R225) -/

/-- The jobs of an engine queue. -/
def State.queueOf (s : State) (q : EngineQueue) : List Job := (assocGet s.engines q).getD []

/-- Enters jobs in their queues under a job number. -/
def State.enterJobs (s : State) (num : Nat) (jobs : List (EngineQueue × Job)) : State :=
  jobs.foldl (fun s p => { s with engines := assocPut s.engines p.1 (s.queueOf p.1 ++ [{ p.2 with num := num }]) }) s

/-- Stalls, debit, number and entry of a command whose checks have passed (R225 steps 2 to 5): its number. -/
def issueCommand (cmd : Command) : Op Nat := do
  stallOnTable
  match cmd.debit with
  | some (u, cls, rail) => debitIssue u cls rail
  | none => pure ()
  let num ← takeNumber
  modify (·.enterJobs num cmd.jobs)
  pure num

/-- The tensors of the running context, as captured at issue. -/
def myTensors : Op (Nat → Option Tensor) := do return (← myCtx).tensor

/-- MMA: no destination register (R226). -/
def mmaOp (xa xb xk m n cls : Nat) (rows : Option (List Nat)) : Op Unit := do
  let s ← get
  let cmd ← prepMma s.issuer (← myTensors) xa xb xk m n cls rows
  let _ ← issueCommand cmd

/-- MMA. -/
def execMma (a b c : Reg) (m : Fin 4) (n : Fin 64) (ec : Fin 4) (s : State) :=
  finish (mmaOp (s.x a).toNat (s.x b).toNat (s.x c).toNat (rowsOfCode m.val) (16 * (n.val + 1)) ec.val none) s

/-- The row indices of MMAG, read at issue; a group that VW breaks raises ILL (R83, R237). -/
def mmagRows (a : Reg) (m : Nat) : Op (List Nat) := do
  let s ← get
  require (decide (a.val % (32 * m / s.vw) = 0)) codeIll
  pure ((List.range m).map fun i => s.elem .i32 (regPlus a (i / (s.vw / 32))) (i % (s.vw / 32)))

/-- MMAG. -/
def execMmag (a b c : Reg) (m : Fin 4) (n : Fin 64) (ec : Fin 4) (s : State) :=
  finish (do
    let rows ← mmagRows a (rowsOfCode m.val)
    mmaOp 0 (s.x b).toNat (s.x c).toNat (rowsOfCode m.val) (16 * (n.val + 1)) ec.val (some rows)) s

/-- Issues a command and writes its handle (R225 step 6). -/
def issueTo (d : Reg) (cmd : Command) : Op Unit := do
  let num ← issueCommand cmd
  writeHandle d num

/-- MZERO. -/
def execMzero (d a : Reg) (s : State) := finish (do issueTo d (← prepMzero s.issuer (s.x a).toNat)) s

/-- MLDT. -/
def execMldt (d a b : Reg) (s : State) :=
  finish (do issueTo d (← prepMldt s.issuer (← myTensors) (s.x a).toNat (s.x b).toNat)) s

/-- Takes n steps of the running logical core's generator for a job: the state before them (R117). -/
def takeRun (n : Nat) : Op Gen := do
  let s ← get
  let g := (s.lcore s.act.ctx s.act.lcore).genState s.act.lcore
  if n ≠ 0 then modMyCore fun k => { k with gen := some (g.advance n) }
  pure g

/-- MSTT. -/
def execMstt (d a b : Reg) (s : State) :=
  finish (do
    let tens ← myTensors
    let gen ← takeRun (msttSteps (s.x a).toNat)
    issueTo d (← prepMstt s.issuer tens (s.x a).toNat (s.x b).toNat gen)) s

/-- The four words of a 32-byte block, read at issue. -/
def loadBlock (va : Nat) : Op (List Nat) := do
  if va % 32 ≠ 0 then raiseAt codeAlign va
  return wordsOf 4 (← loadBytes va 32)

/-- CPY. -/
def execCpy (d a b : Reg) (ec : Fin 4) (s : State) :=
  finish (do
    let w ← loadBlock (s.x a).toNat
    issueTo d (← slotNode (prepCpy s.issuer w (s.x b).toNat ec.val))) s

/-- CPYG. -/
def execCpyg (d a b : Reg) (s : State) :=
  finish (do issueTo d (← prepCpyg s.issuer (← loadBlock (s.x a).toNat) (s.x b).toNat)) s

/-- MVC. -/
def execMvc (d a b : Reg) (ec : Fin 4) (s : State) :=
  finish (do
    require (decide ((s.x a).toNat < 16)) codeProt
    let w ← loadBlock (s.x b).toNat
    issueTo d (← prepMvc s.issuer (← myTensors) (s.x a).toNat w ec.val)) s

/-- JPOLL (R244). -/
def execJpoll (d a : Reg) (s : State) :=
  finish (do
    require (!badHandle (s.x a).toNat) codeProt
    wrX d (s.jobStatus s.act.ctx (s.x a).toNat)) s

/-- The queues that QFEN names (R245). -/
def fenceQueues (c : Ctx) (clus xa : Nat) : List EngineQueue :=
  (if bitOf xa 0 then [c.matrixQueue clus] else []) ++ (if bitOf xa 1 then [c.copyQueue clus] else []) ++
  (if bitOf xa 2 then [c.gatherQueue clus] else []) ++
  ((List.range 16).filter fun n => bitOf xa (16 + n)).map .cmvu

/-- QFEN (R141, R245). -/
def qfenOp (d : Reg) (xa : Nat) : Op Unit := do
  require (decide (xa ≠ 0) && decide (bits xa 15 3 = 0) && decide (bits xa 63 32 = 0)) codeProt
  let s ← get
  let c ← myCtx
  let it := s.issuer
  let qs := fenceQueues c it.clus xa
  issueTo d ⟨qs.map fun q => (q, mkJob it it.clus .whole (.qfen qs) 0 0), none⟩

/-- QFEN. -/
def execQfen (d a : Reg) (s : State) := finish (qfenOp d (s.x a).toNat) s

/-! ## Remote commands -/

/-- Checks word 0 and the zero fields of a command block (R246). Word 2 of an MZERO is its xb by the table, and may hold anything
(DESIGN CHOICE log 63). -/
def blockAllowed (w : List Nat) : Bool :=
  let g (i : Nat) : Nat := (w[i]?).getD 0
  let op := bits (g 0) 63 56
  let ec := bits (g 0) 51 50
  let shape := bits (g 0) 49 42
  let rest (i : Nat) : Bool := (w.drop i).all (· == 0)
  decide (bits (g 0) 55 52 = 0) && decide (bits (g 0) 41 0 = 0) &&
  (match op with
   | 1 => decide (bits (g 0) 49 48 ≠ 3) && decide (bits (g 0) 47 42 < 16) && rest 4
   | 3 | 4 | 5 => decide (ec = 0) && decide (shape = 0) && rest 3
   | 6 => decide (shape = 0) && rest 6
   | 7 => decide (ec = 0) && decide (shape = 0) && rest 6
   | 8 => decide (shape = 0) && rest 5
   | _ => false)

/-- The tensor ids that a command block names (R246). -/
def blockTensors (w : List Nat) : List Nat :=
  let g (i : Nat) : Nat := (w[i]?).getD 0
  match bits (g 0) 63 56 with
  | 1 => [bits (g 2) 15 0, bits (g 3) 15 0]
  | 4 | 5 => [bits (g 1) 15 0]
  | 8 => [bits (g 1) 15 0]
  | _ => []

/-- The right an op needs: its bit in a capability (R247). -/
def rightBit : Nat → Nat
  | 6 | 7 => 41
  | 8 => 42
  | _ => 40

/-- The operand checks of the named command at the target (R246): the command, performed on cluster clus or CMVU n. -/
def prepRemote (r : Remote) (target : Nat) (onBi : Bool) : Op Command := do
  let w := r.words.map BitVec.toNat
  let g (i : Nat) : Nat := (w[i]?).getD 0
  let op := bits (g 0) 63 56
  let cls := bits (g 0) 51 50
  let it : Issuer := ⟨r.ctx, r.lcore, r.slot, if op = 8 then Config.clusterOf r.lcore else target, onBi⟩
  let tens (id : Nat) : Option Tensor := assocGet r.tensors id
  match op with
  | 1 => prepMma it tens (g 1) (g 2) (g 3) (rowsOfCode (bits (g 0) 49 48)) (16 * (bits (g 0) 47 42 + 1)) cls none
  | 3 => prepMzero it (g 1)
  | 4 => prepMldt it tens (g 1) (g 2)
  | 5 => prepMstt it tens (g 1) (g 2) (r.gen.getD ⟨0, 1⟩)
  | 6 => prepCpy it ((w.drop 1).take 4) (g 5) cls
  | 7 => prepCpyg it ((w.drop 1).take 4) (g 5)
  | _ => prepMvc it tens (target - 0x80) ((w.drop 1).take 4) cls

/-- The target's checks in the order of R247: the accepted command, or the status code and detail it completes with; a buffer descriptor
that is poisoned is an engine's read of poison (R145, R228). -/
def State.remoteVerdict (s : State) (r : Remote) : Except (Nat × Nat) Command :=
  match s.ctx? r.ctx with
  | none => .error (jobRefused, 2)
  | some c =>
    let cap := r.cap.toNat
    let op := bits ((r.words.map BitVec.toNat)[0]?.getD 0) 63 56
    let target := bits cap 51 44
    if (crng c.capKey (BitVec.ofNat 128 (cap / 2 ^ 32))).toNat % 2 ^ 32 ≠ cap % 2 ^ 32 then .error (jobRefused, 1)
    else if bits cap 63 52 ≠ r.ctx then .error (jobRefused, 2)
    else if !bitOf cap (rightBit op) then .error (jobRefused, 3)
    else if bitOf cap 43 ∨ ¬(if op = 8 then 0x80 ≤ target ∧ target < 0x90 else target < 64) then .error (jobRefused, 4)
    else if bits cap 39 32 ≠ c.epoch then .error (jobRefused, 5)
    else
      match prepRemote r target r.onBi s with
      | .ok (cmd, _) => .ok cmd
      | .error (.fault code _ pois n) =>
        if pois then .error (jobPoison, 0) else if code = codeTens then .error (jobTensor, n) else .error (jobRefused, 6)
      | .error .stall => .error (jobRefused, 6)

/-- MSEND (R246): everything the command names is captured at issue, and an accepted command is debited there. The generator advances at
issue past an MSTT's SR run (R117), whatever the target answers later (DEDUCED log 42). -/
def msendOp (d : Reg) (xa : Nat) (cap : Word) : Op Unit := do
  if xa % 64 ≠ 0 then raiseAt codeAlign xa
  let w := wordsOf 8 (← loadBytes xa 64)
  require (blockAllowed w) codeProt
  let tens ← myTensors
  let s ← get
  let xt := (w[1]?).getD 0
  let op := bits ((w[0]?).getD 0) 63 56
  let gen ← takeRun (if op = 5 then msttSteps xt else 0)
  let r : Remote := ⟨s.act.ctx, s.act.lcore, s.cur.idx, 0, cap, w.map (BitVec.ofNat 64),
    (blockTensors w).filterMap fun id => (tens id).map fun t => (id, t), bits ((w[0]?).getD 0) 51 50, some gen,
    coreIsBi s.cur.core⟩
  stallOnTable
  match s.remoteVerdict r with
  | .ok ⟨_, some (u, cls, rail)⟩ => debitIssue u cls rail
  | _ => pure ()
  let num ← takeNumber
  modify fun s => { s with remotes := s.remotes ++ [{ r with num := num }] }
  writeHandle d num

/-- MSEND. -/
def execMsend (d a b : Reg) (s : State) := finish (msendOp d (s.x a).toNat (s.x b)) s

end Sys2Proof.Machine
end

