-- ==== Sys2Proof/Machine/EngineJobs.lean ====
section
/-! DEFINITION. Engine jobs as they are performed: element access, products, tile transfers, copies, channel products, fences
and the arrival of remote commands (R110, R138, R141, R145, R228, R235 to R247, R352). A job is one step of its queue, but for
a copy into a circular buffer, which is one step a row. -/

namespace Sys2Proof.Machine

/-! ## The progress of a job -/

/-- What a job has done so far: the package, its flags, whether it met poison, the accesses of an earlier attempt still to be passed,
and those passed or made, the last first. -/
structure Prog where
  state : State
  flags : Nat
  met : Bool
  left : List JobAccess
  made : List JobAccess
  deriving DecidableEq, Repr

/-- A job's operations: a fault leaves what was done before it (R228). -/
abbrev Eng := ExceptT Trap (StateM Prog)

/-- The next access of an earlier attempt, which stands (R228); none once the job goes on where it stopped. -/
def nextPast : Eng (Option JobAccess) := do
  let p ← get
  match p.left with
  | [] => pure none
  | a :: rest => do
    set { p with left := rest, made := a :: p.made }
    pure (some a)

/-- Notes an access as made. -/
def noteAccess (a : JobAccess) : Eng Unit := modify fun p => { p with made := a :: p.made }

/-- A memory operation of a job. -/
def perf {α : Type} (op : Op α) : Eng α := do
  let p ← get
  match op p.state with
  | .ok (a, s) => do
    set { p with state := s }
    pure a
  | .error t => throw t

/-- Changes the package. -/
def engUpdate (f : State → State) : Eng Unit := modify fun p => { p with state := f p.state }

/-- Records the flags of a rounding (R228); dz is always 0 in a status word (R227). -/
def engFlags (f : Nat) : Eng Unit := modify fun p => { p with flags := p.flags ||| (f &&& (31 - flagDz)) }

/-- Records that poison was met. -/
def engMet (c : Bool) : Eng Unit := modify fun p => { p with met := p.met || c }

/-! ## Memory with poison -/

/-- Bytes read with, for each, whether its line was poisoned. -/
def readMarked (w : Who) (va n : Nat) : Op (List (Byte × Bool)) := do
  let ls ← checkRange w .load va n
  let s ← get
  pure (ls.flatMap fun p => (s.readLoc p.1 p.2).map fun b => (b, s.poisoned p.1))

/-- Bytes read by an engine. -/
def engRead (w : Who) (va n : Nat) : Eng (List (Byte × Bool)) := do
  let bs ← match ← nextPast with
    | some (.bytes bs) => pure bs
    | _ => do
      let bs ← perf (readMarked w va n)
      noteAccess (.bytes bs)
      pure bs
  engMet (bs.any Prod.snd)
  pure bs

/-- Marks the line of a location poisoned; a discarded page holds none (R142, R145). -/
def State.poisonLoc (s : State) : Loc → State
  | .stash key => if s.stashPoison.contains (key / 64) then s else { s with stashPoison := (key / 64) :: s.stashPoison }
  | .mem pa _ dsc _ _ _ =>
    if dsc || s.poison.contains (pa / 64) then s else { s with poison := (pa / 64) :: s.poison }

/-- Writes located bytes of which some depend on poison: whole lines are cleared first, then the lines of those bytes are
poisoned (R145). -/
def State.writeMarked (s : State) (w : Who) : List (Loc × Nat) → List (Byte × Bool) → State
  | [], _ => s
  | (loc, n) :: rest, bs =>
    let s := s.writeLoc w loc ((bs.take n).map Prod.fst)
    let s := if (bs.take n).any Prod.snd then s.poisonLoc loc else s
    s.writeMarked w rest (bs.drop n)

/-- Writes bytes of which some depend on poison. -/
def putMarked (w : Who) (va : Nat) (bs : List (Byte × Bool)) : Op Unit := do
  let ls ← checkRange w .store va bs.length
  modify fun s =>
    let s := if ls.any (fun p => p.1.discarded) then s.countDropped w ls else s
    (s.writeMarked w ls bs).countPort w ls

/-- Bytes written by an engine. -/
def engWrite (w : Who) (va : Nat) (bs : List (Byte × Bool)) : Eng Unit := do
  match ← nextPast with
  | some _ => pure ()
  | none => do
    perf (putMarked w va bs)
    noteAccess .wrote

/-- Pieces of a write in order of their making, contiguous ones joined, so that whole lines are written whole. -/
def joinRuns : List (Nat × List (Byte × Bool)) → List (Nat × List (Byte × Bool))
  | [] => []
  | (a, bs) :: rest =>
    match joinRuns rest with
    | (b, cs) :: more => if b = a + bs.length then (a, bs ++ cs) :: more else (a, bs) :: (b, cs) :: more
    | [] => [(a, bs)]

/-- Writes pieces. -/
def engWriteAll (w : Who) : List (Nat × List (Byte × Bool)) → Eng Unit
  | [] => pure ()
  | (a, bs) :: rest => do
    engWrite w a bs
    engWriteAll w rest

/-- Bytes that all depend on poison, or none. -/
def marked (pois : Bool) (bs : List Byte) : List (Byte × Bool) := bs.map fun b => (b, pois)

/-- The little-endian number of read bytes, and whether any was poisoned. -/
def markedNat (bs : List (Byte × Bool)) : Nat × Bool := (bytesToNat (bs.map Prod.fst), bs.any Prod.snd)

/-! ## Tensor elements (R230) -/

/-- An element as an engine reads it: its pattern, its value, and whether it was poisoned. -/
structure Elem where
  raw : Nat
  val : FVal
  pois : Bool
  deriving DecidableEq, Repr

/-- An element outside a tensor. -/
def Elem.zero : Elem := ⟨0, .zero, false⟩

/-- A value under a tensor scale; a scale of 0xFF makes it NaN (R96, R100). -/
def tensorScaled (scale : Nat) (x : FVal) : FVal :=
  match scaleExp scale with
  | none => .nan false
  | some k => x.scale k

/-- Bytes that an element is read from: of a packed block, the whole (R228, R230). -/
def TDesc.elemBytes (d : TDesc) : Nat :=
  match d.fmt with
  | .elem t => elemWidth t / 8
  | .block f => if d.fmt.blocked then f.bytes else 1

/-- The element in column c that some bytes hold (R230). -/
def TDesc.elemOf (d : TDesc) (c : Nat) (bs : List (Byte × Bool)) : Elem :=
  let (v, m) := markedNat bs
  match d.fmt with
  | .elem t => ⟨v, if t.isInt then ofInt (signedAt (elemWidth t) v) else decodeF (elemFmt t) v, m⟩
  | .block f => ⟨v, if d.fmt.blocked then f.decode v (c % 32) else tensorScaled d.scale (f.decode v 0), m⟩

/-- Reads element (r, c) (R230). -/
def readElem (w : Who) (d : TDesc) (r c : Nat) : Eng Elem := do
  match d.coords r c with
  | none => pure Elem.zero
  | some (r', c') => return d.elemOf c' (← engRead w (d.addr r' c') d.elemBytes)

/-- Applies an operation to each index of a list, in order. -/
def eachOf {α β : Type} (f : α → Eng β) : List α → Eng (List β)
  | [] => pure []
  | a :: rest => do
    let b ← f a
    let bs ← eachOf f rest
    pure (b :: bs)

/-- Elements (r, c) to (r, c + n - 1). -/
def readElems (w : Who) (d : TDesc) (r c n : Nat) : Eng (List Elem) :=
  eachOf (fun k => readElem w d r (c + k)) (List.range n)

/-! ## The tile store (R126, R236) -/

/-- Key of element (row, col) of a tile slot in State.tile. -/
def tileKey (id clus slot row col : Nat) : Nat := (((id * 64 + clus) * 8 + slot) * 4096 + row * 64 + col) * 4

/-- Key of element (li, j), for a half's local row, of a tile from slot s with columns n (R236). -/
def tileAt (id clus slot n li j : Nat) : Nat :=
  tileKey id clus (slot + li / 64 * ceilDiv n 64 + j / 64) (li % 64) (j % 64)

/-- The rows that a queue entry performs: row of the whole tile, and local row (R236). -/
def halfRows (h : Half) (m : Nat) : List (Nat × Nat) :=
  match h with
  | .whole => (List.range m).map fun i => (i, i)
  | .own => (List.range 128).map fun i => (i, i)
  | .mate => (List.range 128).map fun i => (128 + i, i)

/-- Reads 16 elements of a tile row, one line. -/
def readTileLine (key : Nat) : Eng (List (Nat × Bool)) := do
  let vs ← match ← nextPast with
    | some (.line vs) => pure vs
    | _ => do
      let s := (← get).state
      let p := s.tilePoison.contains (key / 64)
      let vs := (List.range 16).map fun k => (if p then 0xFFFFFFFF else s.tile.readNat (key + 4 * k) 4, p)
      noteAccess (.line vs)
      pure vs
  engMet (vs.any Prod.snd)
  pure vs

/-- The package with the first elements of a tile line written: a whole line is cleared of poison first, and a line of which a written
element depends on poison is poisoned (R145). -/
def State.putTile (s : State) (key : Nat) (vs : List (Nat × Bool)) : State :=
  let rest := if vs.length = 16 then s.tilePoison.filter fun n => decide (n ≠ key / 64) else s.tilePoison
  { s with
    tile := s.tile.writeBytes key (vs.flatMap fun v => natToBytes 4 v.1)
    tilePoison := if vs.any Prod.snd then (key / 64) :: rest.filter fun n => decide (n ≠ key / 64) else rest }

/-- Writes 16 elements of a tile row. -/
def writeTileLine (key : Nat) (vs : List (Nat × Bool)) : Eng Unit := do
  match ← nextPast with
  | some _ => pure ()
  | none => do
    engUpdate fun s => s.putTile key vs
    noteAccess .wrote

/-- The columns of a tile in groups of 16. -/
def lineGroups (n : Nat) : List Nat := (List.range (n / 16)).map fun g => 16 * g

/-! ## Products (R110, R235) -/

/-- A list cut into pieces of 32. -/
def blocks32 {α : Type} : Nat → List α → List (List α)
  | 0, _ => []
  | n + 1, xs => xs.take 32 :: blocks32 n (xs.drop 32)

/-- The exact sum of the products of a block (R110). -/
def blockSum (ps : List (FVal × FVal)) : Formed :=
  ps.foldl (fun acc p =>
    let m := mulF p.1 p.2
    let a := addF .rne acc.val m.val
    ⟨a.val, acc.flags ||| m.flags ||| a.flags⟩) ⟨.zero, 0⟩

/-- combine for floating operands: one rounding to f32 (R110). -/
def combineF (acc : Nat) (s : Formed) : Rounded :=
  let a := addF .rne (decodeF .f32 acc) s.val
  let y := a.round .f32 .rne 0
  ⟨y.bits, y.flags ||| s.flags⟩

/-- combine for integers: wrapping modulo 2^32 (R110). -/
def combineI (acc : Nat) (ps : List (Nat × Nat)) : Nat :=
  wrapAt 32 ((acc : Int) + (ps.map fun p => signedAt 8 p.1 * signedAt 8 p.2).sum)

/-- The accumulation of a row of A with a row of B over its blocks. -/
def accumulate (ints : Bool) (nblk : Nat) (acc : Nat) (as bs : List Elem) : Rounded :=
  (blocks32 nblk (as.zip bs)).foldl (fun y blk =>
    if ints then ⟨combineI y.bits (blk.map fun p => (p.1.raw, p.2.raw)), y.flags⟩
    else
      let z := combineF y.bits (blockSum (blk.map fun p => (p.1.val, p.2.val)))
      ⟨z.bits, y.flags ||| z.flags⟩) ⟨acc, 0⟩

/-- Outputs of a row, one after another (R235): cols gives for each the column and what it starts from; outs are those made. A fault in
reading a row of B leaves the outputs before it in the tile. The rows of B are answered with the outputs. -/
def productCols (ints : Bool) (nblk key : Nat) (as : List Elem) (rowOf : Nat → Eng (List Elem)) :
    List (Nat × Nat × Bool) → List (Nat × Bool) → Eng (List (List Elem) × List (Nat × Bool))
  | [], outs => pure ([], outs)
  | (col, old, pois) :: rest, outs => do
    let b ← tryCatch (rowOf col) fun t => do
      engUpdate fun s => s.putTile key outs
      throw t
    let y := accumulate ints nblk old as b
    engFlags y.flags
    let (bs, all) ← productCols ints nblk key as rowOf rest
      (outs ++ [(y.bits, pois || as.any Elem.pois || b.any Elem.pois)])
    pure (b :: bs, all)

/-- Sixteen outputs of a row from a column on: acc from the slot or zero, then the blocks. -/
def productLine (ints acc : Bool) (nblk key : Nat) (as : List Elem) (rowOf : Nat → Eng (List Elem)) (g : Nat) :
    Eng (List (List Elem)) := do
  let old ← if acc then readTileLine key else pure (List.replicate 16 (0, false))
  let (bs, outs) ← productCols ints nblk key as rowOf (((List.range 16).map (g + ·)).zip old) []
  writeTileLine key outs
  pure bs

/-- A captured descriptor; issue checked that it can be read. -/
def theDesc (t : Tensor) : Eng TDesc :=
  match parseTensor t with
  | some d => pure d
  | none => throw (.fault codeTens 0 false 2)

/-- A row of A: of the tensor, or of MMAG's gathered index (R237). -/
def productRow (w : Who) (d : TDesc) (rows : Option (List Nat)) (row0 k0 kk i : Nat) : Eng (List Elem) :=
  match rows with
  | none => readElems w d (row0 + i) k0 kk
  | some l =>
    let r := (l[i]?).getD 0xFFFFFFFF
    if r = 0xFFFFFFFF then pure (List.replicate kk Elem.zero) else readElems w d r k0 kk

/-- MMA and MMAG (R235, R237): the outputs are made row by row. The rows of B are read as the first row's outputs need them, and
serve the others (DESIGN CHOICE log 24). -/
def runMma (j : Job) (a b : Tensor) (rows : Option (List Nat)) (row0 col0 k0 slot m n kk : Nat) (acc : Bool) : Eng Unit := do
  let w : Who := .core j.ctx j.lcore
  let da ← theDesc a
  let db ← theDesc b
  let ints : Bool := decide (da.fmt = .elem .i8)
  let line (p : Nat × Nat) (rowOf : Nat → Eng (List Elem)) : Eng (List (List Elem)) := do
    let as ← productRow w da rows row0 k0 kk p.1
    let bs ← eachOf (fun g => productLine ints acc (kk / 32) (tileAt j.ctx j.clus slot n p.2 g) as rowOf g) (lineGroups n)
    pure bs.flatten
  match halfRows j.half m with
  | [] => pure ()
  | p :: rest => do
    let bs ← line p fun col => readElems w db (col0 + col) k0 kk
    let _ ← eachOf (fun q => line q fun col => pure ((bs[col]?).getD [])) rest
    pure ()

/-! ## Tile transfers -/

/-- MZERO (R239). -/
def runMzero (j : Job) (slot m n : Nat) : Eng Unit := do
  let _ ← eachOf (fun (p : Nat × Nat) => do
    let _ ← eachOf (fun g => writeTileLine (tileAt j.ctx j.clus slot n p.2 g) (List.replicate 16 (0, false))) (lineGroups n)
    pure ()) (halfRows j.half m)

/-- An element as MLDT places it in a slot (R239). -/
def loadedElem (iv : Bool) (t : TFmt) (e : Elem) : Rounded :=
  if iv then
    let w := match t with
      | .elem t => elemWidth t
      | .block _ => 8
    let v := signedAt w e.raw
    if v < -2 ^ 31 then ⟨2 ^ 31, flagNv⟩ else if 2 ^ 31 ≤ v then ⟨2 ^ 31 - 1, flagNv⟩ else ⟨wrapAt 32 v, 0⟩
  else roundVal .f32 .rne 0 false e.val

/-- MLDT (R239). -/
def runMldt (j : Job) (t : Tensor) (iv : Bool) (row col slot m n : Nat) : Eng Unit := do
  let d ← theDesc t
  let _ ← eachOf (fun (p : Nat × Nat) => do
    let _ ← eachOf (fun g => do
      let es ← readElems (.core j.ctx j.lcore) d (row + p.1) (col + g) 16
      let outs := es.map fun e => (loadedElem iv d.fmt e, e.pois)
      engFlags (outs.foldl (fun f o => f ||| o.1.flags) 0)
      writeTileLine (tileAt j.ctx j.clus slot n p.2 g) (outs.map fun o => (o.1.bits, o.2))) (lineGroups n)
    pure ()) (halfRows j.half m)

/-- A tile element as a value (R240). -/
def tileVal (iv : Bool) (v : Nat) : FVal := if iv then ofInt (signedAt 32 v) else decodeF .f32 v

/-- A tile value in an unblocked format (R240). -/
def storedElem (t : TFmt) (scale : Nat) (mode : RMode) (r : Nat) (x : FVal) : Rounded :=
  match t with
  | .elem e => if e.isInt then toIntF mode r true (elemWidth e) x else roundVal (elemFmt e) mode r false x
  | .block f =>
    match scaleExp scale with
    | none => ⟨f.fmt.nan, 0⟩
    | some k => roundVal f.fmt mode r true (x.scale (-k))

/-- The pieces that a row of the tile makes in memory, and its flags (R240): xs are the row's values with their poison, e0 the
position of the first. A block of 32 columns goes whole to the block of its first reduced column, where a column ring's length is no
multiple of 32 too (DESIGN CHOICE log 67). -/
def storedRow (d : TDesc) (mode : RMode) (run : List (BitVec 128)) (r c e0 : Nat) (xs : List (FVal × Bool)) :
    List (Nat × List (Byte × Bool)) × Nat :=
  let pieces : List (Option ((Nat × List (Byte × Bool)) × Nat)) :=
    if d.fmt.blocked then
      (List.range (xs.length / 32)).map fun b =>
        let ys := (xs.drop (32 * b)).take 32
        match d.fmt, d.coords r (c + 32 * b) with
        | .block f, some (r', c') =>
          let vs := ys.map Prod.fst
          let q := quantizeBlock f.fmt mode (fun i => srBits run (e0 + 32 * b + i)) vs (maxMag vs)
          some ((d.addr r' c', marked (ys.any Prod.snd) (natToBytes f.bytes q.bits)), q.flags)
        | _, _ => none
    else
      xs.zipIdx.map fun (x, k) =>
        (d.coords r (c + k)).map fun p =>
          let y := storedElem d.fmt d.scale mode (srBits run (e0 + k)) x.1
          ((d.addr p.1 p.2, marked x.2 (natToBytes d.fmt.bytes y.bits)), y.flags)
  let kept := pieces.filterMap id
  (joinRuns (kept.map Prod.fst), kept.foldl (fun f p => f ||| p.2) 0)

/-- MSTT (R240). -/
def runMstt (j : Job) (t : Tensor) (iv : Bool) (mode row col slot m n : Nat) (gen : Gen) : Eng Unit := do
  let d ← theDesc t
  let rm := RMode.ofCode mode
  let run := if rm = .sr then Gen.draw (ceilDiv (m * n) 8) gen else []
  let _ ← eachOf (fun (p : Nat × Nat) => do
    let vs ← eachOf (fun g => readTileLine (tileAt j.ctx j.clus slot n p.2 g)) (lineGroups n)
    let (ps, fl) := storedRow d rm run (row + p.1) col (p.1 * n) (vs.flatten.map fun v => (tileVal iv v.1, v.2))
    engFlags fl
    engWriteAll (.core j.ctx j.lcore) ps) (halfRows j.half m)

/-! ## Copies -/

/-- An address plus a number of strides, as 64 bits. -/
def strideVa (base : Nat) (k : Nat) (stride : Int) : Nat := wrapAt 64 ((base : Int) + k * stride)

/-- CPY to memory (R241). -/
def runCpy (j : Job) (dst src nr nb : Nat) (ds ss : Int) : Eng Unit := do
  let w : Who := .core j.ctx j.lcore
  let _ ← eachOf (fun r => do engWrite w (strideVa dst r ds) (← engRead w (strideVa src r ss) nb)) (List.range nr)

/-- CPYG (R242). A row whose index is poisoned depends on poison as a whole. -/
def runCpyg (j : Job) (dst src nr nb : Nat) (ds ss : Int) (idx : Nat) : Eng Unit := do
  let w : Who := .core j.ctx j.lcore
  let _ ← eachOf (fun r => do
    let (i, m) := markedNat (← engRead w (idx + 4 * r) 4)
    if m then engWrite w (strideVa dst r ds) (marked true (List.replicate nb 0xFF))
    else if i = 0xFFFFFFFF then pure ()
    else engWrite w (strideVa dst r ds) (← engRead w (strideVa src i ss) nb)) (List.range nr)

/-- The next row of a CPY into a circular buffer: whether there was a free entry for it (R241, R187). -/
def runFill (j : Job) (src nb : Nat) (ss : Int) (cb : Nat) : Eng Bool := do
  let w : Who := .core j.ctx j.lcore
  let (owner, off, c) ← perf (cbOpen w cb)
  if c.room = 0 then pure false
  else
    engWrite w (cbEntryVa cb owner c (c.put % 2 ^ c.lcnt)) (← engRead w (strideVa src j.row ss) nb)
    perf do
      let c' ← cbHand j.ctx owner off { c with put := (c.put + 1) % 2 ^ 32 }
      cbClose j.ctx owner off c'
    pure true

/-! ## Channel products (R243) -/

/-- The 64-byte lines that hold the elements of some rows of W, each once. -/
def weightLines (d : TDesc) (row0 nrow : Nat) : List Nat :=
  ((List.range nrow).flatMap fun r => (List.range d.cols).flatMap fun k =>
    match d.coords (row0 + r) k with
    | none => []
    | some (r', c') =>
      let a := d.addr r' c'
      (List.range ((a + d.elemBytes - 1) / 64 - a / 64 + 1)).map fun i => a / 64 + i).eraseDups

/-- Element (r, c) of W from its lines. -/
def weightElem (lines : List (Nat × List (Byte × Bool))) (d : TDesc) (r c : Nat) : Elem :=
  match d.coords r c with
  | none => Elem.zero
  | some (r', c') =>
    d.elemOf c' ((List.range d.elemBytes).map fun i =>
      let a := d.addr r' c' + i
      (((assocGet lines (a / 64)).getD [])[a % 64]?).getD (0, false))

/-- Elements padded with zeros to a multiple of 32 columns (R243). -/
def padRow (es : List Elem) : List Elem := es ++ List.replicate (32 * ceilDiv es.length 32 - es.length) Elem.zero

/-- MVC (R243). x is read first, then W, every line of it once and whole, so that a job that waits for firmware sees no line part old and
part new (R358); the results are written together at the end (DESIGN CHOICE log 24). -/
def runMvc (j : Job) (t : Tensor) (row0 x y nrow : Nat) (acc : Bool) : Eng Unit := do
  let w : Who := .core j.ctx j.lcore
  let d ← theDesc t
  let xs ← eachOf (fun k => do
    let (v, m) := markedNat (← engRead w (x + 4 * k) 4)
    pure (⟨v, decodeF .f32 v, m⟩ : Elem)) (List.range d.cols)
  let lines ← eachOf (fun l => do return (l, ← engRead w (64 * l) 64)) (weightLines d row0 nrow)
  let outs ← eachOf (fun r => do
    match d.coords (row0 + r) 0 with
    | none => pure (if acc then none else some (y + 4 * r, marked false (natToBytes 4 0)))
    | some _ => do
      let ws := (List.range d.cols).map fun k => weightElem lines d (row0 + r) k
      let (old, m) ← if acc then do pure (markedNat (← engRead w (y + 4 * r) 4)) else pure (0, false)
      let out := accumulate false (ceilDiv d.cols 32) old (padRow ws) (padRow xs)
      engFlags out.flags
      pure (some (y + 4 * r, marked (m || ws.any Elem.pois || xs.any Elem.pois) (natToBytes 4 out.bits)))) (List.range nrow)
  engWriteAll w (joinRuns (outs.filterMap id))

/-! ## Running the head of a queue -/

/-- The rail of a job that declared a class (R350). -/
def JobKind.rail : JobKind → Rail
  | .mvc .. => .hub
  | .cpy .. => .fb
  | _ => .mx

/-- What the engine measured of a job: the class and the block-steps above the declared class, if any (R352, DESIGN CHOICE log 20). -/
def State.measured (s : State) (j : Job) : Option (Nat × Nat) :=
  if j.steps = 0 then none
  else
    let cls := Config.measuredClass s.free % 4
    if cls ≤ j.energy then none else some (cls, 1 + Config.overrunSteps s.free % j.steps)

/-- Accounts a measured overrun (R352): the counter of the context descriptor, held while that lies in a DRAM in SREF, which it wakes
(R332, R340), and the completion debit. -/
def State.chargeOverrun (s : State) (j : Job) (cls u : Nat) : State :=
  match s.ctx? j.ctx with
  | none => s
  | some c =>
    let d := ceilDiv (u * (classCost cls - classCost j.energy) * s.factor j.onBi j.kind.rail) 16
    (s.setCtx j.ctx { c with ebud := ebudDebit c.ebud d }).countHeld j.ctx (c.desc + 0x40)

/-- Whether the half of a split job that ends now is the last (R236). -/
def State.lastHalf (s : State) (j : Job) : Bool :=
  decide (j.half = .whole) ||
    s.halves.any fun h => decide (h.ctx = j.ctx) && decide (h.lcore = j.lcore) && decide (h.slot = j.slot) && decide (h.num = j.num)

/-- Removes the head of a queue and completes its job. What the engines measured of it is accounted once, at the completion: of a
split job with its last half, for the block-steps of both (R236, R352). -/
def State.finishJob (s : State) (q : EngineQueue) (j : Job) (code detail flags : Nat) : State :=
  let j' := if j.half = .whole then j else { j with steps := 2 * j.steps }
  let counts := s.lastHalf j && decide (j.steps ≠ 0)
  let ovr := if counts then s.measured j' else none
  let s := { s with engines := assocPut s.engines q (s.queueOf q).tail, free := if counts then s.free + 1 else s.free }
  let s := match ovr with
    | some (cls, u) => s.chargeOverrun j cls u
    | none => s
  s.completeJob j code detail flags ovr.isSome

/-- Replaces the head of a queue. -/
def State.setHead (s : State) (q : EngineQueue) (j : Job) : State :=
  { s with engines := assocPut s.engines q (j :: (s.queueOf q).tail) }

/-- The die whose firmware answers a queue's PAGE: its own, and the hub's for the SI and the CMVUs (R368). -/
def queueDie : EngineQueue → Nat
  | .matrix si c | .copy si c | .gather si c => if si then 0 else 1 + c / 32
  | .cmvu _ => 0

/-- A fault of a job (R228): PAGE and RES leave it at the head of its queue until firmware has answered; what it did before stands, and
made holds its accesses up to the one that faulted, from which it resumes. Poison that stops it completes it as POISON, any other fault as
FAULT, with what it wrote before. -/
def State.jobFaulted (s : State) (made : List JobAccess) (q : EngineQueue) (j : Job) (code addr flags : Nat) : State :=
  let req : PageFault := ⟨j.ctx, addr, .job q, queueDie q, false⟩
  let gone : PageFault := ⟨j.ctx, addr / 2 ^ 16, .noMap, 0, false⟩
  let held := s.setHead q { j with waiting := true, past := made }
  if code = codePage ∧ !s.pages.contains gone then { held with pages := held.pages ++ [req] }
  else if code = codeRes then State.wake { held with pendRes := held.pendRes ++ [req] } ⟨.dram, 0, j.ctx, j.lcore⟩
  else { s with pages := s.pages.filter fun p => decide (p ≠ gone) }.finishJob q j
    (if code = codePois then jobPoison else jobFault) (if code = codePois then 0 else code) flags

/-- The status code of a job that finished. -/
def doneCode (met : Bool) : Nat := if met then jobPoison else jobDone

/-- Whether a queue waits for the other half of a split that was issued there (R236). -/
def State.splitOpen (s : State) (q : EngineQueue) : Bool :=
  s.halves.any fun h =>
    h.own && (match s.ctx? h.ctx with
      | some c => decide (c.matrixQueue h.clus = q)
      | none => false)

/-- Performs the job at the head of a queue when a test gives its body. -/
def runJob (body : Job → Option (Eng Unit)) : Op Unit :=
  modify fun s =>
    let q := s.arg.eng
    match s.queueOf q with
    | [] => s
    | j :: _ =>
      if j.waiting || s.splitOpen q then s
      else
        match body j with
        | none => s
        | some run =>
          match run.run ⟨s, 0, false, j.past, []⟩ with
          | (.ok _, p) => p.state.finishJob q j (doneCode p.met) 0 p.flags
          | (.error (.fault code addr _ _), p) => p.state.jobFaulted p.made.reverse q j code addr p.flags
          | (.error .stall, _) => s

/-- MMA_JOB. -/
def execMmaJob (s : State) := event (runJob fun j =>
  match j.kind with
  | .mma a b rows row0 col0 k0 slot m n kk acc => some (runMma j a b rows row0 col0 k0 slot m n kk acc)
  | _ => none) s

/-- MZERO_JOB. -/
def execMzeroJob (s : State) := event (runJob fun j =>
  match j.kind with
  | .mzero slot m n => some (runMzero j slot m n)
  | _ => none) s

/-- MLDT_JOB. -/
def execMldtJob (s : State) := event (runJob fun j =>
  match j.kind with
  | .mldt t iv row col slot m n => some (runMldt j t iv row col slot m n)
  | _ => none) s

/-- MSTT_JOB. -/
def execMsttJob (s : State) := event (runJob fun j =>
  match j.kind with
  | .mstt t iv mode row col slot m n gen => some (runMstt j t iv mode row col slot m n gen)
  | _ => none) s

/-- CPY_JOB: a copy to memory (R241). -/
def execCpyJob (s : State) := event (runJob fun j =>
  match j.kind with
  | .cpy dst src nr nb ds ss cb => if cb = 0 then some (runCpy j dst src nr nb ds ss) else none
  | _ => none) s

/-- CPYG_JOB. -/
def execCpygJob (s : State) := event (runJob fun j =>
  match j.kind with
  | .cpyg dst src nr nb ds ss idx => some (runCpyg j dst src nr nb ds ss idx)
  | _ => none) s

/-- MVC_JOB. -/
def execMvcJob (s : State) := event (runJob fun j =>
  match j.kind with
  | .mvc t row0 x y nrow acc => some (runMvc j t row0 x y nrow acc)
  | _ => none) s

/-- CB_FILL (R241): one row of the copy at the head of the queue; it stalls while the buffer has no free entry. -/
def cbFillOp : Op Unit :=
  modify fun s =>
    let q := s.arg.eng
    match s.queueOf q with
    | [] => s
    | j :: _ =>
      match j.kind with
      | .cpy _ src nr nb _ ss cb =>
        if j.waiting || cb = 0 then s
        else
          match (runFill j src nb ss cb).run ⟨s, 0, false, j.past, []⟩ with
          | (.ok false, _) => s
          | (.ok true, p) =>
            let j' := { j with row := j.row + 1, met := j.met || p.met, past := [] }
            if j'.row < nr then p.state.setHead q j' else p.state.finishJob q j' (doneCode j'.met) 0 0
          | (.error (.fault code addr _ _), p) => p.state.jobFaulted p.made.reverse q j code addr 0
          | (.error .stall, _) => s
      | _ => s

/-- CB_FILL. -/
def execCbFill (s : State) := event cbFillOp s

/-- Whether a fence heads every queue that it names, with no half of a split of theirs left running (R141, R245). -/
def State.fenceReady (s : State) (j : Job) (qs : List EngineQueue) : Bool :=
  qs.all fun q => decide ((s.queueOf q).head? = some j) && !s.splitOpen q

/-- QFEN_FENCE_JOB (R141, R245): the fence completes, leaving every queue that it heads. -/
def fenceOp : Op Unit :=
  modify fun s =>
    match s.queueOf s.arg.eng with
    | [] => s
    | j :: _ =>
      match j.kind with
      | .qfen qs =>
        if s.fenceReady j qs then
          let s := { s with engines := s.engines.map fun (p : EngineQueue × List Job) => if qs.contains p.1 then (p.1, p.2.tail) else p }
          s.completeJob j jobDone 0 0 false
        else s
      | _ => s

/-- QFEN_FENCE_JOB. -/
def execQfenFenceJob (s : State) := event fenceOp s

/-- REMOTE_COMMAND_ARRIVAL (R246, R247): the i-th command under way reaches its target. -/
def remoteArrival : Op Unit :=
  modify fun s =>
    match s.remotes[s.arg.i]? with
    | none => s
    | some r =>
      let s := { s with remotes := s.remotes.eraseIdx s.arg.i }
      match s.remoteVerdict r with
      | .ok cmd => s.enterJobs r.num cmd.jobs
      | .error (code, detail) => s.setJob r.ctx r.lcore r.slot r.num (jobWord r.num code detail 0 false)

/-- REMOTE_COMMAND_ARRIVAL. -/
def execRemoteCommandArrival (s : State) := event remoteArrival s

end Sys2Proof.Machine
end

