-- ==== Sys2Proof/Machine/Graph.lean ====
section
/-! DEFINITION. Interaction nets: nodes, free lists, LINK, bags, productions, templates and completion links (R250 to R268). A
LINK is one step, its connect step (R263), so that no lock is held between steps. -/

namespace Sys2Proof.Machine

/-! ## Node and port words -/

/-- lv of a header (R251). -/
def hdrLv (h : Nat) : Bool := bitOf h 40
/-- dd of a header. -/
def hdrDd (h : Nat) : Bool := bitOf h 39
/-- pj of a header. -/
def hdrPj (h : Nat) : Bool := bitOf h 38
/-- Arity of a header. -/
def hdrArity (h : Nat) : Nat := bits h 51 50
/-- Tag of a header. -/
def hdrTag (h : Nat) : Nat := bits h 63 52
/-- Owner of a header. -/
def hdrOwner (h : Nat) : Nat := bits h 49 41
/-- Whether a node is live (R253). -/
def hdrLive (h : Nat) : Bool := hdrLv h && !hdrDd h
/-- A header with bits cleared and set. -/
def hdrWith (h clear set : Nat) : Nat := (h &&& (2 ^ 64 - 1 - clear)) ||| set

/-- An end: a port of a node, or an immediate of 61 bits (R252). -/
inductive End where
  | port (node p : Nat) | imm (v : Nat)
  deriving DecidableEq, Repr

/-- Whether two ends are one. -/
def End.same : End → End → Bool
  | .port n p, .port n' p' => decide (n = n') && decide (p = p')
  | .imm v, .imm v' => decide (v = v')
  | .port _ _, .imm _ => false
  | .imm _, .port _ _ => false

/-- The word of an end (R252). -/
def End.word : End → Nat
  | .port n p => 2 ^ 61 + n + p
  | .imm v => 3 * 2 ^ 61 + v % 2 ^ 61

/-- Kinds of a port word (R252). -/
def portKind (w : Nat) : Nat := bits w 62 61
def kindFree : Nat := 0
def kindPort : Nat := 1
def kindWire : Nat := 2
def kindImm : Nat := 3

/-- The end that a word of kind PORT, WIRE or IMM leads to. -/
def wordEnd (w : Nat) : End :=
  if portKind w = kindImm then .imm (bits w 60 0) else .port (bits w 47 6 * 64) (bits w 1 0)

/-- Address of a port word (R250). -/
def portVa (n p : Nat) : Nat := n + 8 + 8 * p

/-- An immediate's 61 bits as a register value (R258). -/
def immValue (v : Nat) : Word := BitVec.ofInt 64 (signedAt 61 v)

/-! ## The arena -/

/-- Whether an address lies in the node chunks (R254). -/
def Ctx.inNodes (c : Ctx) (a : Nat) : Bool :=
  decide (c.nodeBase + 4096 ≤ a) && decide (a < c.nodeBase + 2 ^ 16 * c.nodePages)

/-- Chunks of the arena (R254). -/
def Ctx.chunkCount (c : Ctx) : Nat := 16 * c.nodePages - 1

/-- The nodes of a chunk. -/
def Ctx.chunk (c : Ctx) (k : Nat) : List Nat := (List.range 64).map fun i => c.nodeBase + 4096 * (k + 1) + 64 * i

/-- Takes a chunk of the arena, which one being open. The directory, of which R254 gives no layout, is not written to the arena's first
4 KiB, and a store there changes no allocation (R254, DESIGN CHOICE log 25). -/
def Ctx.takeChunk (c : Ctx) (r : Nat) : Option (List Nat × Ctx) :=
  let back := c.chunks.length
  let total := back + (if c.chunkNext < c.chunkCount then 1 else 0)
  if total = 0 then none
  else if r % total < back then
    some ((c.chunks[r % total]?).getD [], { c with chunks := c.chunks.eraseIdx (r % total) })
  else some (c.chunk c.chunkNext, { c with chunkNext := c.chunkNext + 1 })

/-- Takes a node from a free list, refilled from the arena when it is empty; which one is open (R254, R255, DESIGN CHOICE log 25). -/
def allocNode (id : Nat) (list : List Nat) : Op (Option (Nat × List Nat)) := do
  let c ← theCtx id
  let list ← if list.isEmpty then do
      match c.takeChunk (Config.freeNat (← freeIndex)) with
      | some (ns, c') => do
        modify (·.setCtx id c')
        pure ns
      | none => pure []
    else pure list
  if list.isEmpty then pure none
  else
    let k := Config.freeNat (← freeIndex) % list.length
    pure ((list[k]?).map fun n => (n, list.eraseIdx k))

/-- A free list and the context after a node's return; above 128 nodes 64 go back first (R254). -/
def Ctx.giveNode (c : Ctx) (list : List Nat) (n : Nat) : List Nat × Ctx :=
  if 128 ≤ list.length then (list.drop 64 ++ [n], { c with chunks := c.chunks ++ [list.take 64] }) else (list ++ [n], c)

/-- Puts a node on the free list of a core, or of a cluster's net unit (R254, R256). -/
def State.returnNode (s : State) (id : Nat) (net : Bool) (owner n : Nat) : State :=
  s.modCtx id fun c =>
    if net then
      let (l, c) := c.giveNode ((assocGet c.netFree owner).getD []) n
      { c with netFree := assocPut c.netFree owner l }
    else
      let (l, c) := c.giveNode (c.core owner).free n
      c.setCore owner { c.core owner with free := l }

/-! ## Access to nodes -/

/-- Reads a word of a node; poison ends the operation with POIS (DEDUCED log 26). -/
def nodeGet (w : Who) (va : Nat) : Op Nat := do
  let ls ← checkRange w .atomic va 8
  let s ← get
  if s.anyPoison ls then throw (.fault codePois va true 0)
  pure (bytesToNat (s.readLocs ls))

/-- Writes a word of a node. -/
def nodePut (w : Who) (va v : Nat) : Op Unit := writeRange w va (natToBytes 8 v)

/-- A node operand of an instruction: alignment, then the arena (R256, R265). -/
def nodeOperand (id xa : Nat) : Op Unit := do
  if xa % 64 ≠ 0 then raiseAt codeAlign xa
  if !(← theCtx id).inNodes xa then raiseAt codeProt xa

/-- PROT on a node in a UN page (R254). -/
def notUn (w : Who) (va : Nat) : Op Unit := do
  let ls ← checkRange w .atomic va 8
  if ls.any (fun p => match p.1 with
    | .mem _ kind _ _ _ _ => decide (kind = 2)
    | .stash _ => false) then raiseAt codeProt va

/-- Owner that a node's header names; core 0 when it cannot be read (R322). -/
def State.ownerOf (s : State) (w : Who) (n : Nat) : Nat :=
  match nodeGet w n s with
  | .ok (h, _) => hdrOwner h
  | .error _ => 0

/-! ## Bags (R257, R258, R264) -/

/-- The package with a cluster's bag changed. -/
def State.modBag (s : State) (id cl : Nat) (f : Bag → Bag) : State :=
  s.modCtx id fun c => { c with bags := assocPut c.bags cl (f (c.bag cl)) }

/-- The production of two tags (R257). -/
def Ctx.production (c : Ctx) (a b : Nat) : Option Production := c.prods.find? fun p => p.tagA = a && p.tagB = b

/-- The end word of a pair's second end (R320). -/
def Pair.endWord (p : Pair) : Nat :=
  match p.other with
  | .inl n => (End.port n 0).word
  | .inr v => (End.imm (v.toNat % 2 ^ 61)).word

/-- The entry of a push, with its production; none when no key matches (R257). -/
def classify (c : Ctx) (tag : Nat → Nat) (p : Nat) (e : End) : Option Pair :=
  match e with
  | .imm v => (c.production (tag p) 1).map fun pr => ⟨p, .inr (immValue v), pr, false⟩
  | .port q _ =>
    match c.production (tag p) (tag q) with
    | some pr => some ⟨p, .inl q, pr, false⟩
    | none => (c.production (tag q) (tag p)).map fun pr => ⟨q, .inl p, pr, true⟩

/-- Pushes a pair to a cluster's bag (R257, R264): p is the node named first (DEDUCED log 27). -/
def pushPair (w : Who) (id cl p : Nat) (e : End) : Op Unit := do
  let c ← theCtx id
  let hp ← nodeGet w p
  let hq ← match e with
    | .port q _ => nodeGet w q
    | .imm _ => pure 0
  match classify c (fun n => if n = p then hdrTag hp else hdrTag hq) p e with
  | none => modify (·.postFault id (hdrOwner hp) 0 3 codeProt 0 p e.word 0)
  | some pr =>
    modify fun s => (s.modBag id cl fun b =>
      if pr.prod.hw then { b with templates := b.templates ++ [pr] } else { b with tasks := b.tasks ++ [pr] }).spillRoom id
        (s.dieOfCore id (Config.coreOf cl 0))

/-- The take of a node of a pair: whether it was live, and then it is spent. -/
def takeNode (w : Who) (n : Nat) : Op Bool := do
  let h ← nodeGet w n
  if hdrLive h then do
    nodePut w n (hdrWith h 0 (2 ^ 39))
    pure true
  else pure false

/-- The take of a pair (R258): whether both nodes were live; each then becomes spent. The nodes are visited lower address first, the
first that is not live ends the visit, and a dd set before it is cleared. -/
def takeStep (w : Who) (p : Pair) : Op Bool := do
  match p.other with
  | .inr _ => takeNode w p.n1
  | .inl n2 => do
    let lo := Nat.min p.n1 n2
    let h ← nodeGet w lo
    if !(← takeNode w lo) then pure false
    else if ← takeNode w (Nat.max p.n1 n2) then pure true
    else do
      nodePut w lo h
      pure false

/-- A pair that a take discards (R258): ERRS.link, and a fault record when a header could not be read. -/
def State.discardPair (s : State) (w : Who) (id : Nat) (p : Pair) (failed : Option Nat) : State :=
  let o := s.ownerOf w p.n1
  let s := s.setErr id o errLink
  match failed with
  | none => s
  | some code =>
    let s := if code = codePois then s.countPoison id o else s
    s.postFault id o 0 3 code 0 p.n1 p.endWord 0

/-! ## LINK (R262) -/

/-- The operand checks of LINK: the end, and whether its node is spent. -/
def checkEnd (w : Who) (id v : Nat) : Op (End × Bool) := do
  require (!bitOf v 63 && (decide (portKind v = kindPort) || decide (portKind v = kindImm))) codeProt
  if portKind v = kindImm then pure (.imm (bits v 60 0), false)
  else
    require (decide (bits v 60 48 = 0)) codeProt
    let n := bits v 47 6 * 64
    let p := bits v 1 0
    if bits v 5 2 ≠ 0 then raiseAt codeAlign (bits v 47 2 * 4)
    if !(← theCtx id).inNodes n then raiseAt codeProt n
    notUn w n
    let h ← nodeGet w n
    let x ← nodeGet w (portVa n p)
    if !hdrLv h || decide (hdrArity h < p) then raiseAt codeProt n
    if hdrDd h then
      if p = 0 ∨ !(portKind x = kindPort ∨ portKind x = kindImm) then raiseAt codeProt n
    else if portKind x ≠ kindFree ∨ hdrPj h then raiseAt codeProt n
    pure (.port n p, hdrDd h)

/-- stands_for from a word (R262): the end that its connection leads to, none for RETRY. -/
def followWire (w : Who) : Nat → Nat → Op (Option End)
  | 0, _ => pure none
  | hops + 1, x => do
    match wordEnd x with
    | .imm v => pure (some (.imm v))
    | .port n p => do
      let h ← nodeGet w n
      let y ← nodeGet w (portVa n p)
      if !hdrDd h || portKind y ≠ kindWire then pure (some (.port n p)) else followWire w hops (y - 2 ^ 61)

/-- stands_for (R253, R262). -/
def standsFor (w : Who) (e : End) (spent : Bool) : Op (Option End) := do
  match e, spent with
  | .port n p, true => followWire w 8 (← nodeGet w (portVa n p))
  | _, _ => pure (some e)

/-- The lock word of the connection that an operand stands on (R262). -/
def edgeLock (e : End) (spent : Bool) (x : End) : List Nat :=
  match e, spent, x with
  | .port n p, true, .imm _ => [portVa n p]
  | .port n p, true, .port n' p' => [Nat.min (portVa n p) (portVa n' p')]
  | _, _, _ => []

/-- Whether a spent operand and its stand-in point at each other directly (R262). -/
def direct (w : Who) (e : End) (spent : Bool) (x : End) : Op Bool := do
  match e, spent with
  | .port n p, true => do
    let v ← nodeGet w (portVa n p)
    match x with
    | .imm _ => pure ((wordEnd v).same x)
    | .port n' p' => do
      let y ← nodeGet w (portVa n' p')
      pure (decide (portKind v = kindPort) && (wordEnd v).same x && decide (portKind y = kindPort)
        && (wordEnd y).same e)
  | _, _ => pure true

/-- Writes the word of a location. -/
def putEnd (w : Who) (at_ : End) (v : Nat) : Op Unit :=
  match at_ with
  | .port n p => nodePut w (portVa n p) v
  | .imm _ => pure ()

/-- The relay that a spent operand becomes: WIRE to its stand-in's new partner, or FREE (R262). -/
def relay (w : Who) (e : End) (spent : Bool) (standIn partner : End) : Op Unit :=
  if spent then
    putEnd w e (match standIn, partner with
      | .port _ _, .port n p => 2 ^ 62 + n + p
      | _, _ => 0)
  else pure ()

/-- Whether an end is the principal port of a live node. -/
def principal (w : Who) : End → Op Bool
  | .port n 0 => do return hdrLive (← nodeGet w n)
  | _ => pure false

/-- connect (R262): 2 for spent ports wired to each other or two values, 1 when a pair was pushed, else 0. -/
def connectEnds (w : Who) (id cl : Nat) (ea eb : End) (sa sb : Bool) (x y : End) : Op Nat := do
  let bothImm : Bool := match x, y with
    | .imm _, .imm _ => true
    | _, _ => false
  if (x.same eb && y.same ea) || bothImm then do
    if sa then putEnd w ea 0
    if sb then putEnd w eb 0
    pure 2
  else do
    putEnd w x y.word
    putEnd w y x.word
    relay w ea sa x y
    relay w eb sb y x
    let px ← principal w x
    let py ← principal w y
    match x, y, px, py with
    | .port n _, _, true, true => do
      pushPair w id cl n y
      pure 1
    | .port n _, .imm _, true, false => do
      pushPair w id cl n y
      pure 1
    | .imm _, .port n _, false, true => do
      pushPair w id cl n x
      pure 1
    | _, _, _, _ => pure 0

/-- LINK of two end words (R262): its result. It backs off, as a stall, where the rule retries. Every check of the first operand, with
the reads of its node, comes before those of the second (DESIGN CHOICE log 65). -/
def linkEnds (w : Who) (id cl va vb : Nat) : Op Nat := do
  let (ea, sa) ← checkEnd w id va
  let (eb, sb) ← checkEnd w id vb
  match ea, eb with
  | .port n p, .port n' p' => require (decide (¬(n = n' ∧ p = p'))) codeProt
  | _, _ => pure ()
  match ← standsFor w ea sa, ← standsFor w eb sb with
  | some x, some y => do
    for l in edgeLock ea sa x ++ edgeLock eb sb y do
      if bitOf (← nodeGet w l) 63 then throw .stall
    if !((← direct w ea sa x) && (← direct w eb sb y)) then throw .stall
    connectEnds w id cl ea eb sa sb x y
  | _, _ => throw .stall

/-- LINK. -/
def execLink (d a b : Reg) (s : State) :=
  finish (do
    let n ← slotNode (linkEnds s.who s.act.ctx (Config.clusterOf s.act.lcore) (s.x a).toNat (s.x b).toNat)
    wrX d (BitVec.ofNat 64 n)) s

/-! ## Nodes as operands -/

/-- A new node's 64 bytes: header, free ports, payload (R251, R252, R255). -/
def nodeBytes (tag arity owner : Nat) (payload : List Nat) : List Byte :=
  natToBytes 8 (tag * 2 ^ 52 + arity * 2 ^ 50 + owner * 2 ^ 41 + 2 ^ 40) ++ List.replicate 32 0 ++
  payload.flatMap (natToBytes 8)

/-- NALLOC (R255). -/
def nallocOp (d : Reg) : Op Unit := do
  let s ← get
  let l := s.act.lcore
  match ← allocNode s.act.ctx (← myCore).free with
  | none => do
    setMyErr errNode
    wrX d 0
  | some (n, rest) => do
    modMyCore fun k => { k with free := rest }
    writeRange s.who n (nodeBytes 0 0 l [0, 0, 0])
    wrX d (BitVec.ofNat 64 n)

/-- NALLOC. -/
def execNalloc (d : Reg) (s : State) := finish (nallocOp d) s

/-- Whether the port words lo to arity of a node all pass a test. -/
def portsAll (w : Who) (n : Nat) (test : Nat → Bool) : List Nat → Op Bool
  | [] => pure true
  | p :: rest => do
    let v ← nodeGet w (portVa n p)
    let more ← portsAll w n test rest
    pure (test v && more)

/-- NFREE (R256). -/
def nfreeOp (xa : Nat) : Op Unit := do
  let s ← get
  nodeOperand s.act.ctx xa
  let h ← nodeGet s.who xa
  let ok ← portsAll s.who xa (fun v => decide (portKind v = kindFree) || decide (portKind v = kindImm))
    (List.range (hdrArity h + 1))
  if !(hdrLive h && !hdrPj h && ok) then raiseAt codeProt xa
  nodePut s.who xa (hdrWith h (0xFFF * 2 ^ 52 + 2 ^ 40) 0)
  modify fun s => s.returnNode s.act.ctx false s.act.lcore xa

/-- NFREE. -/
def execNfree (a : Reg) (s : State) := finish (slotNode (nfreeOp (s.x a).toNat)) s

/-- Marks a node released (R256). -/
def State.release (s : State) (id n : Nat) (net : Bool) (owner : Nat) : State :=
  s.modCtx id fun c =>
    if c.released.any fun r => r.node = n then c else { c with released := c.released ++ [⟨n, net, owner⟩] }

/-- NREL (R256). -/
def nrelOp (xa : Nat) : Op Unit := do
  let s ← get
  nodeOperand s.act.ctx xa
  let h ← nodeGet s.who xa
  if !(hdrLv h && hdrDd h) then raiseAt codeProt xa
  modify (·.release s.act.ctx xa false s.act.lcore)

/-- NREL. -/
def execNrel (a : Reg) (s : State) := finish (slotNode (nrelOp (s.x a).toNat)) s

/-- The return of a released node, if its auxiliary ports all hold WIRE or FREE (R256). -/
def returnStep (w : Who) (id : Nat) (r : Released) : Op Unit := do
  let h ← nodeGet w r.node
  if ← portsAll w r.node (fun v => decide (portKind v = kindWire) || decide (portKind v = kindFree))
      ((List.range (hdrArity h)).map (· + 1)) then
    nodePut w r.node (hdrWith h (0xFFF * 2 ^ 52 + 2 ^ 40) 0)
    modify fun s =>
      (s.modCtx id fun c => { c with released := c.released.filter fun q => decide (q ≠ r) }).returnNode id r.net r.owner r.node

/-- NREL_RETURN: the i-th released node of a context (R256). A node that cannot be read stays released; poison is counted (R145). -/
def execNrelReturn (s : State) := event (do
  let s ← get
  let c ← theCtx s.arg.ctx
  match c.released[s.arg.i]? with
  | none => pure ()
  | some r => do
    let die := s.dieOfCore s.arg.ctx (if r.net then Config.coreOf r.owner 0 else r.owner)
    match ← deviceOn die s.arg.ctx (returnStep (.core s.arg.ctx 0) s.arg.ctx r) with
    | .failed code _ =>
      if code = codePois then modify (·.countPoison s.arg.ctx (if r.net then Config.coreOf r.owner 0 else r.owner))
    | _ => pure ()) s

/-- NLD (R265). -/
def nldOp (d : Reg) (xa k : Nat) : Op Unit := do
  let s ← get
  nodeOperand s.act.ctx xa
  wrX d (BitVec.ofNat 64 (← loadNat (xa + 8 * k) 8))

/-- NLD. -/
def execNld (d a : Reg) (w : Fin 8) (s : State) := finish (nldOp d (s.x a).toNat w.val) s

/-- Whether a word may be stored in a port (R252, R265). -/
def portStorable (v : Nat) : Bool :=
  !bitOf v 63 && decide (portKind v ≠ kindWire)
    && (decide (portKind v = kindImm) || (decide (bits v 60 48 = 0) && decide (bits v 5 2 = 0)))

/-- NST (R251, R265). -/
def nstOp (xa k v : Nat) : Op Unit := do
  let s ← get
  nodeOperand s.act.ctx xa
  let h ← slotNode (nodeGet s.who xa)
  if !hdrLv h then raiseAt codeProt xa
  if k = 0 then
    require (decide (bits v 35 0 = 0) && !(decide (1 ≤ hdrTag v) && decide (hdrTag v < 0x100))) codeProt
    let mask := 0xFFF * 2 ^ 52 + 3 * 2 ^ 50 + 3 * 2 ^ 36
    storeBytes xa (natToBytes 8 (hdrWith h mask (v &&& mask)))
  else if k ≤ 4 then
    require (portStorable v) codeProt
    if bitOf (← slotNode (nodeGet s.who (xa + 8 * k))) 63 then throw .stall
    storeBytes (xa + 8 * k) (natToBytes 8 v)
  else storeBytes (xa + 8 * k) (natToBytes 8 v)

/-- NST. -/
def execNst (r a : Reg) (w : Fin 8) (s : State) := finish (nstOp (s.x a).toNat w.val (s.x r).toNat) s

/-- The end word that PUSHP takes: IMM, or PORT to port 0 of a node (R266). A word whose node is misaligned raises ALIGN, as a misaligned
node operand does (DESIGN CHOICE log 65). -/
def pushEnd (id xb : Nat) : Op End := do
  require (!bitOf xb 63 && (decide (portKind xb = kindImm)
    || (decide (portKind xb = kindPort) && decide (bits xb 60 48 = 0)))) codeProt
  let e := wordEnd xb
  match e with
  | .imm _ => pure ()
  | .port n p => do
    if bits xb 5 2 ≠ 0 then raiseAt codeAlign (bits xb 47 2 * 4)
    if p ≠ 0 ∨ !(← theCtx id).inNodes n then raiseAt codeProt n
  pure e

/-- A node of PUSHP must be live (R266). -/
def pushLive (w : Who) (n : Nat) : Op Unit := do
  notUn w n
  if !hdrLive (← nodeGet w n) then raiseAt codeProt n

/-- PUSHP (R266): both operands, both nodes live, then the two principal ports, each check in the rule's order. -/
def pushpOp (xa xb : Nat) : Op Unit := do
  let s ← get
  let w := s.who
  let id := s.act.ctx
  nodeOperand id xa
  let e ← pushEnd id xb
  pushLive w xa
  match e with
  | .imm _ => pure ()
  | .port n _ => pushLive w n
  if (← nodeGet w (portVa xa 0)) ≠ xb then raiseAt codeProt xa
  match e with
  | .imm _ => pure ()
  | .port n _ => if (← nodeGet w (portVa n 0)) ≠ (End.port xa 0).word then raiseAt codeProt n
  pushPair w id (Config.clusterOf s.act.lcore) xa e

/-- PUSHP. -/
def execPushp (a b : Reg) (s : State) := finish (slotNode (pushpOp (s.x a).toNat (s.x b).toNat)) s

/-- BAGCNT (R267). -/
def execBagcnt (d : Reg) (s : State) :=
  finish (do
    let b := (← myCtx).bag (Config.clusterOf s.act.lcore)
    wrX d (BitVec.ofNat 64 (Nat.min (b.templates.length + b.tasks.length) (2 ^ 32 - 1)))) s

/-! ## Productions and templates (R260, R261) -/

/-- A template's words. -/
structure Template where
  nodes : List Nat
  links : List Nat
  deriving DecidableEq, Repr

/-- Arity of new node k. -/
def Template.arity (t : Template) (k : Nat) : Nat := bits ((t.nodes[k]?).getD 0) 51 50

/-- Whether an end code is allowed (R261); imm says that node 2 is an immediate. -/
def Template.codeOk (t : Template) (imm : Bool) (c : Nat) : Bool :=
  match bits c 15 14 with
  | 0 => decide (bits c 13 11 = 0) && decide (bits c 7 2 = 0) && decide (bits c 10 8 < t.nodes.length)
      && decide (bits c 1 0 ≤ t.arity (bits c 10 8))
  | 1 => decide (bits c 13 2 = 0) && decide (bits c 1 0 ≠ 0)
  | 2 => decide (bits c 13 2 = 0) && (if imm then decide (bits c 1 0 = 0) else decide (bits c 1 0 ≠ 0))
  | _ => true

/-- Both end codes of a link word. -/
def linkCodes (v : Nat) : List Nat := [bits v 31 16, bits v 15 0]

/-- Whether a template passes the check of R260 and R261. -/
def Template.ok (t : Template) (imm : Bool) : Bool :=
  let codes := t.links.flatMap linkCodes
  let fresh := codes.filter fun c => decide (bits c 15 14 = 0)
  t.nodes.all (fun v => decide (0x100 ≤ bits v 63 52) && decide (bits v 49 2 = 0) && decide (bits v 1 0 ≠ 3))
    && t.links.all (fun v => decide (bits v 63 32 = 0)) && codes.all (t.codeOk imm) && decide fresh.Nodup

/-- Reads a template; none when it fails the check. -/
def readTemplate (w : Who) (va : Nat) (imm : Bool) : Op (Option Template) := do
  let (bs, m) ← readRange w va 8
  if m then throw (.fault codePois va true 0)
  let h := bytesToNat bs
  let nn := bits h 3 0
  let nl := bits h 11 8
  if bits h 63 12 ≠ 0 ∨ bits h 7 4 ≠ 0 ∨ 8 < nn then pure none
  else
    let (bs, m) ← readRange w (va + 8) (8 * (nn + nl))
    if m then throw (.fault codePois va true 0)
    let ws := wordsOf (nn + nl) bs
    let t : Template := ⟨ws.take nn, ws.drop nn⟩
    pure (if t.ok imm then some t else none)

/-- PRODL (R260). -/
def prodlOp (xa xb : Nat) : Op Unit := do
  let s ← get
  let a := bits xa 11 0
  let b := bits xa 23 12
  let kind := bits xa 25 24
  require (decide (bits xa 63 40 = 0) && decide (bits xa 27 26 = 0) && decide (kind ≠ 3) && decide (0x100 ≤ a)
    && (decide (0x100 ≤ b) || decide (b = 1))) codeProt
  let c ← myCtx
  let others := c.prods.filter fun p => !(decide (p.tagA = a) && decide (p.tagB = b))
  if kind = 0 then
    require (decide (xb = 0)) codeProt
    modMyCtx fun c => { c with prods := others }
  else
    if kind = 1 then
      require (decide (xb ≠ 0) && decide (xb < 2 ^ 48)) codeProt
      if xb % 2 ≠ 0 then raiseAt codeAlign xb
    else
      if xb % 64 ≠ 0 then raiseAt codeAlign xb
      if (← slotNode (readTemplate s.who xb (decide (b = 1)))).isNone then raiseAt codeProt xb
    require (decide (others.length < 4096)) codeProt
    modMyCtx fun c => { c with prods := others ++ [⟨a, b, decide (kind = 2), bits xa 39 28, if kind = 2 then canonVa s.who xb else xb⟩] }

/-- PRODL. -/
def execProdl (a b : Reg) (s : State) := finish (prodlOp (s.x a).toNat (s.x b).toNat) s

/-! ## Device operations that outlast a failure -/

/-- Runs an operation of the device: a failure that firmware cannot mend is answered by its code; a PAGE, a RES or a stall
ends the whole so that it is made again. -/
def softly {α : Type} (id : Nat) (op : Op α) : Op (Except Nat α) := do
  match ← attempt op with
  | .ok a => pure (.ok a)
  | .error .stall => throw .stall
  | .error (.fault code addr pois num) =>
    let s ← get
    let gone : PageFault := ⟨id, addr / 2 ^ 16, .noMap, 0, false⟩
    if (code = codePage ∧ !s.pages.contains gone) ∨ code = codeRes then throw (.fault code addr pois num)
    else do
      if code = codePage then set { s with pages := s.pages.erase gone }
      pure (.error code)

/-- Takes n nodes from a free list; none when they are not all available. -/
def allocNodes (id : Nat) (list : List Nat) : Nat → Op (Option (List Nat × List Nat))
  | 0 => pure (some ([], list))
  | n + 1 => do
    match ← allocNode id list with
    | none => pure none
    | some (a, rest) => do
      match ← allocNodes id rest n with
      | none => pure none
      | some (more, rest) => pure (some (a :: more, rest))

/-- The end word of an end code (R261). -/
def codeWord (nodes : List Nat) (p : Pair) (c : Nat) : Nat :=
  match bits c 15 14 with
  | 0 => (End.port ((nodes[bits c 10 8]?).getD 0) (bits c 1 0)).word
  | 1 => (End.port p.n1 (bits c 1 0)).word
  | 2 =>
    match p.other with
    | .inl n => (End.port n (bits c 1 0)).word
    | .inr v => (End.imm (v.toNat % 2 ^ 61)).word
  | _ => (End.imm (wrapAt 61 (signedAt 14 (bits c 13 0)))).word

/-- The payload of a new node (R261); a copy from an immediate is open (DESIGN CHOICE log 28). -/
def newPayload (w : Who) (p : Pair) (src : Nat) : Op (List Nat) := do
  let readAt (n : Nat) : Op (List Nat) := do
    let a ← nodeGet w (n + 40)
    let b ← nodeGet w (n + 48)
    let c ← nodeGet w (n + 56)
    pure [a, b, c]
  match src, p.other with
  | 1, _ => readAt p.n1
  | 2, .inl n => readAt n
  | 2, .inr _ => do
    let i ← freeIndex
    let j ← freeIndex
    let k ← freeIndex
    pure [(Config.freeWord i).toNat, (Config.freeWord j).toNat, (Config.freeWord k).toNat]
  | _, _ => pure [0, 0, 0]

/-- Writes the new nodes (R261 step 3). -/
def writeNodes (w : Who) (p : Pair) (owner : Nat) : List (Nat × Nat) → Op Unit
  | [] => pure ()
  | (n, v) :: rest => do
    writeRange w n (nodeBytes (bits v 63 52) (bits v 51 50) owner (← newPayload w p (bits v 1 0)))
    writeNodes w p owner rest

/-- The links of a template in order (R261 step 4): the code of the first that fails, for whatever reason (DESIGN CHOICE log 65). -/
def makeLinks (w : Who) (id cl : Nat) (nodes : List Nat) (p : Pair) : List Nat → Op (Option Nat)
  | [] => pure none
  | v :: rest => do
    match ← softly id (linkEnds w id cl (codeWord nodes p (bits v 31 16)) (codeWord nodes p (bits v 15 0))) with
    | .ok _ => makeLinks w id cl nodes p rest
    | .error code => pure (some code)

/-- Removes the head of a cluster's template list. -/
def dropTemplate (id cl : Nat) : Op Unit := modify (·.modBag id cl fun b => { b with templates := b.templates.tail })

/-- A fault record that names a template-list entry (R261, R320). -/
def templateFault (w : Who) (id : Nat) (p : Pair) (code : Nat) : Op Unit :=
  modify fun s =>
    let o := s.ownerOf w p.n1
    (if code = codePois then s.countPoison id o else s).postFault id o 0 4 code 0 p.n1 p.endWord 0

/-- Steps 2 to 5 of R261, with the nodes taken from the free list and rest what it still holds. A take that fails returns
them. A new node that cannot be written posts a record with its code, and the nodes taken are not returned (DESIGN CHOICE log 65). -/
def rewritePair (w : Who) (id cl : Nat) (p : Pair) (t : Template) (nodes rest : List Nat) : Op Unit := do
  let keep (l : List Nat) : Op Unit := modify (·.modCtx id fun c => { c with netFree := assocPut c.netFree cl l })
  match ← softly id (takeStep w p) with
  | .error code => do
    keep (nodes ++ rest)
    modify (·.discardPair w id p (some code))
  | .ok false => do
    keep (nodes ++ rest)
    modify (·.discardPair w id p none)
  | .ok true => do
    keep rest
    let owner := hdrOwner (← nodeGet w p.n1)
    match ← softly id (writeNodes w p owner (nodes.zip t.nodes)) with
    | .error code => templateFault w id p code
    | .ok _ => do
      match ← makeLinks w id cl nodes p t.links with
      | some code => templateFault w id p code
      | none => modify fun s =>
        let s := s.release id p.n1 true cl
        match p.other with
        | .inl n => s.release id n true cl
        | .inr _ => s

/-- The net unit serves the head of a cluster's template list (R261); the list of a context that is not resident stays in its task arena
(R323). A template that cannot be read fails with its code as one that breaks the check does (DESIGN CHOICE log 65). -/
def instantiate (id cl : Nat) : Op Unit := do
  let c ← theCtx id
  let w : Who := .core id (Config.coreOf cl 0)
  match if c.resident then (c.bag cl).templates else [] with
  | [] => pure ()
  | p :: _ => do
    dropTemplate id cl
    match ← softly id (readTemplate w p.prod.addr p.other.isRight) with
    | .error code => templateFault w id p code
    | .ok none => templateFault w id p codeProt
    | .ok (some t) => do
      match ← attempt (do
          match ← allocNodes id ((assocGet c.netFree cl).getD []) t.nodes.length with
          | some r => pure r
          | none => throw .stall) with
      | .ok (nodes, rest) => rewritePair w id cl p t nodes rest
      | .error _ => modify fun s =>
        (s.setErr id (s.ownerOf w p.n1) errNode).modBag id cl fun b => { b with templates := b.templates ++ [p] }

/-- TEMPLATE_INSTANTIATE. -/
def execTemplateInstantiate (s : State) := event (do
  let _ ← deviceOn (s.dieOfCore s.arg.ctx (Config.coreOf s.arg.i 0)) s.arg.ctx (instantiate s.arg.ctx s.arg.i)) s

/-! ## Completion links (R268) -/

/-- The status word written to a result node, its pj cleared (R268). -/
def depositStatus (w : Who) (n : Nat) (st : Word) : Op Unit := do
  let h ← nodeGet w n
  nodePut w (n + 56) st.toNat
  nodePut w n (hdrWith h (2 ^ 38) 0)

/-- The link of a completed job's result node, to the bag of the cluster of its owner (R264, R268). -/
def completionStep (w : Who) (id n : Nat) : Op Nat := do
  let h ← nodeGet w n
  linkEnds w id (Config.clusterOf (hdrOwner h)) (End.port n 0).word (← nodeGet w (n + 48))

/-- NETI (R268). -/
def netiOp (d : Reg) (xa : Nat) : Op Unit := do
  let s ← get
  let w := s.who
  let id := s.act.ctx
  nodeOperand id xa
  notUn w xa
  let h ← nodeGet w xa
  let p0 ← nodeGet w (portVa xa 0)
  let handle ← nodeGet w (xa + 40)
  if !hdrLive h || hdrPj h || portKind p0 ≠ kindFree || badHandle handle then raiseAt codeProt xa
  let (e, _) ← checkEnd w id (← nodeGet w (xa + 48))
  require (decide (e ≠ .port xa 0)) codeProt
  let c ← myCtx
  require (decide ((c.links.filter fun k => k.handle = handle).length < 4)) codeProt
  let st := s.jobStatus id handle
  if wordPending st then do
    nodePut w xa (hdrWith h 0 (2 ^ 38))
    modMyCtx fun c => { c with links := c.links ++ [⟨xa, handle, s.act.lcore, none⟩] }
  else do
    depositStatus w xa st
    let _ ← completionStep w id xa
  wrX d (BitVec.ofNat 64 (st.toNat % 16))

/-- NETI. -/
def execNeti (d a : Reg) (s : State) := finish (slotNode (netiOp d (s.x a).toNat)) s

/-- The i-th registered completion link, once its job left PENDING (R268), with the status that it then had. A result node that can no
longer be read or written loses its registration with a record of source 8 and keeps pj; its word 3 is 0 where payload word 1 cannot be
read (DESIGN CHOICE log 65). -/
def completeLink (id i : Nat) : Op Unit := do
  let c ← theCtx id
  match c.links[i]? with
  | none => pure ()
  | some k =>
    match k.status with
    | none => pure ()
    | some st => do
      let w : Who := .core id k.lcore
      modify (·.modCtx id fun c => { c with links := c.links.eraseIdx i })
      let fail (code : Nat) : Op Unit := modify fun s =>
        let e := match readRange w (k.node + 48) 8 s with
          | .ok ((bs, _), _) => bytesToNat bs
          | .error _ => 0
        (if code = codePois then s.countPoison id k.lcore else s).postFault id k.lcore 0 8 code 0 k.node e 0
      match ← softly id (depositStatus w k.node st) with
      | .error code => fail code
      | .ok _ => do
        match ← softly id (completionStep w id k.node) with
        | .error code => fail code
        | .ok _ => pure ()

/-- COMPLETION_LINK. -/
def execCompletionLink (s : State) := event (do
  let c ← theCtx s.arg.ctx
  let l := ((c.links[s.arg.i]?).map CompletionLink.lcore).getD 0
  let _ ← deviceOn (s.dieOfCore s.arg.ctx l) s.arg.ctx (completeLink s.arg.ctx s.arg.i)) s

end Sys2Proof.Machine
end

