-- ==== Sys2Proof/Machine/Waits.lean ====
section
/-! DEFINITION. Satisfied waits: the deposit and the decrement that the device makes at a continuation record (R177, R184,
R185, R188), shared with the reports of a migration (R344). -/

namespace Sys2Proof.Machine

/-- What came of a deposit: made, or stopped by poison in the record's line or in a line that is written. -/
inductive Deposit where
  | made | recordPoison | linePoison
  deriving DecidableEq, Repr

/-- Whether a range that may be written has a poisoned line. -/
def storePoisoned (w : Who) (va n : Nat) : Op Bool := do
  let ls ← checkRange w .store va n
  return (← get).anyPoison ls

/-- The deposit and the decrement of a record, after the buffer of ENDW.DQ where there is one (R184, R188, R296). Nothing is
written when any part fails. -/
def depositStep (w : Who) (id va : Nat) (buf : Option (Nat × List Byte)) (bytes : List Byte) : Op Deposit := do
  match ← openRecord w id va with
  | none => pure .recordPoison
  | some (r, _) =>
    let bad ← match buf with
      | some (a, bs) => storePoisoned w a bs.length
      | none => pure false
    let bad' ← storePoisoned w r.frame bytes.length
    if bad || bad' then pure .linePoison
    else do
      match buf with
      | some (a, bs) => writeRange w a bs
      | none => pure ()
      if bytes ≠ [] then writeRange w r.frame bytes
      let _ ← joinStep w id va (-1) none
      pure .made

/-- Code of a failed deposit (R188, R320): a wait reports PROT, a migration the fault's own code. -/
def depositCode (source code : Nat) : Nat := if source = 1 then codeProt else code

/-- The device's deposit at a record: whether it is finished, made or reported. -/
def depositAt (id l va source : Nat) (buf : Option (Nat × List Byte)) (bytes : List Byte) : Op Bool := do
  let w : Who := .core id l
  let report (code : Nat) : Op Unit := modify (·.postFault id l 0 source code 0 (canonVa w va) 0 0)
  match ← deviceOn ((← get).dieOfCore id l) id (depositStep w id va buf bytes) with
  | .done .made => pure true
  | .done .recordPoison | .done .linePoison => do
    modify (·.countPoison id l)
    report codePois
    pure true
  | .later => pure false
  | .failed code _ => do
    report (depositCode source code)
    pure true

/-- What a satisfied wait writes: the buffer of ENDW.DQ, and the deposit; none while its condition does not hold
(R185). A job's status is what JPOLL returns as the deposit is made (DEDUCED log 44). -/
def waitItem (s : State) (id : Nat) (c : Ctx) (w : Wait) : Option (Option (Nat × List Byte) × List Byte) :=
  match w.kind with
  | .job h =>
    let st := s.jobStatus id h
    if wordPending st then none else some (none, natToBytes 8 st.toNat)
  | .room q die =>
    let room : Bool :=
      if q = 0 then decide (c.launchQ.length < Config.launchDepth)
      else if q = 1 then decide (s.dieCount (dieOut die) < Config.dieDepth)
      else decide (s.logitCount die < Config.dieDepth)
    if room then some (none, []) else none
  | .die buf _ | .logit buf _ => w.got.map fun g => (some (buf, g.2), g.1)
  | .cb _ | .bar _ _ | .feed _ => w.got.map fun g => (none, g.1)

/-- A record left in a feed goes to its oldest waiter, when it could not be read before (R188). -/
def retryFeed (id : Nat) (c : Ctx) (w : Wait) : Op Unit :=
  match w.kind with
  | .feed n => serveFeed id n (c.waits.length + 1)
  | _ => pure ()

/-- Serves wait i of a context if its condition holds: the wait is gone once it is made or reported. -/
def waitDepositOp (id i : Nat) : Op Unit := do
  let c ← theCtx id
  match c.waits[i]? with
  | none => pure ()
  | some w => do
    retryFeed id c w
    let c ← theCtx id
    let s ← get
    match (c.waits[i]?).bind (waitItem s id c) with
    | none => pure ()
    | some (buf, bytes) =>
      if ← depositAt id w.lcore w.record 1 buf bytes then
        modify fun s => s.modCtx id fun c => { c with waits := c.waits.eraseIdx i }

/-- WAIT_DEPOSIT: wait arg.i of context arg.ctx. -/
def execWaitDeposit (s : State) : Host.Outcome State Fault Refusal := event (waitDepositOp s.arg.ctx s.arg.i) s

end Sys2Proof.Machine
end

