-- ==== Sys2Proof/Machine/Wakes.lean ====
section
/-! DEFINITION. Wake causes with their notify records, and the cascade triggers (R332 to R335). -/

namespace Sys2Proof.Machine

/-- Whether a domain is in the state that its wakes name: ON or ACT (R334). -/
def State.domainOn (s : State) : Domain → Bool
  | .dram => !s.dramSref
  | .bi => decide (s.bi = .on)
  | .si => decide (s.si ≠ .ret)

/-- The decrement of a notify record (R177, R334): whether it is finished. A record that fails posts a fault record of
source 6; so does one in the local window, which a trigger entry alone can name, with code PROT (R378). -/
def notifyStep (w : WakeCause) : Op Bool := do
  if w.record = 0 then pure true
  else
    let who : Who := .core w.ctx w.lcore
    let report (code : Nat) : Op Unit := modify (·.postFault w.ctx w.lcore 0 6 code 0 w.record 0 0)
    if inLocal w.record then do
      report codeProt
      return true
    match ← device w.ctx (joinStep who w.ctx w.record (-1) none) with
    | .done (some _) => pure true
    | .done none => do
      modify (·.countPoison w.ctx w.lcore)
      report codePois
      pure true
    | .later => pure false
    | .failed _ _ => do
      report codeProt
      pure true

/-- Serves causes whose domain is up, in order; those that cannot be notified yet stay. -/
def serveCauses : List WakeCause → Op Unit
  | [] => pure ()
  | w :: rest => do
    if (← get).domainOn w.target then
      if ← notifyStep w then modify fun s => { s with causes := s.causes.erase w }
    serveCauses rest

/-- Serves every cause whose domain is up. -/
def serveAll : Op Unit := do serveCauses (← get).causes

/-- A wake cause, notified at once when its domain is up already (R334). -/
def wakeNow (w : WakeCause) : Op Unit := do
  modify (·.wake w)
  serveCauses [w]

/-! ## Triggers (R335) -/

/-- A trigger entry of a context descriptor. -/
structure TrigEntry where
  kind : Nat
  target : Domain
  record : Nat
  threshold : Nat
  window : Nat
  queue : Nat
  deriving DecidableEq, Repr

/-- Trigger entry e of a context descriptor (R335, R360). -/
def State.trigEntry (s : State) (c : Ctx) (e : Nat) : TrigEntry :=
  let w0 := s.physNat (c.desc + 0xC0 + 16 * e) 8
  let w1 := s.physNat (c.desc + 0xC8 + 16 * e) 8
  ⟨bits w0 63 60, if bits w0 59 58 = 0 then .dram else .bi, bits w0 47 5 * 32, bits w1 63 32,
    Nat.max 1 (bits w1 31 12), bits w1 11 0⟩

/-- Unread commands of a user queue. -/
def State.queueDepth (s : State) (n : Nat) : Nat :=
  match assocGet s.queues (.user n) with
  | some q => (q.tail + 2 ^ 32 - q.head) % 2 ^ 32
  | none => 0

/-- Whether the queue of an entry is at or below its threshold. -/
def State.queueLow (s : State) (t : TrigEntry) : Bool := decide (s.queueDepth t.queue ≤ t.threshold)

/-- What the device keeps of an entry; a new window counts nothing yet. -/
def Ctx.trigger (c : Ctx) (e : Nat) : Trigger := (assocGet c.trig e).getD ⟨true, true, 0⟩

/-- The context with what the device keeps of an entry changed. -/
def Ctx.modTrigger (c : Ctx) (e : Nat) (f : Trigger → Trigger) : Ctx :=
  { c with trig := assocPut c.trig e (f (c.trigger e)) }

/-- Arms an entry; a kind above 4 is counted as ERRS.wl of logical core 0 (R335). -/
def State.armTrigger (s : State) (id e : Nat) : State :=
  match s.ctx? id with
  | none => s
  | some c =>
    let s := s.setCtx id (c.modTrigger e fun _ => ⟨true, s.queueLow (s.trigEntry c e), 0⟩)
    if 5 ≤ (s.trigEntry c e).kind then s.setErr id 0 errWl else s

/-- Fires an entry, at most once for an arming (R335). -/
def fireTrigger (id e : Nat) : Op Unit := do
  let s ← get
  let c ← theCtx id
  if (c.trigger e).armed then
    let t := s.trigEntry c e
    set (s.setCtx id (c.modTrigger e fun g => { g with armed := false }))
    wakeNow ⟨t.target, t.record, id, 0⟩

/-- Fires the entries of a context that a test admits. -/
def fireTriggers (id : Nat) (test : TrigEntry → Bool) : List Nat → Op Unit
  | [] => pure ()
  | e :: rest => do
    let s ← get
    let c ← theCtx id
    if test (s.trigEntry c e) then fireTrigger id e
    fireTriggers id test rest

/-- The four entries of a context. -/
def trigIndexes : List Nat := [0, 1, 2, 3]

end Sys2Proof.Machine
end

