-- ==== Sys2Proof/Machine/Islands.lean ====
section
/-! DEFINITION. WAKE and MBND, and migration between the islands with its bolt image (R341 to R346). -/

namespace Sys2Proof.Machine

/-! ## Instructions -/

/-- The record that a WAKE or an MBND names passes R177 at issue; poison is counted and passes, or raised. The rule's text
states this ahead of its table (R64, R346). -/
def checkNamed (va : Nat) : Op Unit := do
  let _ ← myRecord va fun w id => do return (← openRecord w id va).map Prod.fst

/-- A named domain (R346). -/
def domainOf (n : Nat) : Domain := if n = 0 then .dram else if n = 1 then .bi else .si

/-- WAKE (R346). -/
def wakeOp (xa : Nat) : Op Unit := do
  let va := bits xa 47 5 * 32
  if va ≠ 0 then checkNamed va
  require (decide (bits xa 1 0 ≠ 3) && decide (bits xa 4 2 = 0) && decide (bits xa 63 48 = 0)) codeProt
  let s ← get
  wakeNow ⟨domainOf (bits xa 1 0), canonVa s.who va, s.act.ctx, s.act.lcore⟩

/-- WAKE. -/
def execWake (a : Reg) (s : State) := finish (wakeOp (s.x a).toNat) s

/-! ## Arrivals (R344 step 1) -/

/-- The cores of the rectangle that ORGN and RSZ hold, row-major. -/
def rectCores (orgn rsz : Nat) : List Nat :=
  (List.range (bits rsz 15 8)).flatMap fun i =>
    (List.range (bits rsz 7 0)).map fun j => (bits orgn 8 5 + i) * 32 + (bits orgn 4 0 + j)

/-- Statuses of R344. -/
def migDone : Nat := 0
def migFrame : Nat := 1
def migMismatch : Nat := 2
def migNoroom : Nat := 3
def migSame : Nat := 4
def migFold : Nat := 5

/-- Whether a fold map sends every cluster to an SI cluster and partners to different ones (R342). -/
def foldOk (m : List (Nat × Nat)) : Bool :=
  (List.range 64).all fun k =>
    let f (c : Nat) : Nat := (assocGet m c).getD (c % 2)
    decide (f k < 2) && decide (f k ≠ f (Config.partner k))

/-- The status decided when the last arrival comes; none when the migration goes on to step 2 (R344). -/
def Ctx.earlyStatus (c : Ctx) (f : Arrival) (cores : List Nat) : Option Nat :=
  let same (a : Arrival) : Bool :=
    decide (a.toSi = f.toSi) && decide (a.record = f.record) && decide (a.orgn = f.orgn) && decide (a.rsz = f.rsz)
      && cores.contains a.lcore
  if !c.arrivals.all same then some migMismatch
  else if f.toSi = !c.onBi then some migSame
  else if f.toSi && !foldOk c.foldNext then some migFold
  else none

/-- The reports of a status: each distinct record that the arrivals named, once (R344 step 6). -/
def reportsOf (status : Nat) : List Arrival → List (Nat × Nat × Nat)
  | [] => []
  | a :: rest => (a.record, a.lcore, status) :: (reportsOf status rest).filter fun r => decide (r.1 ≠ a.record)

/-- The context once every core of the first arrival's rectangle has arrived (R344). -/
def Ctx.startMigration (c : Ctx) : Ctx :=
  match c.arrivals with
  | [] => c
  | f :: _ =>
    let cores := rectCores f.orgn.toNat f.rsz.toNat
    if cores.all fun l => c.arrivals.any fun a => decide (a.lcore = l) then
      match c.earlyStatus f cores with
      | some st => { c with reports := reportsOf st c.arrivals }
      | none => { c with migrating := true }
    else c

/-- Whether a migration of the context runs (R344). -/
def Ctx.moving (c : Ctx) : Bool := c.migrating || !c.reports.isEmpty

/-- An arrival added, unless its core has arrived. -/
def addArrival (l : List Arrival) (a : Arrival) : List Arrival :=
  if l.any fun b => decide (b.lcore = a.lcore) then l else l ++ [a]

/-- A migration that has started stands in the queue of the migration engine (R138, R344). -/
def State.queueMigration (s : State) (id : Nat) : State :=
  match s.ctx? id with
  | some c => if c.moving && !s.migQueue.contains id then { s with migQueue := s.migQueue ++ [id] } else s
  | none => s

/-- MBND (R344, R346). -/
def mbndOp (xa : Nat) : Op Unit := do
  let va := bits xa 47 5 * 32
  if va ≠ 0 then checkNamed va
  require (decide (bits xa 4 1 = 0) && decide (va ≠ 0) && decide (bits xa 63 48 = 0)) codeProt
  let k ← myCore
  require k.launched codeProt
  let s ← get
  let a : Arrival := ⟨s.act.lcore, bitOf xa 0, canonVa s.who va, k.orgn, k.rsz⟩
  modMyCtx fun c =>
    if c.moving then { c with kept := addArrival c.kept a }
    else { c with arrivals := addArrival c.arrivals a }.startMigration
  modify (·.queueMigration s.act.ctx)

/-- MBND. -/
def execMbnd (a : Reg) (s : State) := finish (mbndOp (s.x a).toNat) s

/-! ## The bolt image (R343) -/

/-- Bytes cut or filled with zeros to a length. -/
def fitTo (n : Nat) (bs : List Byte) : List Byte := bs.take n ++ List.replicate (n - bs.length) 0

/-- 64-bit words as bytes. -/
def wordBytes (ws : List Nat) : List Byte := ws.flatMap (natToBytes 8)

/-- A size up to a multiple of 4 KiB. -/
def pageUp (n : Nat) : Nat := (n + 4095) / 4096 * 4096

/-- An entry of a spilled ready queue or mailbox, in 128 bytes (DESIGN CHOICE log 19). -/
def QEntry.words (e : QEntry) : List Nat :=
  let head (kind : Nat) : Nat := e.source.code + e.level * 16 + kind * 256
  match e.body with
  | .msg m =>
    [head 0, m.handler, m.refusal, m.chan * 512 + m.src] ++ m.payload.map BitVec.toNat ++
      (match m.extra with
       | some (a, b) => [1, a.toNat, b.toNat]
       | none => [0, 0, 0])
  | .entry r =>
    [head 1, r.code, r.frame, r.record, r.chain.length] ++
      (match r.initial with
       | some (n, rect, seed) => [n, rect.toNat, seed.toNat]
       | none => [0, 0, 0])
  | .saved a => [head 2, a]

/-- The pieces of a logical core's spill: the ready queue, ch1 to ch6, and the work list followed by the free list (R254, R343). -/
def coreSpill (k : LCore) : List (List Byte) :=
  let queue (test : QEntry → Bool) : List Byte := (k.queue.filter test).flatMap fun e => fitTo 128 (wordBytes e.words)
  let chan (n : Nat) (e : QEntry) : Bool := match e.body with
    | .msg m => decide (m.chan = n)
    | .entry _ | .saved _ => false
  let ready (e : QEntry) : Bool := match e.body with
    | .msg _ => false
    | .entry _ | .saved _ => true
  queue ready :: ((List.range 6).map fun n => queue (chan (n + 1))) ++
    [if k.work.isEmpty && k.free.isEmpty then []
     else wordBytes [k.work.length, k.free.length] ++ wordBytes (k.work.flatMap fun p => [p.1.toNat, p.2.toNat]) ++ wordBytes k.free]

/-- A pair of a bag, in 32 bytes. -/
def Pair.words (p : Pair) : List Nat := [p.n1, p.endWord, p.prod.tagA + p.prod.tagB * 4096 + (if p.swapped then 2 ^ 24 else 0), 0]

/-- The bag and the net unit's free list of a logical cluster (R254, R257). -/
def clusterSpill (c : Ctx) (k : Nat) : List Byte :=
  let b := c.bag k
  let free := (assocGet c.netFree k).getD []
  if b.templates.isEmpty && b.tasks.isEmpty && free.isEmpty then []
  else wordBytes [b.templates.length, b.tasks.length, free.length, 0] ++ wordBytes ((b.templates ++ b.tasks).flatMap Pair.words) ++
    wordBytes free

/-- The bytes taken for a wait already (R188). -/
def Wait.items (w : Wait) : List Byte :=
  match w.got with
  | some (a, b) => a ++ b
  | none => []

/-- A registered wait, in 64 bytes: its record, what it waits for, its core, and of what was taken for it already the lengths and the
place among the items (R188). -/
def Wait.words (w : Wait) (at_ : Nat) : List Nat :=
  let (kind, a, b) : Nat × Nat × Nat := match w.kind with
    | .job h => (0, h, 0) | .cb d => (1, d, 0) | .bar i e => (2, i, e) | .feed n => (3, n, 0) | .room q d => (4, q, d)
    | .die b d => (5, b, d) | .logit b q => (6, b, q)
  let (taken, n, m) : Nat × Nat × Nat := match w.got with
    | some (x, y) => (1, x.length, y.length)
    | none => (0, 0, 0)
  [w.record, w.lcore + kind * 2 ^ 16 + taken * 2 ^ 32, a, b, n, m, at_]

/-- The waits in 64 bytes each, their items lying one after another from a place on. -/
def waitEntries (at_ : Nat) : List Wait → List Byte
  | [] => []
  | w :: rest => fitTo 64 (wordBytes (w.words at_)) ++ waitEntries (at_ + w.items.length) rest

/-- Waits that the context block itself holds (DESIGN CHOICE log 19). -/
def waitsInBlock : Nat := 5

/-- The waits beyond those in the context block, what was taken for any, and the arrivals that barriers hold over (R188, R191). -/
def waitSpill (c : Ctx) : List Byte :=
  let held := c.bars.flatMap fun p => p.2.held.map fun h => [p.1, h.1, h.2.toNat]
  let items := c.waits.flatMap Wait.items
  let more := (waitEntries 0 c.waits).drop (64 * waitsInBlock)
  if more.isEmpty && items.isEmpty && held.isEmpty then []
  else wordBytes [more.length / 64, items.length, held.length] ++ more ++ items ++ held.flatMap fun h => fitTo 32 (wordBytes h)

/-- Every spilled piece of a context: eight of each logical core, one of each cluster, and the waits. -/
def spillPieces (c : Ctx) : List (List Byte) :=
  (List.range 512).flatMap (fun l => coreSpill (c.core l)) ++ (List.range 64).map (clusterSpill c) ++ [waitSpill c]

/-- Pointers to pieces laid one after another in the task arena, 64 bytes aligned; 0 for an empty one (R343). -/
def spillPointers (at_ : Nat) : List (List Byte) → List Nat
  | [] => []
  | x :: rest => (if x.isEmpty then 0 else at_) :: spillPointers (at_ + (x.length + 63) / 64 * 64) rest

/-- The bytes of the pieces as they are laid out. -/
def spillBytes (pieces : List (List Byte)) : List Byte := pieces.flatMap fun x => fitTo ((x.length + 63) / 64 * 64) x

/-- A core record. The layout inside its spans is the model's own (DESIGN CHOICE log 19); ptrs are its spill pointers, the second of
which, ch1's, says in bit 0 whether ch1 is closed, and the last in bits 63:48 how many nodes the free list behind the work list holds. -/
def coreRecord (k : LCore) (l : Nat) (ptrs : List Nat) : List Byte :=
  let g := k.gen.getD (Gen.seed 0 l)
  fitTo 64 (wordBytes [g.s0.toNat, g.s1.toNat, k.jseed.toNat, k.orgn.toNat, k.rsz.toNat, k.errs.toNat,
    if k.launched then 1 else 0]) ++
  fitTo 128 (k.maps.flatMap fun e => wordBytes [e.off + e.nl * 2 ^ 17, e.base]) ++
  fitTo 256 (k.stubs.flatMap fun e => wordBytes [e.lo + e.hi * 2 ^ 32, e.target]) ++
  fitTo 64 (wordBytes (ptrs.zipIdx.map fun p =>
    p.1 + (if p.2 = 1 ∧ k.ch1Closed then 1 else 0) + (if p.2 = 7 then k.free.length * 2 ^ 48 else 0))) ++
  (List.range 8).flatMap fun i => (List.range 64).flatMap fun j =>
    let t := k.table i
    natToBytes 8 (match t.status.find? fun p => decide (p.1 % 64 = j) with
      | some p => p.2.toNat
      | none => 0)

/-- A tile image: 128 rows of 256 elements (R343). -/
def tileImage (s : State) (id clus : Nat) : List Byte :=
  (List.range 128).flatMap fun r => (List.range 4).flatMap fun q =>
    s.tile.readBytes (tileBase id clus (r / 64 * 4 + q) + 256 * (r % 64)) 256
where
  /-- First key of a tile slot. -/
  tileBase (id clus slot : Nat) : Nat := ((id * 64 + clus) * 8 + slot) * 16384

/-- A barrier record in 88 bytes: subgroup and participants, episode, maximum, and the arrived cores as bits (R191). -/
def barrierBytes (b : Option Barrier) : List Byte :=
  match b with
  | none => List.replicate 88 0
  | some b =>
    wordBytes [b.row + b.col * 2 ^ 8 + b.h * 2 ^ 16 + b.w * 2 ^ 24 + b.n * 2 ^ 32, b.episode, b.max.toNat] ++
      natToBytes 64 ((b.arrived.map fun l => 2 ^ l).sum)

/-- The stitches of a context (R366): the 256 counts, the pair of each as 12 bits of its signalling and 12 of its waiting queue, and which
of them are known. -/
def stitchBytes (c : Ctx) : List Byte :=
  let each (f : Stitch → List Byte) (n : Nat) : List Byte :=
    (List.range 256).flatMap fun i => ((assocGet c.stitches i).map f).getD (List.replicate n 0)
  each (fun t => natToBytes 4 t.count) 4 ++ each (fun t => natToBytes 3 (t.sig + t.wait * 2 ^ 12)) 3 ++
    natToBytes 32 (((List.range 256).filter fun i => (assocGet c.stitches i).isSome).map fun i => 2 ^ i).sum

/-- The context block. Its layout is the model's own (DESIGN CHOICE log 19); bags are the pointers of the clusters' bags, waits that
of what the block has no room for of the waits, each in 48 bits. -/
def contextBlock (c : Ctx) (bags : List Nat) (waits : Nat) : List Byte :=
  fitTo 4096 (wordBytes [(c.arrivals.head?.map Arrival.record).getD 0, tableGet c.floors 0 + tableGet c.floors 1 * 2 ^ 32,
      waits + c.waits.length * 2 ^ 48] ++
    fitTo (64 * waitsInBlock) (waitEntries 0 c.waits) ++ (List.range 16).flatMap (fun i => barrierBytes (assocGet c.bars i)) ++
    stitchBytes c ++ ((List.range 16).map (feedAddr c) ++ bags).flatMap (natToBytes 6))

/-- The tensor table, then the production table in 16-byte entries laid out as PRODL's operands (R229, R260). -/
def tablesBlock (c : Ctx) : List Byte :=
  ((List.range 1024).flatMap fun i => fitTo 64 (((assocGet c.tensors i).getD []).flatMap fun w => natToBytes 8 w.toNat)) ++
  fitTo 65536 (c.prods.flatMap fun p =>
    wordBytes [p.index * 2 ^ 28 + (if p.hw then 2 else 1) * 2 ^ 24 + p.tagB * 2 ^ 12 + p.tagA, p.addr])

/-- The ring points (R343). -/
def ringBlock (c : Ctx) : List Byte :=
  (List.range 1024).flatMap fun i =>
    natToBytes 8 (match assocGet c.ring i with
      | some (pos, owner) => 2 ^ 63 + owner * 2 ^ 32 + pos
      | none => 0)

/-- Logical clusters that cores touch, ascending. -/
def touched (cores : List Nat) : List Nat := (List.range 64).filter fun c => cores.any fun l => decide (Config.clusterOf l = c)

/-- log2 of a power of two up to 32. -/
def log2Of (n : Nat) : Nat := ((List.range 6).find? fun k => decide (2 ^ k = n)).getD 0

/-- A rectangle laid out as launch-block word 3 (R195). -/
def rectWord (orgn rsz : Nat) : Nat :=
  log2Of (bits rsz 7 0) * 2 ^ 12 + log2Of (bits rsz 15 8) * 2 ^ 9 + bits orgn 4 0 * 16 + bits orgn 8 5

/-- The fold map section: the SI cluster of each logical cluster, or 0xFF on the BI. -/
def foldBytes (c : Ctx) (toSi : Bool) : List Byte :=
  (List.range 64).map fun k => if toSi then BitVec.ofNat 8 ((assocGet c.foldNext k).getD (k % 2)) else 0xFF

/-- The sections after the header, in order (R343): the pointers name the pieces that were spilled, none if they could not be. -/
def imageSections (s : State) (id : Nat) (c : Ctx) (cores clus : List Nat) (toSi spilled : Bool) : List (List Byte) :=
  let ptrs := if spilled then spillPointers c.arenaBase (spillPieces c) else List.replicate 4161 0
  [(List.range 512).flatMap fun l => coreRecord (c.core l) l ((ptrs.drop (8 * l)).take 8),
   cores.flatMap fun l => s.stash.readBytes (stashKey id l 0) Config.stashBytes,
   clus.flatMap fun k => tileImage s id k,
   contextBlock c ((ptrs.drop 4096).take 64) ((ptrs.drop 4160).headD 0), tablesBlock c, ringBlock c,
   fitTo 64 (wordBytes [c.ebud.toNat, c.ebud.toNat / 2 ^ 48]),
   foldBytes c toSi]

/-- Offsets of sections laid one after another from an offset, each at a multiple of 4 KiB. -/
def sectionOffsets (at_ : Nat) : List (List Byte) → List Nat
  | [] => []
  | x :: rest => at_ :: sectionOffsets (at_ + pageUp x.length) rest

/-- The header (R343). -/
def imageHeader (id : Nat) (c : Ctx) (cores clus : List Nat) (rect : Nat) (offs : List Nat) : List Byte :=
  fitTo 256 (wordBytes ([2 ^ 48 + cores.length * 2 ^ 32 + clus.length * 2 ^ 16 + (if c.onBi then 0 else 1),
    id * 2 ^ 52 + rect] ++ offs))

/-- The bolt image of a context. -/
def boltImage (s : State) (id : Nat) (c : Ctx) (cores : List Nat) (rect : Nat) (toSi spilled : Bool) : List Byte :=
  let clus := touched cores
  let parts := imageSections s id c cores clus toSi spilled
  fitTo 4096 (imageHeader id c cores clus rect (sectionOffsets 4096 parts)) ++
    parts.flatMap fun p => fitTo (pageUp p.length) p

/-! ## The move (R344 steps 4 and 5, R345) -/

/-- Page-store pages that are not lent (R339). -/
def State.freeStore (s : State) : List Nat := (List.range Config.pageStorePages).filter fun n => (assocGet s.store n).isNone

/-- Whether a page is lent for the folded cores or clusters of a context. -/
def lentTo (id : Nat) : Lent → Bool
  | .page _ _ => false
  | .stash c _ | .tile c _ => decide (c = id)

/-- The uses of the page store that a context on the SI needs: two pages a core and two a cluster (R342). -/
def foldUses (id : Nat) (cores clus : List Nat) : List Lent :=
  (cores.flatMap fun l => [.stash id l, .stash id l]) ++ clus.flatMap fun k => [.tile id k, .tile id k]

/-- The page store after a move. -/
def State.relend (s : State) (id : Nat) (cores clus : List Nat) (toSi : Bool) : State :=
  let s := { s with store := s.store.filter fun p => !lentTo id p.2 }
  if toSi then { s with store := s.store ++ s.freeStore.zip (foldUses id cores clus) } else s

/-- Discards what a context left in the die queues, counted as dropped (R296), and the rows of the logit queues of the island it
leaves (R345). -/
def State.dropQueued (s : State) (id : Nat) (toSi : Bool) : State :=
  let gone (r : LogitRow) : Bool := decide (r.ctx = id) && (if toSi then decide (r.q ≠ 0) else decide (r.q = 0))
  let mine (e : DieEntry) : Bool := decide (e.ctx = id)
  let lost (dir : Nat) : Nat := ((s.dieQ ++ s.dieFlight).filter (dieMine id dir)).length
  let any := s.dieQ.any mine || s.dieFlight.any mine || s.logits.any gone
  let s := ((s.countStale id 0 (lost 0)).countStale id 1 (lost 1))
  let s := { s with
    dieQ := s.dieQ.filter fun e => !mine e
    dieFlight := s.dieFlight.filter fun e => !mine e
    logits := s.logits.filter fun r => !gone r }
  if any then s.setErr id 0 errDq else s

/-- Every stash of the context outside the rectangle reads zero (R343). -/
def State.zeroStashes (s : State) (id : Nat) (ls : List Nat) : State :=
  ls.foldl (fun s l =>
    let lo := stashKey id l 0
    { s with
      stash := s.stash.clear lo 0x20000
      stashPoison := s.stashPoison.filter fun n => decide (n < lo / 64) || decide ((lo + 0x20000) / 64 ≤ n) }) s

/-- Every tile of the context outside the touched clusters reads zero (R343). -/
def State.zeroTiles (s : State) (id : Nat) (cs : List Nat) : State :=
  cs.foldl (fun s c =>
    let lo := (id * 64 + c) * 131072
    { s with
      tile := s.tile.clear lo 131072
      tilePoison := s.tilePoison.filter fun n => decide (n < lo / 64) || decide ((lo + 131072) / 64 ≤ n) }) s

/-- A PAGE for a task arena that must become larger for what a migration spills: whether firmware found no room (R43). -/
def growForImage (id va die : Nat) : Op Bool := do
  let s ← get
  let gone : PageFault := ⟨id, va / 2 ^ 16, .noMap, 0, false⟩
  let ask : PageFault := ⟨id, va, .image va, die, false⟩
  if s.pages.contains gone then do
    set { s with pages := s.pages.erase gone }
    pure true
  else do
    if !(s.pages.any fun p => decide (p.ctx = id) && decide (p.who = ask.who)) then set { s with pages := s.pages ++ [ask] }
    pure false

/-- The on-chip queues, mailboxes, work lists, bags, free lists and waits of a context spilled to the task arena (R343, DESIGN CHOICE
log 19): whether they are, none while firmware resolves a page of the arena or makes it larger (R43). What cannot be spilled is
reported, and stays with the context. -/
def spillOp (id : Nat) (c : Ctx) : Op (Option Bool) := do
  let bs := spillBytes (spillPieces c)
  let die := (← get).dieOfCore id 0
  let last := c.arenaBase + (bs.length - 1) / 2 ^ 16 * 2 ^ 16
  let report (code va : Nat) : Op (Option Bool) := do
    modify (·.postFault id 0 0 0 code 0 va 0 0)
    pure (some false)
  if bs.isEmpty then pure (some true)
  else if 2 ^ 16 * c.arenaPages < bs.length then
    if ← growForImage id last die then report codePage last else pure none
  else match ← deviceOn die id (writeRange (.core id 0) c.arenaBase bs) with
    | .done _ => pure (some true)
    | .later => pure none
    | .failed code va => report code va

/-- Writes the image and places the context on its target island. -/
def State.moveContext (s : State) (id : Nat) (c : Ctx) (f : Arrival) (cores : List Nat) (spilled : Bool) : State :=
  let s := s.dropQueued id f.toSi
  match s.ctx? id with
  | none => s
  | some c' =>
    let img := boltImage s id c' cores (rectWord f.orgn.toNat f.rsz.toNat) f.toSi spilled
    let s := { s with mem := s.mem.writeBytes c.bolt img }
    let s := s.zeroStashes id ((List.range 512).filter fun l => !cores.contains l)
    let s := s.zeroTiles id ((List.range 64).filter fun k => !(touched cores).contains k)
    let s := s.relend id cores (touched cores) f.toSi
    let s := s.setCtx id { c' with onBi := !f.toSi, fold := if f.toSi then c'.foldNext else c'.fold }
    if f.toSi then trigIndexes.foldl (fun s e => s.armTrigger id e) s else s

/-! ## MIGRATION_MOVE -/

/-- Whether a context has quiesced: no slot runs a task of it, every engine job of it has completed, and no transparent
fault is under way (R344 step 2). -/
def State.quiet (s : State) (id : Nat) (c : Ctx) : Bool :=
  !(s.running.any fun p => decide (p.2.ctx = id) && !p.2.priv)
    && !(s.engines.any fun q => q.2.any fun j => decide (j.ctx = id))
    && !(s.remotes.any fun r => decide (r.ctx = id))
    && !c.frames.any Frame.transparent

/-- Makes reports; those that must be made again stay. -/
def makeReports (id : Nat) : List (Nat × Nat × Nat) → Op (List (Nat × Nat × Nat))
  | [] => pure []
  | r :: rest => do
    let ok ← depositAt id r.2.1 r.1 7 none (natToBytes 8 r.2.2)
    let more ← makeReports id rest
    pure (if ok then more else r :: more)

/-- Step 6: the reports; once all are made, entries are dispatched again and kept arrivals count (R344). -/
def reportStep (id : Nat) : Op Unit := do
  let c ← theCtx id
  let left ← makeReports id c.reports
  modify fun s =>
    if left.isEmpty then
      ({ s with migQueue := s.migQueue.filter fun n => decide (n ≠ id) }.modCtx id fun c =>
        { c with reports := [], migrating := false, arrivals := c.kept, kept := [] }.startMigration).queueMigration id
    else s.modCtx id fun c => { c with reports := left }

/-- Step 6 of a migration that its arrivals asked for, with a status. -/
def settleMove (id : Nat) (c : Ctx) (status : Nat) : Op Unit := do
  modify fun s => s.modCtx id fun x => { x with reports := reportsOf status c.arrivals }
  reportStep id

/-- Steps 3 to 6 of a context that has quiesced. -/
def moveStep (id : Nat) (c : Ctx) (f : Arrival) : Op Unit := do
  let s ← get
  let target : Domain := if f.toSi then .si else .bi
  if !s.domainOn target then wakeNow ⟨target, 0, id, 0⟩
  else
    let cores := rectCores f.orgn.toNat f.rsz.toNat
    let need := 2 * cores.length + 2 * (touched cores).length
    let status : Nat :=
      if !c.frames.isEmpty then migFrame
      else if f.toSi && decide (s.freeStore.length < need) then migNoroom
      else migDone
    if status ≠ migDone then settleMove id c status
    else match ← spillOp id c with
      | none => pure ()
      | some spilled => do
        modify (·.moveContext id c f cores spilled)
        settleMove id c status

/-- MIGRATION_MOVE: the migration of context arg.ctx goes on, when it is the first in the engine's queue (R138). -/
def migrationOp (id : Nat) : Op Unit := do
  let s ← get
  let c ← theCtx id
  if s.migQueue.head? ≠ some id then pure ()
  else if !c.reports.isEmpty then reportStep id
  else if c.migrating && s.quiet id c then
    match c.arrivals with
    | f :: _ => moveStep id c f
    | [] => pure ()

/-- MIGRATION_MOVE. -/
def execMigrationMove (s : State) : Host.Outcome State Fault Refusal := event (migrationOp s.arg.ctx) s

end Sys2Proof.Machine
end

