-- ==== Sys2Proof/Machine/Kv.lean ====
section
/-! DEFINITION. The KV pool, the prefix tree, sequence records, the home ring with its stubs, and mask maps (R271 to R291). -/

namespace Sys2Proof.Machine

/-! ## The pool (R271 to R273) -/

/-- The running context, which must have a KV pool (R271). -/
def kvCtx : Op Ctx := do
  let c ← myCtx
  require (decide (c.kv.npool ≠ 0)) codeProt
  pure c

/-- Virtual address of a pool page. -/
def Ctx.poolVa (c : Ctx) (i : Nat) : Nat := c.kv.pbase + 2 ^ 16 * i

/-- Pool page that a handle names, none when it is not valid (R272). -/
def Ctx.poolIndex (c : Ctx) (h : Nat) : Option Nat :=
  if h % 2 ^ 16 = 0 ∧ c.kv.pbase ≤ h ∧ h < c.poolVa c.kv.npool ∧ h < 2 ^ 48 then some ((h - c.kv.pbase) / 2 ^ 16) else none

/-- Reference count of a page. -/
def Ctx.rc (c : Ctx) (i : Nat) : Nat := tableGet c.kvRc i

/-- Pending count of a page. -/
def Ctx.pc (c : Ctx) (i : Nat) : Nat := tableGet c.kvPc i

/-- Sets the counts of a page (R273): one whose counts fall to 0 goes to the tail of the reclaim list, and one that has a reference
again is not on it. -/
def Ctx.setCounts (c : Ctx) (i rc pc : Nat) : Ctx :=
  let was := c.rc i + c.pc i
  { c with
    kvRc := assocPut c.kvRc i rc
    kvPc := assocPut c.kvPc i pc
    kvTail := if rc + pc ≠ 0 then c.kvTail.filter fun k => decide (k ≠ i)
      else if was ≠ 0 then c.kvTail ++ [i] else c.kvTail }

/-- Drops one reference. -/
def Ctx.dropRef (c : Ctx) (i : Nat) : Ctx := c.setCounts i (c.rc i - 1) (c.pc i)

/-- Adds one reference. -/
def Ctx.addRef (c : Ctx) (i : Nat) : Ctx := c.setCounts i (c.rc i + 1) (c.pc i)

/-- Allocates the head of the reclaim list, which at creation holds every page in ascending order (R273). -/
def Ctx.allocPage (c : Ctx) : Option (Nat × Ctx) :=
  if c.kvFresh < c.kv.npool then some (c.kvFresh, ({ c with kvFresh := c.kvFresh + 1 } : Ctx).setCounts c.kvFresh 1 0)
  else
    match c.kvTail with
    | [] => none
    | i :: rest => some (i, ({ c with kvTail := rest } : Ctx).setCounts i 1 0)

/-- Page of a handle, 0 for one that is not valid. -/
def Ctx.pageOf (c : Ctx) (h : Nat) : Nat := (c.poolIndex h).getD 0

/-! ## The prefix tree (R276, R277) -/

/-- The child of a node with a hash. -/
def Ctx.child (c : Ctx) (parent : Nat) (h : Word) : Option TreeNode :=
  c.tree.find? fun n => decide (n.parent = parent) && decide (n.hash = h)

/-- The nodes below a node. -/
def Ctx.children (c : Ctx) (parent : Nat) : List TreeNode := c.tree.filter fun n => decide (n.parent = parent)

/-- The oldest of some nodes that are leaves and not on a path. -/
def Ctx.oldestLeaf (c : Ctx) (path : List Nat) (among : List TreeNode) : Option TreeNode :=
  (among.filter fun n => (c.children n.id).isEmpty && !path.contains n.id).foldl
    (fun best n => match best with
      | none => some n
      | some b => if n.stamp < b.stamp then some n else some b) none

/-- Evicts a node; its reference is dropped (R277). -/
def Ctx.evict (c : Ctx) (n : TreeNode) : Ctx :=
  ({ c with tree := c.tree.filter fun m => decide (m.id ≠ n.id) } : Ctx).dropRef (c.pageOf n.handle)

/-- Stamps a node as the most recent. -/
def Ctx.stamp (c : Ctx) (id : Nat) : Ctx :=
  { c with
    treeStamp := c.treeStamp + 1
    tree := c.tree.map fun n => if n.id = id then { n with stamp := c.treeStamp + 1 } else n }

/-- Makes room for a child of the last node of a path (R277): the context, none when nothing can be evicted. -/
def Ctx.makeRoom (c : Ctx) (path : List Nat) : Option Ctx :=
  let parent := path.headD 0
  let c1 : Option Ctx :=
    if (c.children parent).length < 16 then some c
    else (c.oldestLeaf path (c.children parent)).map c.evict
  match c1 with
  | none => none
  | some c1 =>
    if c1.tree.length < c1.kv.tnodes then some c1
    else (c1.oldestLeaf path c1.tree).map c1.evict

/-- Adds a child of a node, stamped. -/
def Ctx.addChild (c : Ctx) (parent : Nat) (h : Word) (handle : Nat) : Ctx × Nat :=
  let id := c.treeStamp + 1
  ({ c with treeStamp := id, tree := c.tree ++ [⟨id, parent, h, handle, id⟩] }, id)

/-- PFXL at the prefix unit (R278): the context, the handles matched, and whether a full count stopped it. -/
def lookup (c : Ctx) (parent : Nat) : List Word → Ctx × List Nat × Bool
  | [] => (c, [], false)
  | h :: rest =>
    match c.child parent h with
    | none => (c, [], false)
    | some n =>
      let i := c.pageOf n.handle
      if 0xFFFF ≤ c.rc i then (c, [], true)
      else
        let (c', hs, e) := lookup ((c.addRef i).stamp n.id) n.id rest
        (c', n.handle :: hs, e)

/-- PFXI at the prefix unit (R279): the context, the blocks present, and whether a full count stopped it. path is the nodes
of the path so far, the last first. -/
def insertPath (c : Ctx) (path : List Nat) (done : Nat) : List (Word × Nat) → Ctx × Nat × Bool
  | [] => (c, done, false)
  | (h, handle) :: rest =>
    match c.child (path.headD 0) h with
    | some n => insertPath (c.stamp n.id) (n.id :: path) (done + 1) rest
    | none =>
      match c.poolIndex handle with
      | none => (c, done, false)
      | some i =>
        if c.rc i + c.pc i = 0 then (c, done, false)
        else if c.rc i = 0xFFFF then (c, done, true)
        else
          let c1 := c.addRef i
          match c1.makeRoom path with
          | none => (c1.dropRef i, done, false)
          | some c2 =>
            let (c3, id) := c2.addChild (path.headD 0) h handle
            insertPath c3 (id :: path) (done + 1) rest

/-- Operand checks of PFXL and PFXI (R278): the arrays and n. -/
def prefixOperands (xa xb : Nat) : Op (Nat × Nat) := do
  let n := bits xb 63 52
  let arr := bits xb 47 0
  if xa % 8 ≠ 0 then raiseAt codeAlign xa
  require (decide (1 ≤ n) && decide (n ≤ 256)) codeProt
  if arr % 8 ≠ 0 then raiseAt codeAlign arr
  require (decide (bits xa 63 48 = 0) && decide (bits xb 51 48 = 0)) codeProt
  pure (arr, n)

/-- Words of an array read as plain loads. -/
def loadWords (va n : Nat) : Op (List Word) := do
  return (wordsOf n (← loadBytes va (8 * n))).map (BitVec.ofNat 64)

/-- PFXL (R278), with the PMISS triggers (R335). -/
def pfxlOp (d : Reg) (xa xb : Nat) : Op Unit := do
  let _ ← kvCtx
  let (out, n) ← prefixOperands xa xb
  let s ← get
  let _ ← checkRange s.who .load xa (8 * n)
  let _ ← checkRange s.who .store out (8 * n)
  let hs ← loadWords xa n
  let (c, got, full) := lookup (← myCtx) 0 hs
  modMyCtx fun _ => c
  if full then setMyErr errKvref
  if !got.isEmpty then storeBytes out (got.flatMap (natToBytes 8))
  wrX d (BitVec.ofNat 64 got.length)
  fireTriggers s.act.ctx (fun t => decide (t.kind = 2) && decide (t.threshold ≤ n - got.length)) trigIndexes

/-- PFXL. -/
def execPfxl (d a b : Reg) (s : State) := finish (pfxlOp d (s.x a).toNat (s.x b).toNat) s

/-- PFXI (R279). -/
def pfxiOp (d : Reg) (xa xb : Nat) : Op Unit := do
  let _ ← kvCtx
  let (arr, n) ← prefixOperands xa xb
  let s ← get
  let _ ← checkRange s.who .load xa (8 * n)
  let _ ← checkRange s.who .load arr (8 * n)
  let hs ← loadWords xa n
  let ins ← loadWords arr n
  let (c, m, full) := insertPath (← myCtx) [] 0 (hs.zip (ins.map BitVec.toNat))
  modMyCtx fun _ => c
  if full then setMyErr errKvref
  wrX d (BitVec.ofNat 64 m)

/-- PFXI. -/
def execPfxi (d a b : Reg) (s : State) := finish (pfxiOp d (s.x a).toNat (s.x b).toNat) s

/-- Drops the references of an array (R280): the context, and whether an entry was skipped with ERRS.kvref. -/
def dropRefs (c : Ctx) : List Nat → Ctx × Bool
  | [] => (c, false)
  | h :: rest =>
    if h = 0 then dropRefs c rest
    else
      match c.poolIndex h with
      | none => ((dropRefs c rest).1, true)
      | some i => if c.rc i = 0 then ((dropRefs c rest).1, true) else dropRefs (c.dropRef i) rest

/-- PFXR (R280). -/
def pfxrOp (xa xb : Nat) : Op Unit := do
  let _ ← kvCtx
  let n := bits xb 8 0
  if xa % 8 ≠ 0 then raiseAt codeAlign xa
  require (decide (bits xb 63 9 = 0) && decide (1 ≤ n) && decide (n ≤ 256)) codeProt
  let hs ← loadWords xa n
  let (c, bad) := dropRefs (← myCtx) (hs.map BitVec.toNat)
  modMyCtx fun _ => c
  if bad then setMyErr errKvref

/-- PFXR. -/
def execPfxr (a b : Reg) (s : State) := finish (pfxrOp (s.x a).toNat (s.x b).toNat) s

/-! ## Sequence records (R274, R275) -/

/-- A sequence record. -/
structure SeqRecord where
  len : Nat
  commit : Nat
  seq : Nat
  tbl : Nat
  npg : Nat
  rcap : Nat
  win : Nat
  deriving DecidableEq, Repr

/-- The record in eight words; none when a limit of R274 is broken. -/
def SeqRecord.ofWords (tokens : Nat) (w : List Nat) : Option SeqRecord :=
  let g (i : Nat) : Nat := (w[i]?).getD 0
  let r : SeqRecord := ⟨bits (g 0) 63 32, bits (g 0) 31 0, bits (g 1) 63 48, bits (g 1) 47 3 * 8, bits (g 2) 63 32,
    bits (g 2) 31 0, bits (g 3) 31 0⟩
  if r.commit ≤ r.len ∧ bits (g 1) 2 0 = 0 ∧ 1 ≤ r.npg ∧ r.npg ≤ 65536 ∧ r.rcap % tokens = 0 ∧ r.rcap ≤ r.npg * tokens
    ∧ bits (g 3) 63 32 = 0 ∧ (if r.rcap = 0 then r.win = 0 else r.win < r.rcap) ∧ g 4 = 0 ∧ g 5 = 0 ∧ g 6 = 0 ∧ g 7 = 0
  then some r else none

/-- Tokens of a page (R271). -/
def Ctx.tokens (c : Ctx) : Nat := 2 ^ c.kv.lb

/-- Bytes of a token row (R272). -/
def Ctx.rowBytes (c : Ctx) : Nat := 2 ^ (16 - c.kv.lb)

/-- Oldest live position (R275). -/
def SeqRecord.lo (r : SeqRecord) : Nat := if r.rcap ≠ 0 ∧ r.win < r.commit then r.commit - r.win else 0

/-- Slot of a position. -/
def SeqRecord.slot (r : SeqRecord) (p : Nat) : Nat := if r.rcap ≠ 0 then p % r.rcap else p

/-- Free slots (R275); negative when a record holds more positions than slots. -/
def SeqRecord.free (r : SeqRecord) (tokens : Nat) : Int :=
  if r.rcap ≠ 0 then (r.rcap : Int) - ((r.len : Int) - r.lo) else ((r.npg * tokens : Nat) : Int) - r.len

/-- Reads bytes that an operation acts on; poison ends it with POIS (DEDUCED log 26). -/
def soundRead (w : Who) (acc : Acc) (va n : Nat) : Op (List Byte) := do
  let ls ← checkRange w acc va n
  let s ← get
  if s.anyPoison ls then throw (.fault codePois va true 0)
  pure (s.readLocs ls)

/-- Reads and checks the record of KVA and KVH. -/
def openSeq (w : Who) (acc : Acc) (c : Ctx) (va : Nat) : Op SeqRecord := do
  match SeqRecord.ofWords c.tokens (wordsOf 8 (← soundRead w acc va 64)) with
  | some r => pure r
  | none => raiseAt codeProt va

/-- Writes len and commit. -/
def putSeq (w : Who) (va len commit : Nat) : Op Unit := writeRange w va (natToBytes 8 (len * 2 ^ 32 + commit))

/-- The failure word of KVA (R281). -/
def kvaFailure (reason : Nat) : Word := BitVec.ofNat 64 (2 ^ 63 + reason)

/-- Bytes moved from one place to another, with their poison (R145, R282); whether any held poison. -/
def carry (w : Who) (dst src n : Nat) : Op Bool := do
  let bs ← readMarked w src n
  putMarked w dst bs
  pure (bs.any Prod.snd)

/-- The table entry of an append, read and checked: its address and its page, none for an entry of 0 (R282). -/
def appendEntry (w : Who) (c : Ctx) (r : SeqRecord) : Op (Nat × Option Nat) := do
  let tva := r.tbl + 8 * (r.slot r.len / c.tokens)
  let v := bytesToNat (← soundRead w .atomic tva 8)
  if v ≠ 0 ∧ c.poolIndex v = none then raiseAt codeProt tva
  pure (tva, if v = 0 then none else c.poolIndex v)

/-- A pool page that cannot be reached: its record (R271), and the result of the KVA. -/
def poolFailed (id code addr : Nat) : Op Word := do
  let s ← get
  set (s.postFault id s.act.lcore 0 5 code 0 (addr / 2 ^ 16 * 2 ^ 16) 0 0)
  pure (kvaFailure 3)

/-- An append into a page that its sequence alone holds, or the first use of an entry, whose page is taken first (R282): the counts
after, the page and whether it is new. -/
def appendInPlace (w : Who) (c : Ctx) (xa src : Nat) (commit : Bool) (r : SeqRecord) (tva n : Nat) (new : Bool) :
    Op (Option Word) := do
  let id := (← get).act.ctx
  match ← deviceOf (← get).cur id (carry w (c.poolVa n + r.slot r.len % c.tokens * c.rowBytes) src c.rowBytes) with
  | .later => pure none
  | .failed code addr => some <$> poolFailed id code addr
  | .done met => do
    modMyCtx fun x => { x with kvRc := c.kvRc, kvPc := c.kvPc, kvFresh := c.kvFresh, kvTail := c.kvTail }
    if met then modify fun s => s.countPoison id s.act.lcore
    if new then writeRange w tva (natToBytes 8 (c.poolVa n))
    putSeq w xa (r.len + 1) (if commit then r.len + 1 else r.commit)
    pure (some (BitVec.ofNat 64 r.len))

/-- An append into a shared page (R144, R282): the pages are looked at before any change is made; the copy is a pending holder of the
old page, stands in the prefix unit's queue, and the KVA holds its slot until it ends. -/
def startCopy (w : Who) (c : Ctx) (d : Reg) (xa src : Nat) (commit : Bool) (r : SeqRecord) (tva old : Nat) : Op (Option Word) := do
  let id := (← get).act.ctx
  match c.allocPage with
  | none => pure (some (kvaFailure 2))
  | some (n, c1) => do
    let look : Op Unit := do
      let _ ← checkRange w .load (c.poolVa old) (2 ^ 16)
      let _ ← checkRange w .store (c.poolVa n) (2 ^ 16)
    match ← deviceOf (← get).cur id look with
    | .later => pure none
    | .failed code addr => some <$> poolFailed id code addr
    | .done _ => do
      let c2 := c1.setCounts old (c1.rc old) (c1.pc old + 1)
      modMyCtx fun x => { x with kvRc := c2.kvRc, kvPc := c2.kvPc, kvFresh := c2.kvFresh, kvTail := c2.kvTail }
      let k (slot : SlotId) : KvCopy :=
        ⟨slot, id, d, canonVa w xa, old, n, tva, src, r.slot r.len % c.tokens * c.rowBytes, r.len, commit⟩
      modify fun s => { s with copies := s.copies ++ [k s.cur] }
      pure none

/-- An append to a sequence with a free slot, whose checks have passed: a first use, a shared page, or a page of its own (R282). -/
def appendRow (w : Who) (c : Ctx) (d : Reg) (xa src : Nat) (commit : Bool) (r : SeqRecord) (tva : Nat) (old : Option Nat) :
    Op (Option Word) :=
  match old with
  | none =>
    match c.allocPage with
    | none => pure (some (kvaFailure 2))
    | some (n, c1) => appendInPlace w c1 xa src commit r tva n true
  | some i =>
    if 1 < c.rc i + c.pc i then startCopy w c d xa src commit r tva i else appendInPlace w c xa src commit r tva i false

/-- An append (R282): the result, none while the KVA holds its slot: firmware answers a page, the DRAM wakes, or the page is copied. The
table entry is checked, then the source; where the next position lies beyond the table, which only a full sequence does, there is no
entry to check (DEDUCED log 40). -/
def appendToken (w : Who) (c : Ctx) (d : Reg) (xa src : Nat) (commit : Bool) (r : SeqRecord) : Op (Option Word) := do
  if r.npg ≤ r.slot r.len / c.tokens then
    let _ ← checkRange w .load src c.rowBytes
    pure (some (kvaFailure 1))
  else
    let (tva, old) ← appendEntry w c r
    let _ ← checkRange w .load src c.rowBytes
    if r.free c.tokens < 1 then pure (some (kvaFailure 1)) else appendRow w c d xa src commit r tva old

/-- The places of a record that some addresses name, none when they cannot be reached. -/
def recordPlace (w : Who) (va : Nat) (s : State) : Option (List (Loc × Nat)) := (attempt (checkRange w .load va 64) s).toOption.bind
  fun r => match r.1 with
    | .ok ls => some ls
    | .error _ => none

/-- Whether a copy for the record at an address is under way. -/
def State.recordBusy (s : State) (w : Who) (va : Nat) : Bool :=
  s.copies.any fun k =>
    decide (k.ctx = s.act.ctx) && recordPlace w va s != none && recordPlace w k.record s == recordPlace w va s

/-- KVA and KVH wait while a copy for their record is under way: those on one record run one at a time (R282). -/
def recordTurn (w : Who) (va : Nat) : Op Unit := do
  if (← get).recordBusy w va then throw .stall

/-- KVA (R281 to R283): its result, none while it holds its slot as latency. -/
def kvaOp (d : Reg) (xa xb : Nat) : Op (Option Word) := do
  let c ← kvCtx
  let s ← get
  let w := s.who
  if xa % 64 ≠ 0 then raiseAt codeAlign xa
  recordTurn w xa
  let r ← slotNode (openSeq w .atomic c xa)
  let form := bits xb 63 62
  require (if form < 2 then decide (bits xb 62 48 = 0) && decide (bits xb 3 1 = 0)
    else if form = 2 then decide (bits xb 61 32 = 0) else decide (bits xb 61 0 = 0)) codeProt
  if form < 2 then slotNode (appendToken w c d xa (bits xb 47 4 * 16) (bitOf xb 0) r)
  else if form = 2 then
    let k := bits xb 31 0
    if k < r.commit ∨ r.len < k then pure (some (kvaFailure 4))
    else do
      putSeq w xa k k
      pure (some (BitVec.ofInt 64 ({ r with len := k, commit := k }.free c.tokens)))
  else pure (some (BitVec.ofInt 64 (r.free c.tokens)))

/-- KVA. -/
def execKva (d a b : Reg) (s : State) :=
  perform 4 (do
    match ← kvaOp d (s.x a).toNat (s.x b).toNat with
    | none => pure ()
    | some v => do
      wrX d v
      modify (·.advance 4)) s

/-! ## The prefix unit's queue (R138, R282) -/

/-- The copy for which a slot waits. -/
def State.copyOf (s : State) (id : SlotId) : Option KvCopy := s.copies.find? fun k => decide (k.slot = id)

/-- The writes of a copy on write, in the order of R282: the page, the table entry, the token row, len, and commit where xb[0] asks for
it; whether any held poison. -/
def copyWrites (w : Who) (c : Ctx) (k : KvCopy) : Op Bool := do
  let met ← carry w (c.poolVa k.new) (c.poolVa k.old) (2 ^ 16)
  writeRange w k.entry (natToBytes 8 (c.poolVa k.new))
  let more ← carry w (c.poolVa k.new + k.row) k.src c.rowBytes
  writeRange w (k.record + 4) (natToBytes 4 (k.len + 1))
  if k.commit then writeRange w k.record (natToBytes 4 (k.len + 1))
  pure (met || more)

/-- A copy given up: the pending holder and the new page are returned. -/
def State.undoCopy (s : State) (k : KvCopy) : State :=
  { s.modCtx k.ctx fun c => (c.setCounts k.old (c.rc k.old) (c.pc k.old - 1)).setCounts k.new 0 0 with
    copies := s.copies.erase k }

/-- Halts the moving slot once its KVA has ended, when its context is no longer resident (R323, R324). -/
def State.haltHere (s : State) : State :=
  match s.ctx? s.act.ctx with
  | some c => if c.resident then s else s.slice s.act.pc
  | none => s

/-- The moving slot's copy, performed when it heads the queue (R138), with the end of its KVA: the old page loses the pending holder and
one reference (R144, R282). It waits while firmware answers a page; one whose addresses no longer serve ends as an append whose page cannot be
reached does, since a KVA that has begun completes (R324, DEDUCED log 44). A slot that was to be halted meanwhile then is. -/
def copyOp (k : KvCopy) : Op Unit := do
  let s ← get
  let c ← theCtx k.ctx
  if s.copies.head? = some k then
    match ← deviceOf k.slot k.ctx (copyWrites s.who c k) with
    | .later => pure ()
    | .failed code addr => do
      modify (·.undoCopy k)
      wrX k.d (← poolFailed k.ctx code addr)
      modify fun s => (s.advance 4).haltHere
    | .done met => do
      modify fun s =>
        { s.modCtx k.ctx fun c => c.setCounts k.old (c.rc k.old - 1) (c.pc k.old - 1) with copies := s.copies.tail }
      if met then modify (·.countPoison k.ctx s.act.lcore)
      wrX k.d (BitVec.ofNat 64 k.len)
      modify fun s => (s.advance 4).haltHere

/-- A move of a slot whose KVA waits for its copy. -/
def State.copyStep (s : State) (k : KvCopy) : State :=
  match copyOp k s with
  | .ok (_, t) => t
  | .error _ => s

/-- The copies performed in the order of the queue, up to one that waits for a page: a KVA that has entered it completes before its slot
halts (R324). -/
def State.endCopies (s : State) : State :=
  s.copies.foldl (fun s k =>
    let here := s.cur
    ((s.switch k.slot).copyStep k).switch here) s

/-! ## The home ring (R285 to R287) -/

/-- kvhash (R285). -/
def kvhash (seq bl : Nat) : Nat :=
  let h := (seq * 2 ^ 16 + bl) * 0x9E3779B1 % 2 ^ 32
  let h := h ^^^ (h / 2 ^ 16)
  let h := h * 0x85EBCA6B % 2 ^ 32
  h ^^^ (h / 2 ^ 13)

/-- The least of some (position, owner) pairs by position. -/
def leastPoint (ps : List (Nat × Nat)) : Option (Nat × Nat) :=
  ps.foldl (fun best p => match best with
    | none => some p
    | some b => if p.1 < b.1 then some p else some b) none

/-- The owner of a hash among active points (R285). -/
def homeOf (ps : List (Nat × Nat)) (h : Nat) : Option Nat :=
  match leastPoint (ps.filter fun p => decide (h ≤ p.1)) with
  | some p => some p.2
  | none => (leastPoint ps).map Prod.snd

/-- Position of the point before a position; the position itself when there is no other (R285). -/
def prevPoint (ps : List (Nat × Nat)) (pos : Nat) : Nat :=
  let greatest (l : List (Nat × Nat)) : Option Nat := l.foldl (fun b p => some (match b with
    | none => p.1
    | some q => Nat.max q p.1)) none
  let others := ps.filter fun p => decide (p.1 ≠ pos)
  match greatest (others.filter fun p => decide (p.1 < pos)) with
  | some q => q
  | none => (greatest others).getD pos

/-- Whether a hash lies in an arc (lo, hi]; a sole point owns the whole circle (R285, R287). -/
def inArc (lo hi h : Nat) : Bool :=
  decide (lo = hi) || (decide ((h + 2 ^ 32 - lo) % 2 ^ 32 ≠ 0) && decide ((h + 2 ^ 32 - lo) % 2 ^ 32 ≤ (hi + 2 ^ 32 - lo) % 2 ^ 32))

/-- The active points of a context's ring. -/
def Ctx.points (c : Ctx) : List (Nat × Nat) := c.ring.map Prod.snd

/-- KVH (R284). -/
def kvhOp (d : Reg) (xa : Nat) : Op Unit := do
  let c ← kvCtx
  let s ← get
  let va := bits xa 47 0
  let bl := bits xa 63 48
  if va % 64 ≠ 0 then raiseAt codeAlign va
  recordTurn s.who va
  let r ← openSeq s.who .load c va
  let b := c.tokens
  let filled := Nat.min (b * bl + b) r.len - Nat.max (b * bl) r.lo
  let page ← if filled = 0 then pure 0
    else do
      let e := if r.rcap ≠ 0 then bl % (r.rcap / b) else bl
      pure (bits (bytesToNat (← soundRead s.who .load (r.tbl + 8 * e) 8)) 47 16)
  let home := homeOf c.points (kvhash r.seq bl)
  wrX d (BitVec.ofNat 64 (home.getD 0 * 2 ^ 55 + (if home.isNone then 2 ^ 54 else 0) + page * 2 ^ 16 + filled))

/-- KVH. -/
def execKvh (d a : Reg) (s : State) := finish (slotNode (kvhOp d (s.x a).toNat)) s

/-- Installs a stub; a 17th evicts the oldest and sets ERRS.kvst (R287, R322). Stubs stand newest first. -/
def addStub (on : Nat) (st : Stub) : Op Unit := do
  let s ← get
  let old := (s.lcore s.act.ctx on).stubs
  modify (·.modCore s.act.ctx on fun k => { k with stubs := (st :: k.stubs).take 16 })
  if 16 ≤ old.length then setMyErr errKvst

/-- KVRH (R286). -/
def kvrhOp (xa xb : Nat) : Op Unit := do
  let c ← kvCtx
  let s ← get
  let owner := bits xb 8 0
  let i := bits xa 9 0
  let others := (c.ring.filter fun p => decide (p.1 ≠ i)).map Prod.snd
  let setRing (r : List (Nat × Nat × Nat)) : Op Unit := modMyCtx fun c => { c with ring := r }
  if bitOf xb 63 then
    require (decide (bits xb 62 9 = 0) && decide (xa = 0)) codeProt
    modify (·.modCore s.act.ctx owner fun k => { k with stubs := [] })
  else if !bitOf xb 62 then
    let pos := bits xa 63 32
    require (decide (bits xb 61 9 = 0) && decide (bits xa 31 10 = 0)) codeProt
    match assocGet c.ring i with
    | some (p, a) => do
      require (decide (p = pos)) codeProt
      if a ≠ owner then addStub a ⟨prevPoint c.points pos, pos, owner⟩
      setRing (assocPut c.ring i (pos, owner))
    | none => do
      require (!c.points.any fun p => decide (p.1 = pos)) codeProt
      match homeOf c.points pos with
      | some a => if a ≠ owner then addStub a ⟨prevPoint c.points pos, pos, owner⟩
      | none => pure ()
      setRing (assocPut c.ring i (pos, owner))
  else
    require (decide (bits xb 61 0 = 0) && decide (bits xa 63 10 = 0)) codeProt
    match assocGet c.ring i with
    | none => raise codeProt
    | some (pos, b) => do
      match homeOf others pos with
      | some a => if a ≠ b then addStub b ⟨prevPoint c.points pos, pos, a⟩
      | none => pure ()
      setRing (assocDel c.ring i)

/-- KVRH. -/
def execKvrh (a b : Reg) (s : State) := finish (kvrhOp (s.x a).toNat (s.x b).toNat) s

/-! ## Masks (R290, R291) -/

/-- A mask descriptor. -/
structure MaskDesc where
  map : Nat
  bitmaps : Nat
  rows : Nat
  cols : Nat
  bases : Nat
  deriving DecidableEq, Repr

/-- The descriptor in four words; none when a limit is broken (R290). -/
def MaskDesc.ofWords (w : List Nat) : Option MaskDesc :=
  let g (i : Nat) : Nat := (w[i]?).getD 0
  let m : MaskDesc := ⟨g 0, g 1, bits (g 2) 63 32, bits (g 2) 31 0, g 3⟩
  if g 0 < 2 ^ 48 ∧ g 1 < 2 ^ 48 ∧ g 1 % 64 = 0 ∧ g 3 < 2 ^ 48 ∧ g 3 % 4 = 0 ∧ 1 ≤ m.rows ∧ m.rows ≤ 2 ^ 24 ∧ 1 ≤ m.cols
    ∧ m.cols ≤ 2 ^ 24 then some m else none

/-- What an MSKT has met: the lowest address that failed a check, with its code, the lowest poisoned one, and a code 11. -/
structure MaskSeen where
  fail : Option (Nat × Nat)
  pois : Option Nat
  bad : Bool
  deriving DecidableEq, Repr

/-- Nothing met. -/
def MaskSeen.none : MaskSeen := ⟨.none, .none, false⟩

/-- The lower of two failures that may be absent. -/
def lowerFail : Option (Nat × Nat) → Option (Nat × Nat) → Option (Nat × Nat)
  | some a, some b => if b.1 < a.1 then some b else some a
  | some a, none => some a
  | none, b => b

/-- Either of two. -/
def MaskSeen.or (a b : MaskSeen) : MaskSeen := ⟨lowerFail a.fail b.fail, lowerVa a.pois b.pois, a.bad || b.bad⟩

/-- Bytes read as a plain load; where a check fails they are zeros, so that no access follows from them, and the failure is kept: the
lowest of all is the instruction's (R157, R320). -/
def maskBytes (va n : Nat) : Op (List Byte × MaskSeen) := do
  match ← attempt (checkRange (← get).who .load va n) with
  | .ok ls => do
    let s ← get
    pure (s.readLocs ls, ⟨none, s.poisonVa va ls, false⟩)
  | .error (.fault code addr _ _) => pure (List.replicate n 0, ⟨some (addr, code), none, false⟩)
  | .error .stall => throw .stall

/-- A number read as a plain load. -/
def maskNat (va n : Nat) : Op (Nat × MaskSeen) := do
  let (bs, m) ← maskBytes va n
  pure (bytesToNat bs, m)

/-- The failure that an MSKT has met is raised, else its poison is, at the lowest address. -/
def maskEnd (m : MaskSeen) : Op Unit := do
  match m.fail with
  | some (va, code) => raiseAt code va
  | none => pure ()
  match m.pois with
  | some va => meetPoison true va
  | none => pure ()

/-- Code of tile k (R290); 11 reads as partial. -/
def tileCode (m : MaskDesc) (k : Nat) : Op (Nat × MaskSeen) := do
  let (v, p) ← maskNat (m.map + k / 4) 1
  let c := bits v (2 * (k % 4) + 1) (2 * (k % 4))
  pure (if c = 3 then 2 else c, { p with bad := decide (c = 3) })

/-- Partial tiles among n tiles from k (R290). -/
def partialsBefore (m : MaskDesc) (k : Nat) : Nat → Op (Nat × MaskSeen)
  | 0 => pure (0, .none)
  | n + 1 => do
    let (c, a) ← tileCode m (k + n)
    let (t, b) ← partialsBefore m k n
    pure (t + (if c = 2 then 1 else 0), a.or b)

/-- The mask bit of a query row and a key column (R291). -/
def maskBit (m : MaskDesc) (r c : Nat) : Op (Bool × MaskSeen) := do
  let i := r / 64
  let j := c / 64
  if m.rows ≤ i ∨ m.cols ≤ j then pure (false, .none)
  else
    let (code, a) ← tileCode m (i * m.cols + j)
    if code ≠ 2 then pure (decide (code = 1), a)
    else
      let (n, b) ← partialsBefore m (i * m.cols) j
      let (base, p) ← maskNat (m.bases + 4 * i) 4
      let seen := (a.or b).or p
      if seen.fail.isSome then pure (false, seen)
      else
        let bit := 64 * (r % 64) + c % 64
        let (v, q) ← maskNat (m.bitmaps + 512 * (base + n) + bit / 8) 1
        pure (bitOf v (bit % 8), seen.or q)

/-- The mask bits of n columns from c. -/
def maskBits (m : MaskDesc) (r c : Nat) : Nat → Op (List Bool × MaskSeen)
  | 0 => pure ([], .none)
  | n + 1 => do
    let (b, a) ← maskBit m r c
    let (bs, a') ← maskBits m r (c + 1) n
    pure (b :: bs, a.or a')

/-- MSKT (R291). -/
def msktOp (pd : PReg) (xa xb : Nat) : Op Unit := do
  let s ← get
  if xa % 32 ≠ 0 then raiseAt codeAlign xa
  require (decide (bits xa 63 48 = 0)) codeProt
  let (bs, p) ← maskBytes xa 32
  if p.fail.isSome then maskEnd p
  match MaskDesc.ofWords (wordsOf 4 bs) with
  | none => do
    maskEnd p
    raiseAt codeProt xa
  | some m => do
    require (decide (bits xb 63 58 = 0)) codeProt
    let w := 8 * 2 ^ bits xb 57 56
    let (ms, seen) ← maskBits m (bits xb 31 0) (bits xb 55 32) (s.vw / w)
    maskEnd (p.or seen)
    if seen.bad then setMyErr errMask
    modify (·.setP pd (packPred (2 ^ (s.vw / 8) - 1) w (s.vw / w) fun e => (ms[e]?).getD false))

/-- MSKT. -/
def execMskt (pd : PReg) (a b : Reg) (s : State) := finish (msktOp pd (s.x a).toNat (s.x b).toNat) s

end Sys2Proof.Machine
end

