-- ==== Sys2Proof/Machine/System.lean ====
section
/-! DEFINITION. The system registers and the instructions of major 0x3E (R47, R51, R310, R314, R321, R322, R326 to R330). -/

namespace Sys2Proof.Machine

/-! ## The register table (R326) -/

/-- The registers by their number. -/
inductive SysReg where
  | core | orgn | rsz | clst | die | isl | vw | slot | ctx | jseed | jobn | ebud | thr | cyc | frm | hbase | hlim | hoff
  | mbox | lvl | errs | flt | feat (w : Fin 4) | epc | ecause | eaddr | ptroot | ctxd | fwscr
  deriving DecidableEq, Repr

/-- The register of a number; none outside the table. -/
def SysReg.ofNum (n : Nat) : Option SysReg :=
  match n with
  | 0x000 => some .core | 0x001 => some .orgn | 0x002 => some .rsz | 0x003 => some .clst | 0x004 => some .die
  | 0x005 => some .isl | 0x006 => some .vw | 0x007 => some .slot | 0x008 => some .ctx | 0x009 => some .jseed
  | 0x00A => some .jobn | 0x00B => some .ebud | 0x00C => some .thr | 0x00D => some .cyc | 0x00E => some .frm
  | 0x00F => some .hbase | 0x010 => some .hlim | 0x011 => some .hoff | 0x012 => some .mbox | 0x013 => some .lvl
  | 0x014 => some .errs | 0x015 => some .flt | 0x016 => some (.feat 0) | 0x017 => some (.feat 1)
  | 0x018 => some (.feat 2) | 0x019 => some (.feat 3) | 0x200 => some .epc | 0x201 => some .ecause
  | 0x202 => some .eaddr | 0x203 => some .ptroot | 0x204 => some .ctxd | 0x205 => some .fwscr
  | _ => none

/-- Whether user mode may not read a register (R326). -/
def SysReg.isPriv : SysReg → Bool
  | .epc | .ecause | .eaddr | .ptroot | .ctxd | .fwscr => true
  | _ => false

/-- Whether user mode may write a register (R326). -/
def SysReg.userWrite : SysReg → Bool
  | .frm | .mbox | .lvl | .errs | .flt => true
  | _ => false

/-- The firmware registers of the running slot. -/
def State.fwRegs (s : State) : FwRegs := (assocGet s.fw s.cur).getD FwRegs.init

/-- The package with the running slot's firmware registers changed. -/
def State.modFw (s : State) (f : FwRegs → FwRegs) : State := { s with fw := assocPut s.fw s.cur (f s.fwRegs) }

/-- THR of a physical cluster (R353). -/
def State.thrOf (s : State) (cl : Bool × Nat) : Word := (assocGet s.power.thr cl).getD 0

/-- A word of FEAT: offered, then accepted and offered (R9, R359). -/
def State.featWord (s : State) (w : Nat) : Word :=
  match w with
  | 0 => Config.featOffered
  | 2 => Config.featOffered &&& s.featAcc[0]
  | _ => 0

/-- CYC of the executing die: some fabric cycles have passed since its last reading (R61, R326, DESIGN CHOICE log 6). -/
def readCyc : Op Word := do
  let s ← get
  let die := coreDie s.cur.core
  let i : Fin 3 := Fin.ofNat 3 die
  let v := s.cyc[i] + Config.cycGap s.free
  set { s with cyc := s.cyc.set i v, free := s.free + 1 }
  pure v

/-- Reads a system register (R326, R327). R16 gives ISL for the cores of the two islands; the firmware cores read 0, and
CORE and CLST there are those of the logical core that their task stands for (DESIGN CHOICE log 54). -/
def sysRead (r : SysReg) : Op Word := do
  let s ← get
  let k ← myCore
  let nat (n : Nat) : Op Word := pure (BitVec.ofNat 64 n)
  match r with
  | .core => nat s.act.lcore
  | .orgn => pure k.orgn
  | .rsz => pure k.rsz
  | .clst => nat (Config.clusterOf s.act.lcore)
  | .die => nat (coreDie s.cur.core)
  | .isl => nat (match s.cur.core with | .si _ => 1 | .bi _ | .fw _ => 0)
  | .vw => nat s.vw
  | .slot => nat s.cur.idx
  | .ctx => nat s.act.ctx
  | .jseed => pure k.jseed
  | .jobn => pure (jobHandle s.act.lcore s.cur.idx (k.table s.cur.idx).next)
  | .ebud => return (← myCtx).ebud
  | .thr => pure (s.thrOf (coreCluster s.cur.core))
  | .cyc => readCyc
  | .frm => pure s.act.frm
  | .hbase => return (← myCtx).hbase
  | .hlim => return (← myCtx).hlim
  | .hoff => return (← myCtx).hoff
  | .mbox => return (← myCtx).mbox
  | .lvl => return (← myCtx).lvl
  | .errs => pure k.errs
  | .flt => return (← myCtx).flt
  | .feat w => pure (s.featWord w.val)
  | .epc => pure s.fwRegs.epc
  | .ecause => pure s.fwRegs.ecause
  | .eaddr => pure s.fwRegs.eaddr
  | .ptroot => pure s.fwRegs.ptroot
  | .ctxd => pure s.fwRegs.ctxd
  | .fwscr => pure s.fwRegs.fwscr

/-- MBOX after a write: d1 to d5 are stored (R47). -/
def mboxWrite (old v : Word) : Word := (old &&& ~~~0x00FFFFF0) ||| (v &&& 0x00FFFFF0)

/-- A three-bit level of LVL at a place: below 2 is stored as 2 (R51). -/
def lvlField (v : Word) (lo : Nat) : Nat := Nat.max 2 (bits v.toNat (lo + 2) lo) * 2 ^ lo

/-- LVL after a write (R51). -/
def lvlWrite (v : Word) : Word :=
  BitVec.ofNat 64 (lvlField v 0 + lvlField v 3 + lvlField v 6 + lvlField v 9 + lvlField v 12 + lvlField v 15
    + Nat.max 8 (bits v.toNat 31 28) * 2 ^ 28)

/-- HBASE after a write: a kind of 3 is not stored (R310). -/
def hbaseWrite (old v : Word) : Word :=
  if bits v.toNat 5 4 = 3 then (v &&& 0x0000FFFFFFE0000F) ||| (old &&& 0x30) else v &&& 0x0000FFFFFFE0003F

/-- FLT after a write: tpois alone is stored (R321). -/
def fltWrite (old v : Word) : Word := (old &&& ~~~1) ||| (v &&& 1)

/-- A register of W1C fields after a write (R6). -/
def w1c (old v : Word) : Word := old &&& ~~~v

/-- Writes a system register: a write to an RO one is ignored (R6, R326). -/
def sysWrite (r : SysReg) (v : Word) : Op Unit := do
  match r with
  | .frm => modify fun s => { s with act := { s.act with frm := frmWrite s.act.frm v } }
  | .mbox => modMyCtx fun c => { c with mbox := mboxWrite c.mbox v }
  | .lvl => modMyCtx fun c => { c with lvl := lvlWrite v }
  | .errs => modMyCore fun k => { k with errs := w1c k.errs v }
  | .flt => modMyCtx fun c => { c with flt := fltWrite c.flt v }
  | .hbase => modMyCtx fun c => { c with hbase := hbaseWrite c.hbase v }
  | .hlim => modMyCtx fun c => { c with hlim := v &&& 0x0000FFFFFFE00000 }
  | .hoff => modMyCtx fun c => { c with hoff := v &&& 0x0000FFFFFFFF0000 }
  | .thr => modify fun s =>
    let cl := coreCluster s.cur.core
    { s with power := { s.power with thr := assocPut s.power.thr cl (w1c (s.thrOf cl) v) } }
  | .epc => modify (·.modFw fun r => { r with epc := v })
  | .ecause => modify (·.modFw fun r => { r with ecause := v })
  | .eaddr => modify (·.modFw fun r => { r with eaddr := v })
  | .ptroot => modify (·.modFw fun r => { r with ptroot := v })
  | .ctxd => modify (·.modFw fun r => { r with ctxd := v })
  | .fwscr => modify (·.modFw fun r => { r with fwscr := v })
  | .core | .orgn | .rsz | .clst | .die | .isl | .vw | .slot | .ctx | .jseed | .jobn | .ebud | .cyc | .feat _ => pure ()

/-- MFS (R326, R328). -/
def mfsOp (d : Reg) (n : Nat) : Op Unit :=
  match SysReg.ofNum n with
  | none => raise codeIll
  | some r => do
    if r.isPriv then privileged
    wrX d (← sysRead r)

/-- MFS. -/
def execMfs (d : Reg) (n : Fin 1024) (s : State) := finish (mfsOp d n.val) s

/-- MTS (R326, R328). -/
def mtsOp (n : Nat) (v : Word) : Op Unit :=
  match SysReg.ofNum n with
  | none => raise codeIll
  | some r => do
    if !r.userWrite then privileged
    sysWrite r v

/-- MTS. -/
def execMts (n : Fin 1024) (a : Reg) (s : State) := finish (mtsOp n.val (s.x a)) s

/-! ## TRAP, SYSC, BRK and ERET (R329, R330) -/

/-- TRAP: raises fault 9 with its number. -/
def execTrap (n : Fin 1024) (s : State) := perform 4 (throw (.fault codeTrap 0 false n.val)) s

/-- SYSC: the task is saved, with resumption at the next instruction, and its request posted to hub firmware. -/
def syscOp (n : Nat) : Op Unit := modify fun s =>
  let t := s.act
  let args := [s.x 1, s.x 2, s.x 3, s.x 4]
  let (s', addr) := s.retire.save .sysc 0 4 (t.pc + 4)
  { s' with sysc := s'.sysc ++ [(⟨t.ctx, addr, n, args⟩ : Sysc)] }

/-- SYSC. -/
def execSysc (n : Fin 1024) (s : State) := perform 4 (syscOp n.val) s

/-- BRK: under an armed break the task is saved and reported to the debug port; otherwise nothing. -/
def brkOp (n : Nat) : Op Unit := modify fun s =>
  let t := s.act
  match s.ctx? t.ctx with
  | some c =>
    if c.breakArmed then
      let (s', addr) := s.save .debug 0 4 (t.pc + 4)
      { s' with halted := s'.halted ++ [(t.ctx, addr, n)] }
    else s.advance 4
  | none => s.advance 4

/-- BRK. -/
def execBrk (n : Fin 1024) (s : State) := perform 4 (brkOp n.val) s

/-- ERET: an odd EPC raises ALIGN (R62). -/
def eretOp : Op Unit := do
  privileged
  if (← get).fwRegs.epc.toNat % 2 = 1 then raise codeAlign
  modify (·.retire.faultReturn)

/-- ERET. -/
def execEret (s : State) := perform 4 eretOp s

/-! ## TLBI -/

/-- Merges the dirty log of a core: a and d are set in each named entry (R314). -/
def State.mergeLog (s : State) (core : PCore) : State :=
  match assocGet s.cores core with
  | none => s
  | some k =>
    { s with
      mem := k.dirty.foldl (fun m e => m.writeNat e 8 (m.readNat e 8 ||| 0xC0)) s.mem
      cores := assocPut s.cores core { k with dirty := [] } }

/-- Whether a core is one that may run contexts, or may have run them before they moved (R314, R344). -/
def runsContexts : PCore → Bool
  | .bi _ | .si _ => true
  | .fw _ => false

/-- Merges the logs of every core that runs a context or ran it before it moved: of all of both islands (R314). -/
def State.harvest (s : State) : State := ((s.cores.map Prod.fst).filter runsContexts).foldl (fun s core => s.mergeLog core) s

/-- TLBI (R330): the entries concerned are gone; no access begun under one is under way between steps. -/
def tlbiOp (xa xb : Nat) : Op Unit := do
  privileged
  require (decide (bits xb 51 2 = 0)) codeProt
  let id := bits xb 63 52
  let form := bits xb 1 0
  modify fun s =>
    let s := if form = 2 then s.harvest else s
    { s with tlb := s.tlb.filter fun t =>
        if form = 0 then !(decide (t.ctx = id) && (decide (t.page = xa / 2 ^ 16)
          || (t.big && decide (t.page / 32 = xa / 2 ^ 21))))
        else if form = 3 then false
        else decide (t.ctx ≠ id) }

/-- TLBI. -/
def execTlbi (a b : Reg) (s : State) := finish (tlbiOp (s.x a).toNat (s.x b).toNat) s

/-! ## CTXS and CTXR -/

/-- The physical core that a number names to the firmware core of a die (R330, DESIGN CHOICE log 31). -/
def namedCore (die n : Nat) : Option PCore :=
  if die = 0 then (if n < 8 then some (.si n) else none)
  else if n < 256 then some (.bi ((die - 1) * 256 + n))
  else none

/-- The slot that xb names. -/
def namedSlot (s : State) (xb : Nat) : Option SlotId :=
  (namedCore (coreDie s.cur.core) (bits xb 8 0)).bind fun c =>
    let idx := bits xb 11 9
    if coreIsBi c || decide (idx < 4) then some ⟨c, idx⟩ else none

/-- CTXS: an idle slot leaves the frame unwritten. -/
def ctxsOp (xa xb : Nat) : Op Unit := do
  privileged
  if xa % 64 ≠ 0 then raiseAt codeAlign xa
  let s ← get
  match namedSlot s xb with
  | none => pure ()
  | some id =>
    if (s.copyOf id).isSome then set s.endCopies
    let s ← get
    if (s.copyOf id).isSome then throw .stall
    match assocGet s.parked id with
    | none => pure ()
    | some t => do
      let t' := { t with savedSlot := id.idx }
      writeRange .phys xa (frameBytes t' (coreVw id.core) 0 id.idx)
      modify fun s => { s with parked := assocDel s.parked id, held := assocPut s.held xa t' }.transition t 6

/-- CTXS. -/
def execCtxs (a b : Reg) (s : State) := finish (ctxsOp (s.x a).toNat (s.x b).toNat) s

/-- Words of a frame, 8 bytes each. -/
def frameWord (bs : List Byte) (i : Nat) : Word := BitVec.ofNat 64 (bytesToNat ((bs.drop (8 * i)).take 8))

/-- The registers of a frame (R319) put into a task. Bit 0 of its pc is not loaded: the program counter is always even (R62,
DESIGN CHOICE log 31). -/
def Task.ofFrame (t : Task) (bs : List Byte) (vw : Nat) : Task :=
  let w3 := (frameWord bs 3).toNat
  let part (at_ n : Nat) : Nat := bytesToNat ((bs.drop at_).take n)
  { t with
    pc := frameWord bs 0 &&& ~~~1
    frm := frmLoad t.frm (frameWord bs 1)
    record := (frameWord bs 2).toNat
    source := Source.ofCode (bits w3 2 0)
    level := bits w3 5 3
    savedSlot := bits w3 42 40
    x := Vector.ofFn fun i => if i.val = 0 then 0 else frameWord bs (7 + i.val)
    p := Vector.ofFn fun i => if i.val = 0 then 0 else BitVec.ofNat 128 (part (320 + vw / 64 * i.val) (vw / 64))
    v := Vector.ofFn fun i => BitVec.ofNat 1024 (part (320 + vw / 8 + vw / 8 * i.val) (vw / 8)) }

/-- A task as it resumes in a slot: x31 lies in the new slot's stack area, and its count starts again (R36, R53). -/
def Task.resumeIn (t : Task) (slot : Nat) : Task :=
  { t with x := t.x.set 31 (t.x[31] - stackTop t.savedSlot + stackTop slot), retired := 0 }

/-- What a frame does not record of its task: kept since CTXS wrote it, else the context of CTXD and the core's own logical
core (DESIGN CHOICE log 31). -/
def State.frameOwner (s : State) (xa : Nat) (core : PCore) : Task :=
  match assocGet s.held xa with
  | some t => t
  | none =>
    { Task.blank with
      ctx := bits (s.physNat s.fwRegs.ctxd.toNat 8) 63 52
      lcore := match core with
        | .bi l => l
        | .si k => Config.coreOf (k / 4) (k % 4)
        | .fw _ => 0 }

/-- CTXR: a slot that is not free, or a frame of another VW, raises PROT. -/
def ctxrOp (xa xb : Nat) : Op Unit := do
  privileged
  let s ← get
  match namedSlot s xb with
  | none => raise codeProt
  | some id => do
    require (assocGet s.parked id).isNone codeProt
    let vw := coreVw id.core
    let (bs, met) ← readRange .phys xa (frameLength vw)
    meetPoison met xa
    require (decide (bits (frameWord bs 3).toNat 31 16 = vw)) codeProt
    let t := ((s.frameOwner xa id.core).ofFrame bs vw).resumeIn id.idx
    set ({ s with parked := assocPut s.parked id t, held := assocDel s.held xa }.transition t 5)

/-- CTXR. -/
def execCtxr (a b : Reg) (s : State) := finish (ctxrOp (s.x a).toNat (s.x b).toNat) s

end Sys2Proof.Machine
end

