-- ==== Sys2Proof/Machine/Residency.lean ====
section
/-! DEFINITION. Context descriptors, pre-empting a context and making it resident (R30, R323 to R325, R360, R365). -/

namespace Sys2Proof.Machine

/-- The task of a slot saved and re-queued, as slicing does; the moving slot stays the moving one. -/
def State.sliceSlot (s : State) (id : SlotId) : State :=
  let here := s.cur
  let s := s.switch id
  (if s.active then s.slice s.act.pc else s).switch here

/-- Halts every slot that runs a task of a context, at an instruction boundary (R323 step 2). Its KVAs that copy complete first: one
whose copy waits for a page keeps its slot until it has (R324). -/
def State.haltAll (s : State) (id : Nat) : State :=
  let s := if s.copies.any fun k => decide (k.ctx = id) then s.endCopies else s
  let halts (p : SlotId × Task) : Bool := decide (p.2.ctx = id) && !p.2.priv && (s.copyOf p.1).isNone
  ((s.running.filter halts).map Prod.fst).foldl State.sliceSlot s

/-- Pre-empts a context (R323): its slots are halted and it is no longer resident, its entries being kept in its task arena. explicit
says that only RESIDE returns it (R365). -/
def State.preemptCtx (s : State) (id : Nat) (explicit : Bool) : State :=
  ((s.haltAll id).modCtx id fun c => { c with resident := false, explicit := c.explicit || explicit }).spillRoom id
    (s.dieOfCore id 0)

/-- Re-queues the tasks whose faults were answered while the context was not resident (R325). -/
def State.requeueResolved (s : State) (id : Nat) : State :=
  match s.ctx? id with
  | none => s
  | some c =>
    ((c.frames.filter fun fr => decide (fr.status = .resolved)).map Frame.addr).foldl (fun s a => s.requeue id a) s

/-- Re-queues a task whose transparent fault is answered, now or when its context is next resident (R317, R325). -/
def State.answerFault (s : State) (id addr : Nat) : State :=
  match s.ctx? id with
  | none => s
  | some c => if c.resident then s.requeue id addr else s.modFrame id addr fun fr => { fr with status := .resolved }

/-- The context that a user queue's header names (R361). -/
def State.queueCtx (s : State) (q : Queue) : Nat := bits (s.physNat (q.header + 16) 8) 63 52

/-- Contexts that have a mapped queue. -/
def State.mappedCtxs (s : State) : List Nat :=
  s.slots.filterMap fun p =>
    match p.2 with
    | .driver => none
    | .user n => (assocGet s.queues (.user n)).map s.queueCtx

/-- The one of two contexts whose last dispatch is older. -/
def olderCtx (a b : Nat × Ctx) : Nat × Ctx := if b.2.lastDispatch < a.2.lastDispatch then b else a

/-- The resident context without a mapped queue whose last dispatch is oldest (R365). -/
def State.oldestIdle (s : State) : Option Nat :=
  match s.ctxs.filter fun p => p.2.resident && !s.mappedCtxs.contains p.1 with
  | [] => none
  | p :: rest => some (rest.foldl olderCtx p).1

/-- The package with a place for one more resident context; none while every resident context has a mapped queue (R365). -/
def State.residentRoom (s : State) : Option State :=
  if (s.ctxs.filter fun p => p.2.resident).length < 64 then some s
  else s.oldestIdle.map fun id => s.preemptCtx id false

/-! ## Descriptors (R360) -/

/-- The KV configuration of a descriptor; none when it breaks a limit of R271. -/
def kvOf (w80 w88 w90 : Nat) : Option KvConfig :=
  let k : KvConfig := ⟨bits w80 47 16 * 2 ^ 16, bits w88 20 0, bits w88 63 32, bits w90 10 8, bits w90 3 0⟩
  if w80 = 0 ∧ w88 = 0 ∧ w90 = 0 then some ⟨0, 0, 0, 0, 0⟩
  else if w80 = k.pbase ∧ w88 = k.tnodes * 2 ^ 32 + k.npool ∧ w90 = k.ach * 2 ^ 8 + k.lb
      ∧ 1 ≤ k.npool ∧ k.npool ≤ 2 ^ 20 ∧ 4 ≤ k.lb ∧ k.lb ≤ 12 ∧ k.tnodes ≤ 65536 ∧ 2 ≤ k.ach ∧ k.ach ≤ 5 then some k
  else none

/-- Whether a ring's lcap lies in 4 to 12. -/
def lcapOk (n : Nat) : Bool := decide (4 ≤ n) && decide (n ≤ 12)

/-- Whether a trigger entry of a descriptor keeps its zero bits (R335). -/
def trigOk (w0 w1 : Nat) : Bool :=
  decide (bits w0 57 48 = 0) && decide (bits w0 4 0 = 0)
    && (decide (bits w0 63 60 = 1) || decide (bits w0 63 60 = 4) || decide (bits w1 11 0 = 0))

/-- The context that a descriptor describes (R360); none when a field is outside its limits. -/
def State.describe (s : State) (pa : Nat) : Option Ctx :=
  let w (off : Nat) : Nat := s.physNat (pa + off) 8
  let trace := s.feature 3 && bitOf (w 0x68) 4
  let ok := lcapOk (bits (w 0x60) 3 0) && (!s.feature 3 || lcapOk (bits (w 0x68) 3 0))
    && (List.range 16).all (fun n => decide (bits (w (0x100 + 16 * n)) 3 0 ≤ 12)) && decide (w 0x98 = 0)
    && decide (bits (w 0x58) 47 12 * 4096 < Config.dramBytes) && decide (bits (w 0x10) 5 4 ≠ 3)
    && (List.range 4).all fun n => trigOk (w (0xC0 + 16 * n)) (w (0xC8 + 16 * n))
  match kvOf (w 0x80) (w 0x88) (w 0x90) with
  | none => none
  | some kv =>
    if ok then
      some { Ctx.blank with
        desc := pa, pk := bitOf (w 0) 5, keySlot := bits (w 0) 4 0, ptroot := bits (w 8) 47 17 * 2 ^ 17
        hbase := hbaseWrite 0x10 (BitVec.ofNat 64 (w 0x10))
        hlim := BitVec.ofNat 64 (w 0x18) &&& 0x0000FFFFFFE00000
        hoff := BitVec.ofNat 64 (w 0x20) &&& 0x0000FFFFFFFF0000
        capKey := BitVec.ofNat 64 (w 0x28), epoch := bits (w 0x30) 7 0, ebud := BitVec.ofNat 64 (w 0x38)
        arenaBase := bits (w 0x48) 47 12 * 4096, arenaPages := bits (w 0x48) 11 0
        nodeBase := bits (w 0x50) 47 12 * 4096, nodePages := bits (w 0x50) 11 0
        bolt := bits (w 0x58) 47 12 * 4096
        faultRing := bits (w 0x60) 47 6 * 64, faultLcap := bits (w 0x60) 3 0
        traceRing := bits (w 0x68) 47 6 * 64, traceOn := trace, traceLcap := bits (w 0x68) 3 0
        refusal := bits (w 0x70) 47 1 * 2, kv := kv, treeBase := bits (w 0xA0) 47 12 * 4096
        resident := false, lastDispatch := s.ticks }
    else none

/-- A context as the front end reads its descriptor at a residency (R351, R360): the share of its budget, and, while every field keeps
its limits, all that creation takes from it and nothing has changed since. The reset values of the heap, the initial budget, the key
slot and the KV configuration belong to creation (R271, R310, R375); an arena that firmware has made larger stays so (DESIGN CHOICE
log 58). -/
def State.reread (s : State) (c : Ctx) : Ctx :=
  let c := { c with ebud := BitVec.ofNat 64 (s.physNat (c.desc + 0x38) 8 / 2 ^ 48 * 2 ^ 48 + c.ebud.toNat % 2 ^ 48) }
  match s.describe c.desc with
  | none => c
  | some d => { c with
      ptroot := d.ptroot, capKey := d.capKey, epoch := d.epoch
      arenaBase := d.arenaBase, arenaPages := Nat.max d.arenaPages (if c.arenaBase = d.arenaBase then c.arenaPages else 0)
      nodeBase := d.nodeBase, nodePages := d.nodePages, bolt := d.bolt, faultRing := d.faultRing, faultLcap := d.faultLcap
      traceRing := d.traceRing, traceOn := d.traceOn, traceLcap := d.traceLcap, refusal := d.refusal, treeBase := d.treeBase }

/-! ## Residency -/

/-- Makes a context resident; one placed on the SI wakes it (R334, R365). -/
def makeResident (id : Nat) : Op Unit := do
  modify fun s =>
    (s.modCtx id fun c => { s.reread c with resident := true, explicit := false }).requeueResolved id
  let c ← theCtx id
  if !c.onBi then wakeNow ⟨.si, 0, id, 0⟩

end Sys2Proof.Machine
end

