-- ==== Sys2Proof/Machine/Scheduling.lean ====
section
/-! DEFINITION. Launches reaching cores, dispatch, record transitions, messages with refusal and forwarding, slicing, levelling
and arrivals at the die queues (R33, R42 to R60, R258, R259, R287, R297, R379). -/

namespace Sys2Proof.Machine

/-! ## Launches (R32, R33, R60) -/

/-- The rectangle word of an initial task: ORGN, with RSZ shifted up by 32 (R33). -/
def LaunchBlock.rect (b : LaunchBlock) : Nat := b.row * 32 + b.col + (b.h * 256 + b.w) * 2 ^ 32

/-- The cores of a launch. -/
def LaunchBlock.cores (b : LaunchBlock) : List Nat :=
  (List.range b.h).flatMap fun i => (List.range b.w).map fun j => (b.row + i) * 32 + (b.col + j)

/-- A launch under way: its wakes are flooded. -/
def Ctx.startLaunch (c : Ctx) (b : LaunchBlock) : Ctx :=
  { c with launches := c.launches ++ [⟨c.nextLaunch, b, b.cores, 0⟩], nextLaunch := c.nextLaunch + 1 }

/-- DEVICE_LAUNCH_QUEUE_TAKE: the oldest posted launch of context arg.ctx (R60). -/
def execDeviceLaunchQueueTake (s : State) := event (modify fun s =>
  s.modCtx s.arg.ctx fun c =>
    match c.launchQ with
    | [] => c
    | b :: rest => { c with launchQ := rest }.startLaunch b) s

/-- A wake at a core (R33): ORGN, RSZ and JSEED, the generator, then the initial task, which comes to the queue as number seq. -/
def LCore.woken (k : LCore) (l : Nat) (launch : Launch) (seq : Nat) : LCore :=
  let b := launch.block
  { k with
    orgn := BitVec.ofNat 64 (b.row * 32 + b.col)
    rsz := BitVec.ofNat 64 (b.h * 256 + b.w)
    jseed := b.seed
    launched := true
    gen := some (Gen.seed b.seed l)
    queue := k.queue ++
      [⟨.ready, 0, .entry ⟨b.code, b.param, 0, [], some (launch.id, BitVec.ofNat 64 b.rect, b.seed)⟩, seq⟩] }

/-- The page-store pages of a folded logical core and its cluster (R342): lent to a core of a context on the SI at its first launch, as
far as pages are free (DEDUCED log 52). -/
def State.lendCore (s : State) (id l : Nat) : State :=
  match s.ctx? id with
  | none => s
  | some c =>
    if c.onBi then s
    else
      let k := Config.clusterOf l
      let uses := (if s.store.any fun p => decide (p.2 = .stash id l) then [] else [.stash id l, .stash id l]) ++
        (if s.store.any fun p => decide (p.2 = .tile id k) then [] else [.tile id k, .tile id k])
      { s with store := s.store ++ s.freeStore.zip uses }

/-- LAUNCH_WAKE_ARRIVAL: the wake of launch arg.i of context arg.ctx at core arg.k. -/
def execLaunchWakeArrival (s : State) := event (modify fun s =>
  match (s.ctx? s.arg.ctx).bind fun c => c.launches.find? fun n => decide (n.id = s.arg.i) && n.wakes.contains s.arg.k with
  | none => s
  | some n =>
    (({ s with ticks := s.ticks + 1 }.modCtx s.arg.ctx fun c =>
      let c := { c with launches := c.launches.map fun (m : Launch) =>
        if m.id = n.id then { m with wakes := m.wakes.erase s.arg.k, running := m.running + 1 } else m }
      c.setCore s.arg.k ((c.core s.arg.k).woken s.arg.k n s.ticks)).lendCore s.arg.ctx s.arg.k).spillRoom s.arg.ctx
        (s.dieOfCore s.arg.ctx s.arg.k)) s

/-- The word a front-end command completes with (R366). -/
def commandWord (index code detail : Nat) : Word := BitVec.ofNat 64 (index % 2 ^ 32 * 2 ^ 32 + detail % 256 * 256 + code)

/-- A started command of a queue changed. -/
def State.modStarted (s : State) (q : QueueRef) (index : Nat) (f : Started → Started) : State :=
  match assocGet s.queues q with
  | none => s
  | some e =>
    let e' := { e with started := e.started.map fun (c : Started) => if c.index = index then f c else c }
    { s with queues := assocPut s.queues q e' }

/-- LAUNCH_COMPLETION: every initial task of launch arg.i of context arg.ctx has ended; its completion record is decremented
and a host command completes (R60, R366, R378). -/
def launchCompletionOp : Op Unit := do
  let s ← get
  let id := s.arg.ctx
  let c ← theCtx id
  match c.launches.find? fun n => decide (n.id = s.arg.i) with
  | none => pure ()
  | some n =>
    if n.wakes.isEmpty && decide (n.running = 0) then
      let b := n.block
      let ok ← if b.record = 0 then pure true else deviceJoin id (b.issuer.getD 0) b.record (-1) 2
      if ok then modify fun s =>
        let s := s.modCtx id fun c => { c with launches := c.launches.filter fun m => decide (m.id ≠ n.id) }
        match b.command with
        | some (q, index) => s.modStarted q index fun e => { e with status := some (commandWord index 0 0) }
        | none => s

/-- LAUNCH_COMPLETION. -/
def execLaunchCompletion (s : State) := event launchCompletionOp s

/-! ## Dispatch (R36, R46, R50 to R53, R258) -/

/-- The level of an entry (R50, R51). -/
def levelOf (lvl : Word) (src : Source) (own : Nat) : Nat :=
  let f (lo : Nat) : Nat := bits lvl.toNat (lo + 2) lo
  match src with
  | .ready => if 2 ≤ own then own else f 12
  | .bag => f 15
  | .chan 0 => 0
  | .chan 1 => 1
  | .chan 2 => f 0
  | .chan 3 => f 3
  | .chan 4 => f 6
  | .chan 5 => f 9
  | .chan _ => 2

/-- What a level can serve: an entry of a logical core's queue by its place, or the head of a cluster's task list. -/
inductive Pick where
  | entry (ctx l i : Nat) | pair (ctx cl : Nat)
  deriving DecidableEq, Repr

/-- A triple that a level holds: level, number of the triple, what it serves. -/
structure Cand where
  level : Nat
  key : Nat
  pick : Pick
  deriving DecidableEq, Repr

/-- Number of a (context, logical core or cluster, source) triple, for the round-robin. -/
def tripleKey (id l : Nat) (src : Source) : Nat := (id * 1024 + l) * 16 + src.code

/-- The first entry of each source and level of a logical core that passes a test. -/
def queueCands (id l : Nat) (c : Ctx) (k : LCore) (ok : QEntry → Bool) : List Cand :=
  (k.queue.zipIdx.filter fun p => ok p.1).foldl
    (fun acc p =>
      let lev := levelOf c.lvl p.1.source p.1.level
      let key := tripleKey id l p.1.source
      if acc.any fun d => decide (d.level = lev) && decide (d.key = key) then acc
      else acc ++ [⟨lev, key, .entry id l p.2⟩]) []

/-- The task lists of a context that a core serves. -/
def bagCands (id : Nat) (c : Ctx) (core : PCore) : List Cand :=
  if c.migrating then []
  else
    (c.bags.filter fun p => !p.2.tasks.isEmpty && (List.range 8).any fun n => decide (c.host (Config.coreOf p.1 n) = core)).map
      fun p => ⟨levelOf c.lvl .bag 0, tripleKey id (512 + p.1) .bag, .pair id p.1⟩

/-- Everything a core can dispatch: of resident contexts alone (R30), and of their queues what stands on chip (R43). -/
def State.cands (s : State) (core : PCore) : List Cand :=
  let vw := coreVw core
  let all := s.contenders core
  (s.hosted core).flatMap (fun h =>
    queueCands h.1 h.2.2.1 h.2.1 h.2.2.2 fun e => dispatchable h.2.1 h.2.2.2 vw e && onChip all e) ++
  s.ctxs.flatMap fun p => if p.2.resident && !p.2.dead then bagCands p.1 p.2 core else []

/-- The least number of a list. -/
def leastNat : List Nat → Option Nat
  | [] => none
  | x :: rest => some (rest.foldl Nat.min x)

/-- The level that a dispatch serves (R52). -/
def chooseLevel (pass levels : List Nat) : Option Nat :=
  match leastNat (levels.filter fun k => decide (64 ≤ (pass[k]?).getD 0)) with
  | some k => some k
  | none => leastNat levels

/-- The pass counters after level k was served (R52). -/
def passAfter (pass levels : List Nat) (k : Nat) : List Nat :=
  (List.range 8).map fun j =>
    if j = k then 0 else (pass[j]?).getD 0 + (if k < j ∧ levels.contains j then 1 else 0)

/-- The triple after the last one served, round-robin. -/
def nextTriple (last : Option Nat) (cs : List Cand) : Option Cand :=
  let after := match last with
    | some n => cs.filter fun c => decide (n < c.key)
    | none => []
  let among := if after.isEmpty then cs else after
  (leastNat (among.map Cand.key)).bind fun k => among.find? fun c => decide (c.key = k)

/-- A physical core of the package with its slots, powered (R14, R331). -/
def State.slotLive (s : State) (id : SlotId) : Bool :=
  match id.core with
  | .bi l => decide (l < 512) && decide (id.idx < 8) && decide (s.bi = .on)
  | .si k => decide (k < 8) && decide (id.idx < 4) && decide (s.si ≠ .ret)
  | .fw _ => false

/-- A task placed in a free slot. -/
def State.putTask (s : State) (id : SlotId) (t : Task) : State :=
  if s.cur = id then { s with act := t, active := true } else { s with parked := assocPut s.parked id t }

/-- An entry of a channel has become free: it is held for the core at the head of the refusal list (R49). A channel has at most one
hold at a time: an entry that becomes free while one stands is held for nobody until that one is taken or expires (DESIGN
CHOICE log 56). -/
def LCore.freed (k : LCore) (ch : Nat) : LCore :=
  match assocGet k.refusals ch, assocGet k.holds ch with
  | some (r :: _), none => { k with holds := assocPut k.holds ch r }
  | _, _ => k

/-- The registers of a message at dispatch (R36, R48). -/
def msgTask (id l slot level : Nat) (m : Msg) : Task :=
  let t := Task.fresh id l slot m.handler 0
  let w (i : Nat) : Word := (m.payload[i]?).getD 0
  let x := (((t.x.set 1 (w 0)).set 2 (w 1)).set 3 (w 2)).set 4 (w 3)
  let x := match m.extra with
    | some (a, b) => (x.set 5 a).set 6 b
    | none => x
  { t with x := x, source := .chan m.chan, level := level, chain := if m.chan = 1 then [l] else [] }

/-- The registers of a ready-queue entry at dispatch (R33, R36). -/
def entryTask (id l slot level : Nat) (e : ReadyEntry) : Task :=
  let t := Task.fresh id l slot e.code (BitVec.ofNat 64 e.frame)
  let t := { t with record := e.record, source := .ready, level := level, chain := e.chain }
  match e.initial with
  | some (n, rect, seed) => { t with x := (t.x.set 1 rect).set 2 seed, launch := some n }
  | none => t

/-- The registers of a pair at dispatch (R258). -/
def pairTask (id l slot level : Nat) (p : Pair) : Task :=
  let t := Task.fresh id l slot p.prod.addr 0
  let x2 : Word := match p.other with
    | .inl n => BitVec.ofNat 64 n
    | .inr v => v
  let x3 := p.prod.index % 4096 + (if p.other.isRight then 4096 else 0) + (if p.swapped then 8192 else 0)
  { t with x := ((t.x.set 1 (BitVec.ofNat 64 p.n1)).set 2 x2).set 3 (BitVec.ofNat 64 x3), source := .bag, level := level }

/-- A task starts in a slot: its record becomes RUNNING (R42), and a clock-gated SI core restarts (R331). -/
def State.startTask (s : State) (id : SlotId) (t : Task) : State :=
  let s := (s.putTask id t).transition t 5
  let s := s.modCtx t.ctx fun c => { c with lastDispatch := s.ticks }
  { s with ticks := s.ticks + 1, si := if s.si = .idle ∧ !coreIsBi id.core then .on else s.si }

/-- Dispatches entry i of a logical core's queue. A mailbox entry that becomes free so is held for a sender on its own logical core's
list; the lists of other contexts, or of other logical cores folded on the same core, get no hold of it (DESIGN CHOICE log 56). -/
def State.startEntry (s : State) (slot : SlotId) (level id l i : Nat) : State :=
  match s.ctx? id with
  | none => s
  | some c =>
    let k := c.core l
    match k.queue[i]? with
    | none => s
    | some e =>
      let k := { k with queue := k.queue.eraseIdx i }
      match e.body with
      | .msg m =>
        let k := if m.chan = 1 then { k with ch1Closed := true } else k
        (s.setCtx id (c.setCore l (k.freed m.chan))).startTask slot (msgTask id l slot.idx level m)
      | .entry r => (s.setCtx id (c.setCore l k)).startTask slot (entryTask id l slot.idx level r)
      | .saved a =>
        match c.frames.find? fun fr => decide (fr.addr = a) with
        | none => s
        | some fr =>
          (s.setCtx id { c.setCore l k with frames := c.frames.filter fun f => decide (f.addr ≠ a) }).startTask slot
            (fr.task.resumeIn slot.idx)

/-- The logical core on which a core of a cluster runs a pair (DEDUCED log 32). -/
def pairCore (core : PCore) (cl : Nat) : Nat :=
  match core with
  | .bi l => l
  | .si k => Config.coreOf cl (k % 4)
  | .fw _ => 0

/-- Takes the head of a cluster's task list and dispatches it, or discards it (R258). -/
def startPair (slot : SlotId) (level id cl : Nat) : Op Unit := do
  let c ← theCtx id
  let l := pairCore slot.core cl
  let w : Who := .core id l
  match (c.bag cl).tasks with
  | [] => pure ()
  | p :: _ => do
    modify (·.modBag id cl fun b => { b with tasks := b.tasks.tail })
    match ← softly id (takeStep w p) with
    | .ok true => modify (·.startTask slot (pairTask id l slot.idx level p))
    | .ok false => modify (·.discardPair w id p none)
    | .error code => modify (·.discardPair w id p (some code))

/-- DISPATCH: the free slot arg.slot takes a task (R52). A dispatch at level G counts for the pass counters and the round-robin also
when the take discards its pair or meets PAGE (DESIGN CHOICE log 56). -/
def dispatchOp : Op Unit := do
  let s ← get
  let slot := s.arg.slot
  if s.slotLive slot && (s.taskAt slot).isNone then
    let cs := s.cands slot.core
    let k := (assocGet s.cores slot.core).getD PhysCore.init
    let levels := cs.map Cand.level
    match chooseLevel k.pass levels with
    | none => pure ()
    | some lev =>
      match nextTriple (assocGet k.served lev) (cs.filter fun c => decide (c.level = lev)) with
      | none => pure ()
      | some c => do
        let k' := { k with pass := passAfter k.pass levels lev, served := assocPut k.served lev c.key }
        set { s with cores := assocPut s.cores slot.core k' }
        match c.pick with
        | .entry id l i => modify (·.startEntry slot lev id l i)
        | .pair id cl => do
          let _ ← deviceOn (coreDie slot.core) id (startPair slot lev id cl)

/-- DISPATCH. -/
def execDispatch (s : State) := event dispatchOp s

/-- RECORD_TRANSITION: transition arg.i; those of one record are made in their order (R42, R379). -/
def recordTransitionOp : Op Unit := do
  let s ← get
  match s.trans[s.arg.i]? with
  | none => pure ()
  | some t =>
    if !(s.trans.take s.arg.i).any fun u => decide (u.ctx = t.ctx) && decide (u.record = t.record) then
      if ← transitionStep t then modify fun s => { s with trans := s.trans.eraseIdx s.arg.i }

/-- RECORD_TRANSITION. -/
def execRecordTransition (s : State) := event recordTransitionOp s

/-! ## Messages (R44 to R49, R189, R190, R287) -/

/-- Whether a queue entry holds a mailbox entry of a channel: a re-queued task holds none (R53). -/
def QEntry.holds (e : QEntry) (ch : Nat) : Bool :=
  match e.body with
  | .msg m => decide (m.chan = ch)
  | .entry _ | .saved _ => false

/-- Mailbox entries of a channel on a logical core. -/
def LCore.entries (k : LCore) (ch : Nat) : Nat := (k.queue.filter fun e => e.holds ch).length

/-- Whether a context's messages are judged as a resident one's: not from step 2 to step 6 of a migration (R323, R344). -/
def Ctx.judged (c : Ctx) : Bool := c.resident && !c.moving

/-- Entries of a channel that a logical core has in use or holds for a sender (R48, R49). -/
def LCore.inUse (k : LCore) (ch : Nat) : Nat := k.entries ch + (if (assocGet k.holds ch).isSome then 1 else 0)

/-- Physical entries of a channel in use on a core: those of resident contexts, held ones among them (R48, R49, R323). -/
def State.physEntries (s : State) (core : PCore) (ch : Nat) : Nat :=
  (s.ctxs.map fun p =>
    if p.2.judged then
      ((p.2.cores.filter fun q => decide (p.2.host q.1 = core)).map fun q => q.2.inUse ch).sum
    else 0).sum

/-- Whether a channel holds fewer entries than its depth, less n (R47, R48). -/
def Ctx.depthRoom (c : Ctx) (l ch n : Nat) : Bool :=
  decide ((c.core l).entries ch + n < bits c.mbox.toNat (4 * ch + 3) (4 * ch) + 1)

/-- Whether fewer than n physical entries of a channel are in use where a logical core is hosted (R48); a context that is not resident
uses none. -/
def State.physRoom (s : State) (c : Ctx) (l ch n : Nat) : Bool := !c.judged || decide (s.physEntries (c.host l) ch < n)

/-- A sending core put on a refusal list of four (R49). -/
def addRefused (l : List Nat) (src : Nat) : List Nat := if l.contains src ∨ 4 ≤ l.length then l else l ++ [src]

/-- The verdict on a message to a refusable channel: whether it is accepted, and the core after it (R48, R49). The sender for whom an
entry is held takes it, within the depth in force. Room that a raised depth makes goes to any sender while no entry is held (DESIGN
CHOICE log 56). -/
def State.judge (s : State) (c : Ctx) (l ch src : Nat) : Bool × LCore :=
  let k := c.core l
  let list := (assocGet k.refusals ch).getD []
  let no : Bool × LCore := (false, { k with refusals := assocPut k.refusals ch (addRefused list src) })
  match assocGet k.holds ch with
  | some r =>
    if r = src ∧ c.depthRoom l ch 0 ∧ s.physRoom c l ch (Config.channelDepth + 1) then
      let rest := list.filter fun x => decide (x ≠ src)
      let k := { k with holds := assocDel k.holds ch, refusals := assocPut k.refusals ch rest }
      (true, if c.depthRoom l ch 1 && s.physRoom c l ch Config.channelDepth then k.freed ch else k)
    else no
  | none => if c.depthRoom l ch 0 && s.physRoom c l ch Config.channelDepth then (true, k) else no

/-- A refusal or a stale-ring NACK returned to the sender's ch6; without a handler it is dropped and ERRS.ref set (R190). -/
def State.refuse (s : State) (id : Nat) (c : Ctx) (at_ : Nat) (m : Msg) (nack : Bool) : State :=
  let h := if m.refusal ≠ 0 then m.refusal else c.refusal
  if h = 0 then s.setErr id m.src errRef
  else
    let x6 := at_ + m.chan * 512 + (if nack then 4096 else 0)
    let r : Msg := ⟨6, at_, h, 0, m.payload, some (BitVec.ofNat 64 m.handler, BitVec.ofNat 64 x6)⟩
    { s with msgs := s.msgs ++ [(⟨id, m.src, none, r⟩ : InFlight)] }

/-- The newest stub that an attention message meets (R287). -/
def stubFor (c : Ctx) (l : Nat) (m : Msg) : Option Stub :=
  if c.kv.npool = 0 ∨ m.chan ≠ c.kv.ach then none
  else
    let x1 := ((m.payload[0]?).getD 0).toNat
    let h := kvhash (bits x1 63 48) (bits x1 47 32)
    (c.core l).stubs.find? fun t => inArc t.lo t.hi h

/-- An attention message sent on by a stub, one hop further (R287). -/
def Msg.hop (m : Msg) : Msg :=
  { m with payload := match m.payload with
      | x :: rest => (x + 1) :: rest
      | [] => [] }

/-- A message queued on its channel, as the entry of number seq. -/
def LCore.deliver (k : LCore) (m : Msg) (seq : Nat) : LCore := { k with queue := k.queue ++ [⟨.chan m.chan, 0, .msg m, seq⟩] }

/-- A message at its destination. -/
def State.arrive (s : State) (f : InFlight) : State :=
  match s.ctx? f.ctx with
  | none => s
  | some c =>
    match stubFor c f.dst f.msg with
    | some t =>
      if ((f.msg.payload[0]?).getD 0).toNat % 4 < 2 then
        { s with msgs := s.msgs ++ [(⟨f.ctx, t.target, none, f.msg.hop⟩ : InFlight)] }
      else s.refuse f.ctx c f.dst f.msg true
    | none =>
      let ch := f.msg.chan
      let take (k : LCore) : State :=
        ({ s with ticks := s.ticks + 1 }.setCtx f.ctx (c.setCore f.dst (k.deliver f.msg s.ticks))).spillRoom f.ctx
          (s.dieOfCore f.ctx f.dst)
      if 1 ≤ ch ∧ ch ≤ 5 then
        match s.judge c f.dst ch f.msg.src with
        | (true, k) => take k
        | (false, k) => (s.setCtx f.ctx (c.setCore f.dst k)).refuse f.ctx c f.dst f.msg false
      else take (c.core f.dst)

/-- Whether two messages under way keep their order: one slot, one channel of one logical core (R45). -/
def ordered (f g : InFlight) : Bool :=
  f.slot.isSome && decide (f.slot = g.slot) && decide (f.ctx = g.ctx) && decide (f.dst = g.dst) && decide (f.msg.chan = g.msg.chan)

/-- MESSAGE_ARRIVAL: message arg.i, unless an earlier one must come first (R45). -/
def execMessageArrival (s : State) := event (modify fun s =>
  match s.msgs[s.arg.i]? with
  | none => s
  | some f =>
    if (s.msgs.take s.arg.i).any (ordered f) then s
    else { s with msgs := s.msgs.eraseIdx s.arg.i }.arrive f) s

/-- REFUSAL_HOLD_EXPIRY: the hold on channel arg.k of logical core arg.i of context arg.ctx ends without a message (R49). -/
def execRefusalHoldExpiry (s : State) := event (modify fun s =>
  s.modCore s.arg.ctx s.arg.i fun k =>
    match assocGet k.holds s.arg.k with
    | none => k
    | some r =>
      let list := ((assocGet k.refusals s.arg.k).getD []).filter fun x => decide (x ≠ r)
      { k with holds := assocDel k.holds s.arg.k, refusals := assocPut k.refusals s.arg.k list }.freed s.arg.k) s

/-! ## Slicing (R53) -/

/-- SLICE_INSTRUCTION_LIMIT: the task of slot arg.slot has retired 2^20 instructions in its stay; a firmware task is not sliced (DESIGN
CHOICE log 64). -/
def execSliceInstructionLimit (s : State) := event (modify fun s =>
  match s.taskAt s.arg.slot with
  | some t => if 2 ^ 20 ≤ t.retired ∧ !t.priv ∧ (s.copyOf s.arg.slot).isNone then s.sliceSlot s.arg.slot else s
  | none => s) s

/-- Whether executing an instruction of a task leaves it waiting where it stands (R37). -/
def stays (f : State → Host.Outcome State Fault Refusal) (s : State) : Bool :=
  match f s with
  | .next t => t.active && decide (t.act.retired = s.act.retired)
  | _ => false

/-- Whether an instruction waits as latency without effect (R53, R324): an issue on a zero EBUD or a full job table and a LINK backing
off, which executing them shows, or a FENCE, CFL or divide, which may take as long as it will. -/
def waits (s : State) : Instr → Bool
  | .mma a b c m n e => stays (execMma a b c m n e) s
  | .mmag a b c m n e => stays (execMmag a b c m n e) s
  | .mzero d a => stays (execMzero d a) s
  | .mldt d a b => stays (execMldt d a b) s
  | .mstt d a b => stays (execMstt d a b) s
  | .msend d a b => stays (execMsend d a b) s
  | .cpy d a b e => stays (execCpy d a b e) s
  | .cpyg d a b => stays (execCpyg d a b) s
  | .qfen d a => stays (execQfen d a) s
  | .mvc d a b e => stays (execMvc d a b e) s
  | .link d a b => stays (execLink d a b) s
  | .fence .. | .cfl .. | .div .. | .divz .. | .rem .. | .remz .. => true
  | _ => false

/-- Whether the moving slot stands at an instruction that waits. -/
def State.atStall (s : State) : Bool :=
  match fetchWord s with
  | .ok ((_, w), t) => ((decode w).map (waits t)).getD false
  | .error _ => false

/-- SLICE_STALL_LIMIT: slot arg.slot has been stalled for 65 536 fabric cycles; the instruction is executed again in full. -/
def execSliceStallLimit (s : State) := event (modify fun s =>
  let t := s.switch s.arg.slot
  if t.active && !t.act.priv && t.atStall then s.sliceSlot s.arg.slot else s) s

/-! ## Levelling (R56, R259) -/

/-- Neighbours of a place in a grid: north, east, south, west; those inside a region. -/
def neighbours (cols : Nat) (inside : Nat → Nat → Bool) (n : Nat) : List Nat :=
  let r := n / cols
  let c := n % cols
  (if 0 < r && inside (r - 1) c then [n - cols] else []) ++ (if c + 1 < cols && inside r (c + 1) then [n + 1] else []) ++
    (if inside (r + 1) c then [n + cols] else []) ++ (if 0 < c && inside r (c - 1) then [n - 1] else [])

/-- The first neighbour with the smallest count. -/
def smallest (count : Nat → Nat) : List Nat → Option Nat
  | [] => none
  | n :: rest =>
    match smallest count rest with
    | some m => if count m < count n then some m else some n
    | none => some n

/-- How many entries a place with count c ships to a neighbour with count m (R56). -/
def shipCount (c m : Nat) : Nat := if m + 2 ≤ c then Nat.min 32 ((c - m) / 2) else 0

/-- Whether a row and a column lie in the rectangle of ORGN and RSZ. -/
def inRect (orgn rsz r c : Nat) : Bool :=
  decide (bits orgn 8 5 ≤ r) && decide (r < bits orgn 8 5 + bits rsz 15 8) && decide (bits orgn 4 0 ≤ c)
    && decide (c < bits orgn 4 0 + bits rsz 7 0)

/-- WORK_LIST_LEVELLING: logical core arg.i of context arg.ctx ships entries from the bottom of its list to the top of its
smallest neighbour's, in their order (R56). A core whose ORGN and RSZ no launch has set has no region, and its list is not levelled
(DESIGN CHOICE log 56); the lists of a context that is not resident stay in its task arena (R323). -/
def execWorkListLevelling (s : State) := event (modify fun s =>
  match s.ctx? s.arg.ctx with
  | none => s
  | some c =>
    let l := s.arg.i
    let k := c.core l
    let count (n : Nat) : Nat := (c.core n).work.length
    if !(k.launched && c.resident) then s
    else
      match smallest count (neighbours 32 (inRect k.orgn.toNat k.rsz.toNat) l) with
      | none => s
      | some m =>
        let keep := k.work.length - shipCount (count l) (count m)
        let c := c.setCore l { k with work := k.work.take keep }
        let t := c.core m
        (s.setCtx s.arg.ctx (c.setCore m { t with work := k.work.drop keep ++ t.work })).spillRoom s.arg.ctx
          (s.dieOfCore s.arg.ctx l)) s

/-- Whether a logical cluster holds a core of the rectangle of ORGN and RSZ (R259). -/
def clusterIn (orgn rsz r c : Nat) : Bool :=
  (List.range 8).any fun lane =>
    let l := Config.coreOf (r * 8 + c) lane
    inRect orgn rsz (l / 32) (l % 32)

/-- BAG_LEVELLING: cluster arg.i of context arg.ctx ships task-list pairs from its tail to the tail of its smallest
neighbour's (R259); the bags of a context that is not resident stay in its task arena (R323). -/
def execBagLevelling (s : State) := event (modify fun s =>
  match s.ctx? s.arg.ctx with
  | none => s
  | some c =>
    let cl := s.arg.i
    let k := c.core (Config.coreOf cl 0)
    let count (n : Nat) : Nat := (c.bag n).tasks.length
    if !(k.launched && c.resident) then s
    else
      let inside (r q : Nat) : Bool := decide (r < 8) && clusterIn k.orgn.toNat k.rsz.toNat r q
      match smallest count (neighbours 8 inside cl) with
      | none => s
      | some m =>
        let b := c.bag cl
        let keep := b.tasks.length - shipCount (count cl) (count m)
        let d := c.bag m
        let b' := { b with tasks := b.tasks.take keep }
        let d' := { d with tasks := d.tasks ++ b.tasks.drop keep }
        (s.setCtx s.arg.ctx { c with bags := assocPut (assocPut c.bags cl b') m d' }).spillRoom s.arg.ctx
          (s.dieOfCore s.arg.ctx (Config.coreOf cl 0))) s

/-! ## Die queues -/

/-- DQ_ENTRY_ARRIVAL: the oldest entry under way in direction arg.k reaches the receiving half; one that arrives stale is
discarded and counted (R297). -/
def execDqEntryArrival (s : State) := event (modify fun s =>
  let dir := s.arg.k
  match s.dieFlight.find? fun e => decide (e.dir = dir) with
  | none => s
  | some e =>
    let s := { s with dieFlight := s.dieFlight.erase e }
    match s.ctx? e.ctx with
    | none => s
    | some c =>
      if staleSeq e.seq (tableGet c.floors dir) then s.countStale e.ctx dir 1
      else { s with dieQ := s.dieQ ++ [e] }.serveDie e.ctx dir (c.waits.length + 1)) s

end Sys2Proof.Machine
end

