-- ==== Sys2Proof/Machine/Domains.lean ====
section
/-! DEFINITION. The burst island, the small island and the DRAM changing state, the windows of the triggers, and the power
controller with its integrals (R331 to R340, R348 to R355, R374). -/

namespace Sys2Proof.Machine

/-! ## Reasons (R333, R353, R354) -/

/-- Bits of THR. -/
def thrTherm : Nat := 0
def thrCur : Nat := 1
def thrSlew : Nat := 2
def thrCap : Nat := 3
def thrRel : Nat := 4
def thrJunc : Nat := 5

/-- A reason set in clusters. -/
def State.setThr (s : State) (cls : List (Bool × Nat)) (n : Nat) : State :=
  { s with power := { s.power with thr := cls.foldl (fun t c => assocPut t c ((assocGet t c).getD 0 ||| (1#64 <<< n))) s.power.thr } }

/-- The clusters of the burst island, the spare clusters of the firmware cores among them (R15, DESIGN CHOICE log 54). -/
def biClusters : List (Bool × Nat) := (List.range 66).map fun c => (false, c)

/-- The clusters of the small island. -/
def siClusters : List (Bool × Nat) := [(true, 0), (true, 1)]

/-- A wake that the power controller holds for a thermal, current or cap reason sets the reason's bit in every cluster of the island
concerned; one of another number holds nothing (R333, R354). -/
def State.holdWake (s : State) (cls : List (Bool × Nat)) (n : Nat) : State :=
  if n = thrTherm ∨ n = thrCur ∨ n = thrCap then s.setThr cls n else s

/-! ## The burst island (R332, R336 to R338) -/

/-- Whether a wake cause names a domain. -/
def State.caused (s : State) (d : Domain) : Bool := s.causes.any fun w => decide (w.target = d)

/-- Every dirty line of the DRAM has reached its backing store (R337, R338, DEDUCED log 13). -/
def State.writeBackDram (s : State) : State := s.reachBack 0 Config.dramBytes

/-- BI_DRAIN_START: the idle interval ended with no context placed on the BI and no wake cause for it; the home map becomes
SI. -/
def execBiDrainStart (s : State) := event (modify fun s =>
  if s.bi = .on ∧ !(s.ctxs.any fun p => p.2.onBi) ∧ !s.caused .bi then { s with bi := .drain, biMap := false } else s) s

/-- BI_DRAIN_END: every burst slice is empty; arg.flag is the driver's choice of OFF. A wake cause that came during DRAIN takes
effect as from RET. -/
def execBiDrainEnd (s : State) := event (modify fun s =>
  if s.bi = .drain then { s.writeBackDram with bi := if s.arg.flag && !s.caused .bi then .off else .ret } else s) s

/-- BI_RET_TO_OFF: driver policy. -/
def execBiRetToOff (s : State) := event (modify fun s => if s.bi = .ret then { s with bi := .off } else s) s

/-- BI_WAKE_START: a wake cause, unless the wake is held: under junction protection (R374), or with arg.flag for the reason arg.k
(R333). A DRAM in SREF is woken too. -/
def execBiWakeStart (s : State) := event (modify fun s =>
  if (s.bi = .ret ∨ s.bi = .off) ∧ s.caused .bi ∧ !s.power.junc then
    if s.arg.flag then s.holdWake biClusters s.arg.k
    else
      let s := { s with bi := .wake }
      if s.dramSref then s.wake ⟨.dram, 0, 0, 0⟩ else s
  else s) s

/-- HOME_MAP_FLIP_TO_BI: the hub slices have written back, the map becomes BI and the BI is ON; causes are notified. -/
def flipOp : Op Unit := do
  let s ← get
  if s.bi = .wake ∧ !s.dramSref then
    set { s.writeBackDram with bi := .on, biMap := true }
    serveAll

/-- HOME_MAP_FLIP_TO_BI. -/
def execHomeMapFlipToBi (s : State) := event flipOp s

/-! ## The small island (R331, R332) -/

/-- Whether an SI core runs a task or has an entry to dispatch. -/
def State.siBusy (s : State) : Bool :=
  (s.running.any fun p => match p.1.core with | .si _ => true | .bi _ | .fw _ => false)
    || (List.range 8).any fun k => !(s.cands (.si k)).isEmpty

/-- SI_IDLE: no SI core has a dispatchable entry. -/
def execSiIdle (s : State) := event (modify fun s => if s.si = .on ∧ !s.siBusy then { s with si := .idle } else s) s

/-- SI_RET_ENTRY: no resident context is placed on the idle SI. -/
def execSiRetEntry (s : State) := event (modify fun s =>
  if s.si = .idle ∧ !(s.ctxs.any fun p => p.2.resident && !p.2.onBi) then { s with si := .ret } else s) s

/-- SI_WAKE: a wake cause naming the SI, unless the wake is held: under junction protection, or with arg.flag for the reason arg.k. -/
def siWakeOp : Op Unit := do
  let s ← get
  if s.si = .ret ∧ s.caused .si ∧ !s.power.junc then
    if s.arg.flag then set (s.holdWake siClusters s.arg.k)
    else do
      set { s with si := .on }
      serveAll

/-- SI_WAKE. -/
def execSiWake (s : State) := event siWakeOp s

/-! ## The DRAM (R332, R333, R340) -/

/-- DRAM_SREF_ENTRY: the BI is in RET or OFF, every resident context is on the SI, no access is under way between steps, no
cause names the DRAM, and the driver permits it, which the event's coming says. -/
def execDramSrefEntry (s : State) := event (modify fun s =>
  if (s.bi = .ret ∨ s.bi = .off) ∧ !(s.ctxs.any fun p => p.2.resident && p.2.onBi) ∧ !s.caused .dram ∧ !s.caused .bi then
    { s with dramSref := true }
  else s) s

/-! ## Trigger windows (R335) -/

/-- TRIGGER_QDEPTH_WINDOW: a window of entry arg.i of context arg.ctx ends. -/
def qdepthOp : Op Unit := do
  let s ← get
  let id := s.arg.ctx
  let e := s.arg.i
  let c ← theCtx id
  let t := s.trigEntry c e
  if e < 4 ∧ t.kind = 1 then
    if !(c.trigger e).low then fireTrigger id e
    modify fun s => s.modCtx id fun c => c.modTrigger e fun g => { g with low := s.queueLow t }

/-- TRIGGER_QDEPTH_WINDOW. -/
def execTriggerQdepthWindow (s : State) := event qdepthOp s

/-- TRIGGER_TRATE_WINDOW: a window of entry arg.i of context arg.ctx ends. -/
def trateOp : Op Unit := do
  let s ← get
  let id := s.arg.ctx
  let e := s.arg.i
  let c ← theCtx id
  let t := s.trigEntry c e
  if e < 4 ∧ t.kind = 3 then
    if !c.onBi && decide ((c.trigger e).tokens < t.threshold) then fireTrigger id e
    modify fun s => s.modCtx id fun c => c.modTrigger e fun g => { g with tokens := 0 }

/-- TRIGGER_TRATE_WINDOW. -/
def execTriggerTrateWindow (s : State) := event trateOp s

/-! ## Rails (R27, R348, R349) -/

/-- A point moved at most one step towards a wanted one (R349). -/
def towards (cur want : Nat) : Nat := if cur < want then cur + 1 else if want < cur then cur - 1 else cur

/-- What 10 microseconds come to: one unit of the integrals is 2^-32 of them. -/
def sampleUnit : Nat := 2 ^ 32

/-- Seconds in units of the integrals. -/
def seconds (n : Nat) : Nat := n * 100000 * sampleUnit

/-- The thermal integral of a region (R355). -/
def State.thermal (s : State) (r : Nat) : Nat := ((assocGet s.power.windows r).getD []).sum

/-- The 32 regions of the burst dies and the 4 of the hub. -/
def regions : List Nat := List.range 36

/-- Whether a region is at 90 % of its thermal budget or more (R355). -/
def State.hot (s : State) (r : Nat) : Bool := decide (seconds 90 ≤ s.thermal r)

/-- The wanted point number i of the power controller, which arg.temps gives; one step down while a region is hot (R355), while a
current limit of a shared rail stands (R354), or while the part exceeds the driver's cap as it is (R27, R349). -/
def State.wanted (s : State) (i cur : Nat) : Nat :=
  if regions.any s.hot || s.power.limited || decide (s.power.cap < s.arg.i) then cur - 1
  else Nat.min 7 ((s.arg.temps[i]?).getD cur).toNat

/-- A raise that would bring the part above the driver's cap is not made (R349). -/
def State.capped (s : State) (cur want : Nat) : Nat := if s.power.cap < s.arg.k then Nat.min cur want else want

/-- POWER_EVALUATION: MX, VX and FB move at most one point towards the points that the controller wants, arg.temps in this order.
The part draws arg.i mW as its points are and arg.k mW with the wanted ones: over the cap the points fall, and a raise that would
pass it is not made, so that the cap is kept (R349, DESIGN CHOICE log 16). Under junction protection every rail stays at point 0
(R374). -/
def execPowerEvaluation (s : State) := event (modify fun s =>
  let p := s.power
  if p.junc then s
  else
    let wmx := s.capped p.mx (s.wanted 0 p.mx)
    let wvx := s.capped p.vx (s.wanted 1 p.vx)
    let wfb := s.capped p.fb (s.wanted 2 p.fb)
    let mx := towards p.mx wmx
    let vx := towards p.vx wvx
    let fb := towards p.fb wfb
    let late := decide (mx < wmx) || decide (vx < wvx) || decide (fb < wfb)
    let fell := decide (mx < p.mx) || decide (vx < p.vx) || decide (fb < p.fb)
    let s' := { s with power := { p with mx := mx, vx := vx, fb := fb, sm := Nat.max mx vx, limited := false } }
    let s' := if late then s'.setThr biClusters thrSlew else s'
    let s' := if fell && regions.any s.hot then s'.setThr biClusters thrTherm else s'
    if p.cap < s.arg.i ∨ p.cap < s.arg.k then s'.setThr biClusters thrCap else s') s

/-- BUDGET_REFILL: every resident context's budget (R351). -/
def execBudgetRefill (s : State) := event (modify fun s =>
  { s with ctxs := s.ctxs.map fun p => (p.1, if p.2.resident then { p.2 with ebud := ebudRefill p.2.ebud } else p.2) }) s

/-! ## Sensors and integrals (R355) -/

/-- The clusters of a region (R355): two of a burst die, and of the hub's four the first two hold an SI cluster each (DESIGN CHOICE log
16). The cluster of a burst die's firmware core stands in for none of them, and lies in the first region of its die (R29, DESIGN CHOICE
log 54). -/
def regionClusters (r : Nat) : List (Bool × Nat) :=
  if r < 32 then [(false, 2 * r), (false, 2 * r + 1)] ++ (if r % 16 = 0 then [(false, 64 + r / 16)] else [])
  else if r < 34 then [(true, r - 32)]
  else []

/-- The sensors of a region among the 192: the hub's 64, then those of die 1 and die 2. The spec gives a region's number of sensors
alone: that they are four (of the hub sixteen) consecutive ones, in the order of the regions, is the model's choice (DESIGN CHOICE
log 54). -/
def regionSensors (r : Nat) : List Nat :=
  if r < 32 then (List.range 4).map fun i => 64 + 4 * r + i else (List.range 16).map fun i => 16 * (r - 32) + i

/-- The greatest of a list of temperatures; 0 for none. -/
def maxTemp : List Int → Int
  | [] => 0
  | x :: rest => rest.foldl max x

/-- A region's temperature (R355). -/
def regionTemp (sensors : List Int) (r : Nat) : Int := maxTemp ((regionSensors r).filterMap fun i => sensors[i]?)

/-- The greatest n below 2^k more than a start whose tenth power is at most a bound. -/
def rootFrom (bound : Nat) : Nat → Nat → Nat
  | 0, n => n
  | k + 1, n => if (n + 2 ^ k) ^ 10 ≤ bound then rootFrom bound k (n + 2 ^ k) else rootFrom bound k n

/-- What a sample at a temperature adds to an integral: 2^((T - 85) / 10) times 10 microseconds, rounded down to a unit
(R355). The tenth power of the sum is compared in integers. -/
def sampleGain (t : Int) : Nat :=
  let base := sampleUnit ^ 10
  let up := (t - 85).toNat
  let down := (85 - t).toNat
  rootFrom (base * 2 ^ up / 2 ^ down) 64 0

/-- The allowance of the reliability integral (R355): 10^6 s and 1 s for each second powered. -/
def Power.allowance (p : Power) : Nat := seconds 1000000 + p.powered * sampleUnit

/-- Samples of a 60 s window at one each 10 microseconds. -/
def windowSamples : Nat := 6000000

/-- The integrals of a region after a sample. -/
def Power.sample (p : Power) (temps : List Int) (r : Nat) : Power :=
  let g := sampleGain (regionTemp temps r)
  { p with
    windows := assocPut p.windows r ((g :: (assocGet p.windows r).getD []).take windowSamples)
    reliability := assocPut p.reliability r (tableGet p.reliability r + g) }

/-- The gates and reasons of a region after a sample; k is the share of issue that a gate leaves, 1 to 7 (R354, R355). -/
def State.regionResponse (s : State) (k r : Nat) : State :=
  let cls := regionClusters r
  let full := decide (seconds 100 ≤ s.thermal r)
  let worn := decide (s.power.allowance < tableGet s.power.reliability r)
  let s := if full then s.setThr cls thrTherm else s
  let s := if worn then s.setThr cls thrRel else s
  let gates := cls.foldl (fun g c => if full || worn then assocPut g c (1 + (k + 6) % 7) else assocDel g c) s.power.gates
  { s with power := { s.power with gates := gates } }

/-- THERMAL_SAMPLE: the 192 sensors read arg.temps; arg.k is what a gate leaves (R355). -/
def execThermalSample (s : State) := event (modify fun s =>
  let p := regions.foldl (fun p r => p.sample s.arg.temps r) { s.power with powered := s.power.powered + 1 }
  let s := { s with power := p, mc := { s.mc with sensors := s.arg.temps } }
  regions.foldl (fun s r => s.regionResponse s.arg.k r) s) s

/-- CURRENT_LIMIT_REPORT: for a shared rail (arg.flag), whose point the next evaluation lowers, or for region arg.i, gated to
arg.k of every 8 block-steps (R349, R353, R354). -/
def execCurrentLimitReport (s : State) := event (modify fun s =>
  if s.arg.flag then
    State.setThr { s with power := { s.power with limited := true } } biClusters thrCur
  else
    let cls := regionClusters s.arg.i
    let s := s.setThr cls thrCur
    { s with power := { s.power with gates := cls.foldl (fun g c => assocPut g c (1 + (s.arg.k + 6) % 7)) s.power.gates } }) s

end Sys2Proof.Machine
end

