-- ==== Sys2Proof/Machine/Pages.lean ====
section
/-! DEFINITION. What firmware does with faults, pages and requests (R143, R314 to R318, R323, R329, R340), and the host's own
accesses and the write-backs of lines (R145, R357, R373, R375). -/

namespace Sys2Proof.Machine

/-! ## Page-table entries -/

/-- An entry with its frame replaced. -/
def withFrame (pte pa : Nat) : Nat := pte - bits pte 42 11 * 2 ^ 11 + pa / 2 ^ 16 * 2 ^ 11

/-- An entry changed under TLBI: the table's word, and no cached translation of the page (R313). -/
def State.setEntry (s : State) (id va at_ pte : Nat) (big : Bool) : State :=
  let lo := va / pageBytes big * (pageBytes big / 2 ^ 16)
  { s with
    mem := s.mem.writeNat at_ 8 pte
    tlb := s.tlb.filter fun t => !(decide (t.ctx = id) && decide (lo ≤ t.page) && decide (t.page < lo + pageBytes big / 2 ^ 16)) }

/-- The key under which the page of a leaf is stored (R375). -/
def State.leafKey (s : State) (c : Ctx) (pte : Nat) : Option (BitVec 256) :=
  if bitOf pte 63 then some (s.keyOf c.keySlot) else none

/-- The memory with n bytes stored as whole lines from an address, enciphered when they are stored under a key (R375). -/
def Memory.writeLines (m : Memory) (key : Option (BitVec 256)) (pa : Nat) (bs : List Byte) : Memory :=
  match key with
  | none => m.writeBytes pa bs
  | some k => m.writeBytes pa ((List.range (bs.length / 64)).flatMap fun i =>
      blocksOf (fun a => aesXts k a) (pa + 64 * i) ((bs.drop (64 * i)).take 64))

/-- The plaintext of n bytes of whole lines. -/
def Memory.readLines (m : Memory) (key : Option (BitVec 256)) (pa n : Nat) : List Byte :=
  match key with
  | none => m.readBytes pa n
  | some k => (List.range (n / 64)).flatMap fun i => plainLine m k (pa + 64 * i)

/-- The partials of a frame's lines are gathered (R136). -/
def State.gatherFrame (s : State) (pa n : Nat) : State :=
  { s with gathers := s.gathers.filter fun g => decide (g.line < pa / 64) || decide ((pa + n) / 64 ≤ g.line) }

/-- The stores through stash maps in a frame are observed: the lines hold nothing that a drop may undo (R162). -/
def State.seenFrame (s : State) (pa n : Nat) : State :=
  { s with dirtyMaps := s.dirtyMaps.filter fun d => decide (d.pa < pa) || decide (pa + n ≤ d.pa) }

/-- A page's bytes and poison copied to another frame, and into what backs it, so that nothing of an earlier owner is left there (DEDUCED
log 13); the tweak of a page stored under a key is the frame's address (R375). The copy reads the one frame and stores the other, as a
party that observes what was stored through stash maps (R162). -/
def State.copyFrame (s : State) (key : Option (BitVec 256)) (src dst n : Nat) : State :=
  let moved := (s.poison.filter fun l => decide (src / 64 ≤ l) && decide (l < (src + n) / 64)).map fun l => l - src / 64 + dst / 64
  let s' : State := { (((s.gatherFrame src n).gatherFrame dst n).seenFrame src n).seenFrame dst n with
    mem := s.mem.writeLines key dst (s.mem.readLines key src n)
    poison := (s.poison.filter fun l => decide (l < dst / 64) || decide ((dst + n) / 64 ≤ l)) ++ moved }
  s'.reachBack dst n

/-! ## Faults answered by firmware -/

/-- Whether firmware runs: not while the MC holds the device in recovery (R369). -/
def State.fwRuns (s : State) : Bool := !s.mc.recovery

/-- The job at the head of a queue goes on. -/
def State.wakeJob (s : State) (q : EngineQueue) : State :=
  match s.queueOf q with
  | [] => s
  | j :: _ => s.setHead q { j with waiting := false }

/-- Firmware's writes to page tables. -/
def State.tableWrites (s : State) (ws : List (Nat × Word)) : State :=
  ws.foldl (fun s w => { s with mem := s.mem.writeNat w.1 8 w.2.toNat }) s

/-- The pages that firmware keeps for instructions that have not retired yet, of running tasks, of those in frames, and of those that
CTXS took: context and 64 KiB page (R318). -/
def State.pins (s : State) : List (Nat × Nat) :=
  (s.running.flatMap fun p => p.2.pinned.map fun n => (p.2.ctx, n)) ++
    (s.ctxs.flatMap fun p => p.2.frames.flatMap fun fr => fr.task.pinned.map fun n => (p.1, n)) ++
    s.held.flatMap fun h => h.2.pinned.map fun n => (h.2.ctx, n)

/-- Whether every page that an instruction keeps is mapped still (R318). -/
def State.keepsPins (s s' : State) : Bool := s.pins.all fun p => !s.reaches p.1 (p.2 * 2 ^ 16) || s'.reaches p.1 (p.2 * 2 ^ 16)

/-- The page-store page of a physical address. -/
def storePage (pa : Nat) : Option Nat :=
  if Config.pageStoreBase ≤ pa ∧ pa < Config.hostBase then some ((pa - Config.pageStoreBase) / 2 ^ 16) else none

/-- First physical address of a page-store page. -/
def storePa (n : Nat) : Nat := Config.pageStoreBase + 2 ^ 16 * n

/-- Whether a leaf of a context is one that firmware sets (R312, R339): sir is 0 for a frame in DRAM alone, and a page-store page is
lent to that page. -/
def State.leafSound (s : State) (id : Nat) (l : Nat × Nat × Bool × Nat) : Bool :=
  let base := leafBase l.2.1 l.2.2.1
  (bitOf l.2.1 9 || isDram base) &&
    (match storePage base with
     | some k => !l.2.2.1 && decide (assocGet s.store k = some (.page id l.1))
     | none => true)

/-- Whether every leaf that firmware's writes have made or changed is sound (R339). -/
def State.keepsLending (s s' : State) : Bool :=
  s'.ctxs.all fun p => (leaves s'.mem p.2.ptroot).all fun l => (leaves s.mem p.2.ptroot).contains l || s.leafSound p.1 l

/-- A task arena made large enough for the frame at an address (R43). -/
def Ctx.growArena (c : Ctx) (addr : Nat) : Ctx :=
  { c with arenaPages := Nat.max c.arenaPages ((addr + 8192 - c.arenaBase + 65535) / 2 ^ 16) }

/-- A page kept for the KVA of a context that a slot holds, or held when it was halted (R318). -/
def State.pinSlot (s : State) (id : Nat) (slot : SlotId) (page : Nat) : State :=
  let keep (t : Task) : Task := if t.ctx = id then { t with pinned := page :: t.pinned } else t
  let s := if s.cur = slot then { s with act := keep s.act }
    else { s with parked := s.parked.map fun p => if p.1 = slot then (p.1, keep p.2) else p }
  s.modCtx id fun c => { c with frames := c.frames.map fun fr =>
    if fr.task.savedSlot = slot.idx ∧ c.host fr.task.lcore = slot.core then { fr with task := keep fr.task } else fr }

/-- The operation of a pending PAGE that firmware has resolved (R317, R325): the task is re-queued, and its instruction keeps the page
(R318); the job or operation is made again; the frame, or what is spilled, is stored in an arena that has grown (R43). -/
def State.pageResolved (s : State) (p : PageFault) : State :=
  match p.who with
  | .frame a =>
    (s.modFrame p.ctx a fun fr => { fr with task := { fr.task with pinned := p.va / 2 ^ 16 :: fr.task.pinned } }).answerFault p.ctx a
  | .job q => s.wakeJob q
  | .arena a => (s.modCtx p.ctx fun c => c.growArena a).placeFrame p.ctx a p.die
  | .spill a => (s.modCtx p.ctx fun c => c.growArena a).spillRoom p.ctx p.die
  | .image a => s.modCtx p.ctx fun c => c.growArena a
  | .slot id => s.pinSlot p.ctx id (p.va / 2 ^ 16)
  | .device | .noMap => s

/-- A frame that waits for dispatch waits for its fate instead. -/
def State.unqueue (s : State) (id : Nat) (fr : Frame) : State :=
  if fr.status = .queued then
    (s.modFrame id fr.addr fun fr => { fr with status := .host }).modCore id fr.task.lcore fun k =>
      { k with queue := k.queue.filter fun e => decide (e.body ≠ .saved fr.addr) }
  else s

/-- A PAGE that no mapping covers, or for which the arena cannot grow (R43, R316): a fault record, for spilled entries one that names
their place alone (DESIGN CHOICE log 7); a job or an operation of the device finds so when it is made again. -/
def State.pageMissing (s : State) (p : PageFault) : State :=
  let gone : PageFault := ⟨p.ctx, p.va / 2 ^ 16, .noMap, 0, false⟩
  let report (a : Nat) (f : Frame → State) : State :=
    match (s.ctx? p.ctx).bind fun c => c.frames.find? fun fr => decide (fr.addr = a) with
    | none => s
    | some fr => (f fr).postFault p.ctx fr.task.lcore fr.task.savedSlot 0 codePage fr.task.pc.toNat p.va a 0
  match p.who with
  | .frame a => report a fun _ => s.modFrame p.ctx a fun fr => { fr with status := .host }
  | .arena a => report a fun fr => s.unqueue p.ctx fr
  | .job q => { s with pages := s.pages ++ [gone] }.wakeJob q
  | .spill a => s.postFault p.ctx 0 0 0 codePage 0 p.va a 0
  | .image _ | .device | .slot _ => { s with pages := s.pages ++ [gone] }
  | .noMap => s

/-- A PAGE handed over channel 0 to the firmware core of another die, which takes what it is passed in the order of its arrival
(R368). -/
def State.passFault (s : State) (i : Nat) (p : PageFault) (die : Nat) : State :=
  if die < 3 ∧ die ≠ p.die then { s with pages := s.pages.eraseIdx i ++ [{ p with die := die, passed := true }] } else s

/-- Whether a pending PAGE may be answered now: one that came over channel 0 once those that came to that die before it are (R368). -/
def State.pageTurn (s : State) (i : Nat) (p : PageFault) : Bool :=
  !(p.passed && (s.pages.take i).any fun q => q.passed && decide (q.die = p.die))

/-- PAGE_RESOLVE: the firmware core of its die answers the pending PAGE arg.i by the table writes arg.maps, or finds no mapping; with
arg.flag it hands it to the die arg.k (R368). Writes after which the page is not mapped, a page is gone that an instruction keeps, or a
frame outside DRAM has sir 0 or is a page-store page not lent to it, are not firmware's answer: nothing happens (R316, R318, R339). Ring
entries that waited for the page are then offered again. -/
def pageResolveOp : Op Unit := do
  let s ← get
  let i := s.arg.i
  match s.pages[i]? with
  | none => pure ()
  | some p =>
    if p.who = .noMap ∨ !s.fwRuns then pure ()
    else if s.arg.flag then set (s.passFault i p s.arg.k)
    else if s.pageTurn i p then
      let s' := { s with pages := s.pages.eraseIdx i }
      match s.arg.maps with
      | some ws =>
        let s' := s'.tableWrites ws
        if s'.reaches p.ctx p.va && s.keepsPins s' && s.keepsLending s' then do
          set (s'.pageResolved p).postHeld
          serveAll
      | none => do
        set (s'.pageMissing p).postHeld
        serveAll

/-- PAGE_RESOLVE. -/
def execPageResolve (s : State) := event pageResolveOp s

/-- RES_RESOLVE: hub firmware arms W2 for the pending RES arg.i, and once the DRAM is ACT lets it go on (R316, R340, R368). -/
def resResolveOp : Op Unit := modify fun s =>
  match s.pendRes[s.arg.i]? with
  | none => s
  | some p =>
    if !s.fwRuns then s
    else if s.dramSref then s.wake ⟨.dram, 0, p.ctx, 0⟩
    else
      let s := { s with pendRes := s.pendRes.eraseIdx s.arg.i }
      match p.who with
      | .frame a => s.answerFault p.ctx a
      | .job q => s.wakeJob q
      | .arena a => s.placeFrame p.ctx a p.die
      | .device | .slot _ | .noMap | .spill _ | .image _ => s

/-- RES_RESOLVE. -/
def execResResolve (s : State) := event resResolveOp s

/-- DIRTY_LOG_MERGE: the log of core arg.slot.core, once half full (R314). -/
def execDirtyLogMerge (s : State) := event (modify fun s =>
  match assocGet s.cores s.arg.slot.core with
  | some k => if 32 ≤ k.dirty.length then s.mergeLog s.arg.slot.core else s
  | none => s) s

/-! ## Moving pages -/

/-- Whether firmware may put a page at a frame: whole, in memory, and in the page store only a page that is lent to nothing, for a
page of 64 KiB (R339). -/
def State.frameFree (s : State) (dst n : Nat) : Bool :=
  decide (dst % n = 0) && decide (dst + n ≤ 2 ^ 48) && memExists dst && memExists (dst + n - 1)
    && (match storePage dst with
        | some k => decide (n = 2 ^ 16) && (assocGet s.store k).isNone
        | none => true)

/-- The page store once a page of a context has gone from one frame to another (R339). -/
def State.relendPage (s : State) (id va src dst : Nat) : State :=
  let store := match storePage src with
    | some k => assocDel s.store k
    | none => s.store
  { s with store := match storePage dst with
      | some k => assocPut store k (.page id (va / 2 ^ 16 * 2 ^ 16))
      | none => store }

/-- An entry for another frame: sir is 0 for frames in DRAM alone (R339). -/
def framed (pte dst : Nat) : Nat := withField (withFrame pte dst) 9 1 (if isDram dst then 0 else 1)

/-- Whether an instruction that has not retired keeps a page of n bytes at an address (R318). -/
def State.kept (s : State) (id va n : Nat) : Bool :=
  s.pins.any fun p => decide (p.1 = id) && decide (p.2 * 2 ^ 16 / n = va / n)

/-- Whether one of two frames lies in a DRAM in SREF: an access to it is held, and wakes it (R332, R340). -/
def State.frameAsleep (s : State) (a b : Nat) : Bool := s.dramSref && (isDram a || isDram b)

/-- A page moved to a frame under TLBI: its bytes, its entry, and the page store's lending (R339). A move between device and host memory
counts in mig, opens the page's window again, and is the last once it is the fourth of an unbroken run, which pins the page (R315). -/
def State.movePage (s : State) (id : Nat) (c : Ctx) (va pte : Nat) (big : Bool) (at_ dst : Nat) : State :=
  let n := pageBytes big
  let src := leafBase pte big
  let page := (va / n, n)
  let across := isHost src != isHost dst
  let mig := (if c.moveWindows.contains page then bits pte 45 43 else 0) + 1
  let e := framed pte dst
  let e := if !across then e else if 4 ≤ mig then withField (withField e 43 3 0) 8 1 1 else withField e 43 3 mig
  let rest := c.moveWindows.filter fun p => decide (p ≠ page)
  let s := ((s.copyFrame (s.leafKey c pte) src dst n).setEntry id va at_ e big).relendPage id va src dst
  if across then s.modCtx id fun c => { c with moveWindows := if 4 ≤ mig then rest else page :: rest } else s

/-- PAGE_MOVE: firmware moves the page of arg.k of context arg.ctx between device and host memory, to the frame arg.word; a pinned page
is not moved (R315, R339). While the DRAM is in SREF a move from or to it waits for the DRAM (R332). -/
def pageMoveOp : Op Unit := do
  let s ← get
  let id := s.arg.ctx
  let va := s.arg.k
  let dst := s.arg.word.toNat
  let c ← theCtx id
  match walk s.mem c.ptroot va with
  | none => pure ()
  | some (pte, big, at_) =>
    let n := pageBytes big
    let src := leafBase pte big
    let ok := s.fwRuns && decide (bits pte 57 46 = id) && !bitOf pte 8 && s.frameFree dst n && (isHost src != isHost dst)
      && !s.kept id va n
    if !ok then pure ()
    else if s.frameAsleep src dst then set (s.wake ⟨.dram, 0, id, 0⟩)
    else set (s.movePage id c va pte big at_ dst)

/-- PAGE_MOVE. -/
def execPageMove (s : State) := event pageMoveOp s

/-- MIG_WINDOW_EXPIRY: the window of the page of arg.k of context arg.ctx ends without a move (R315). -/
def windowExpiryOp : Op Unit := do
  let s ← get
  let id := s.arg.ctx
  let va := s.arg.k
  let c ← theCtx id
  match walk s.mem c.ptroot va with
  | none => pure ()
  | some (pte, big, at_) =>
    let page := (va / pageBytes big, pageBytes big)
    if c.moveWindows.contains page then
      let s := s.setEntry id va at_ (withField pte 43 3 0) big
      set (s.modCtx id fun c => { c with moveWindows := c.moveWindows.filter fun p => decide (p ≠ page) })

/-- MIG_WINDOW_EXPIRY. -/
def execMigWindowExpiry (s : State) := event windowExpiryOp s

/-- BACKGROUND_REQUANTISATION: firmware writes arg.bytes to the frame arg.word and swaps it in for the page of arg.k of context
arg.ctx, a page without write permission (R143). While the DRAM is in SREF a swap from or to it waits for the DRAM (R332). -/
def requantiseOp : Op Unit := do
  let s ← get
  let id := s.arg.ctx
  let va := s.arg.k
  let dst := s.arg.word.toNat
  let c ← theCtx id
  match walk s.mem c.ptroot va with
  | none => pure ()
  | some (pte, big, at_) =>
    let n := pageBytes big
    let src := leafBase pte big
    let ok := s.fwRuns && decide (bits pte 57 46 = id) && !bitOf pte 2 && decide (s.arg.bytes.length = n) && s.frameFree dst n
      && decide (dst ≠ src) && (isHost dst == isHost src)
    if !ok then pure ()
    else if s.frameAsleep src dst then set (s.wake ⟨.dram, 0, id, 0⟩)
    else
      let s := State.reachBack { (s.gatherFrame dst n).seenFrame dst n with
        mem := s.mem.writeLines (s.leafKey c pte) dst s.arg.bytes
        poison := s.poison.filter fun l => decide (l < dst / 64) || decide ((dst + n) / 64 ≤ l) } dst n
      set ((s.setEntry id va at_ (framed pte dst) big).relendPage id va src dst)

/-- BACKGROUND_REQUANTISATION. -/
def execBackgroundRequantisation (s : State) := event requantiseOp s

/-! ## Pre-emption's tile save, SYSC and the debug port -/

/-- PREEMPT_TILE_SAVE: a pre-empted context's tile slots are saved once its engine entries have drained (R323 step 3). The tile
store is kept for each context and cluster, so that saving a holder's slots changes no value (R228). -/
def execPreemptTileSave (s : State) : Host.Outcome State Fault Refusal := event (pure ()) s

/-- A capability minted by firmware from x1 (R247, R329): all ones for a target that names nothing. -/
def mintCap (key : Word) (id epoch x1 : Nat) : Word :=
  let target := bits x1 51 44
  if target < 0x40 ∨ (0x80 ≤ target ∧ target < 0x90) then
    let hi := id * 2 ^ 20 + bits x1 51 40 * 2 ^ 8 + epoch
    BitVec.ofNat 64 (hi * 2 ^ 32 + (crng key (BitVec.ofNat 128 hi)).toNat % 2 ^ 32)
  else BitVec.allOnes 64

/-- What firmware answers to a SYSC (R329). -/
def syscAnswer (c : Ctx) (q : Sysc) : Word :=
  if q.n = 0 then 0
  else if q.n = 1 then mintCap c.capKey q.ctx c.epoch ((q.args[0]?).getD 0).toNat
  else BitVec.allOnes 64

/-- SYSC_SERVICE: hub firmware answers the pending SYSC arg.i: the saved x1 is written, in the frame too (R319), and the task re-queued. -/
def syscServiceOp : Op Unit := modify fun s =>
  match s.sysc[s.arg.i]? with
  | none => s
  | some q =>
    if !s.fwRuns then s
    else
      let s := { s with sysc := s.sysc.eraseIdx s.arg.i }
      match s.ctx? q.ctx with
      | none => s
      | some c =>
        (s.modFrame q.ctx q.addr fun fr => { fr with
          task := { fr.task with x := fr.task.x.set 1 (syscAnswer c q) }, placed := false }).requeue q.ctx q.addr

/-- SYSC_SERVICE. -/
def execSyscService (s : State) := event syscServiceOp s

/-- DEBUG_RESUME: the debug port resumes the halted task arg.i (R329). -/
def execDebugResume (s : State) := event (modify fun s =>
  match s.halted[s.arg.i]? with
  | none => s
  | some (id, addr, _) => { s with halted := s.halted.eraseIdx s.arg.i }.requeue id addr) s

/-- DEBUG_BREAK_ARM: the debug port arms (arg.flag) or disarms break for context arg.ctx (R329). -/
def execDebugBreakArm (s : State) := event (modify fun s =>
  s.modCtx s.arg.ctx fun c => { c with breakArmed := s.arg.flag }) s

/-! ## Lines and the host -/

/-- Poison put into the line of a physical address, as it is written back; its partials are dropped, each of them counted (R136, R145). -/
def State.poisonLine (s : State) (pa : Nat) : State :=
  let line := pa / 64
  let lost := (s.gathers.filter fun g => decide (g.line = line)).flatMap Gather.parts
  let s := lost.foldl (fun s p => s.countPoison p.ctx p.lcore) { s with gathers := s.gathers.filter fun g => decide (g.line ≠ line) }
  let add (ls : List Nat) : List Nat := if ls.contains line then ls else line :: ls
  { s with poison := add s.poison, backPoison := add s.backPoison }

/-- MC counters of errors: counter n gains corrected or uncorrected ones, saturating (R373). -/
def countEcc (t : List (Nat × Nat × Nat)) (n : Nat) (bad : Bool) : List (Nat × Nat × Nat) :=
  let sat (v : Nat) : Nat := if v < 2 ^ 32 - 1 then v + 1 else v
  let (c, u) := (assocGet t n).getD (0, 0)
  assocPut t n (if bad then (c, sat u) else (sat c, u))

/-- A record added to the event log: its class, and in word 2 what it names; the newest of 1024 overwrites the oldest (R371). The
code and the data that no rule gives are free values, and MC time has gone on by some microseconds (DESIGN CHOICE log 6, DESIGN CHOICE log 35). -/
def State.logEvent (s : State) (cls : Nat) (names : Option Word) : State :=
  let t := s.mc.time + Config.freeNat s.free
  let code := Config.freeNat (s.free + 1) % 2 ^ 24
  let entry := (s.mc.seq, cls * 2 ^ 24 + code, t, names.getD (Config.freeWord (s.free + 2)), Config.freeWord (s.free + 3))
  { s with
    free := s.free + 4
    mc := { s.mc with
      time := t, seq := (s.mc.seq + 1) % 2 ^ 32
      log := (s.mc.log ++ [entry]).drop (if s.mc.log.length < 1024 then 0 else 1) } }

/-- Event classes of R371. -/
def evBoot : Nat := 0
def evReset : Nat := 1
def evEcc : Nat := 2
def evThermal : Nat := 3
def evTraining : Nat := 5
def evScrub : Nat := 6
def evUpdate : Nat := 7

/-! ## Homes (R127) -/

/-- A slice that can be a line's home: a slice of a burst die, or of the hub. -/
inductive Slice where
  | bi (die n : Nat) | hub (n : Nat)
  deriving DecidableEq, Repr

/-- The exclusive or of the k lowest fields of w bits of a number. -/
def foldFields (w n : Nat) : Nat → Nat
  | 0 => 0
  | k + 1 => bits n (w * k + w - 1) (w * k) ^^^ foldFields w n k

/-- The home of a line under the BI map. -/
def biHome (pa : Nat) : Slice :=
  let h := foldFields 5 (bits pa 47 6) 9
  .bi (1 + h / 16) (h % 16)

/-- The home of a line under the SI map. -/
def siHome (pa : Nat) : Slice := .hub (foldFields 3 (bits pa 47 6) 14)

/-- The home of a line under the map in force: always in the hub for an SI-resident page, whose leaf has sir set (R127, R312); a heap
page is none (R340). -/
def State.home (s : State) (pa : Nat) : Slice :=
  if ((s.pageOwner pa).map fun p => bitOf p.2 9).getD false || !s.biMap then siHome pa else biHome pa

/-! ## Errors (R145, R373) -/

/-- Numbers of the MC's counters: the tiers of R20 in their order, then the DRAM channels (DESIGN CHOICE log 35). -/
def tierStash : Nat := 0
def tierL1 : Nat := 1
def tierTile : Nat := 2
def tierBiL2 : Nat := 3
def tierHubL2 : Nat := 4
def tierStore : Nat := 5
def tierDram : Nat := 6
def eccChannel (n : Nat) : Nat := 16 + n

/-- Where an error in a physical line stood, which sel names: in an L1, at the line's home, or in its memory, of which DRAM has
channels sel - 2; host memory is not the device's (R20, R25). -/
def State.errorCounters (s : State) (pa sel : Nat) : List Nat :=
  if sel = 0 then [tierL1]
  else if sel = 1 ∨ isHost pa then
    match s.home pa with
    | .bi .. => [tierBiL2]
    | .hub _ => [tierHubL2]
  else if isDram pa then [tierDram, eccChannel ((sel - 2) % 16)]
  else [tierStore]

/-- An error counted. -/
def State.countErrors (s : State) (cs : List Nat) (bad : Bool) : State :=
  { s with mc := { s.mc with ecc := cs.foldl (fun t n => countEcc t n bad) s.mc.ecc } }

/-- A corrected error in a DRAM page: the sixteenth logs an ECC event that names it (R373). -/
def State.countPage (s : State) (pa : Nat) : State :=
  let page := pa / 2 ^ 16
  let n := tableGet s.mc.pageErrors page + 1
  let s := { s with mc := { s.mc with pageErrors := assocPut s.mc.pageErrors page n } }
  if n = 16 then s.logEvent evEcc (some (BitVec.ofNat 64 page)) else s

/-- An error in a physical line: an uncorrectable one poisons it, charged to the context that owns the page, or not where the access that
finds it will count it (R145). -/
def State.lineError (s : State) (pa sel : Nat) (bad charged : Bool) : State :=
  let cs := s.errorCounters pa sel
  let s := s.countErrors cs bad
  if bad then
    match s.pageOwner pa, charged with
    | some (id, _), true => (s.poisonLine pa).countPoison id 0
    | _, _ => s.poisonLine pa
  else if cs.contains tierDram then s.countPage pa
  else s

/-- An error in a line of stash SRAM, at a key of State.stash. -/
def State.stashError (s : State) (key : Nat) (bad charged : Bool) : State :=
  let s := s.countErrors [tierStash] bad
  if bad then
    let s := if charged then s.countPoison (key / 0x20000 / 512) 0 else s
    if s.stashPoison.contains (key / 64) then s else { s with stashPoison := key / 64 :: s.stashPoison }
  else s

/-- An error in a line of tile-store SRAM, at a key of State.tile. -/
def State.tileError (s : State) (key : Nat) (bad charged : Bool) : State :=
  let s := s.countErrors [tierTile] bad
  if bad then
    let s := if charged then s.countPoison (key / 131072 / 64) 0 else s
    if s.tilePoison.contains (key / 64) then s else { s with tilePoison := key / 64 :: s.tilePoison }
  else s

/-- A byte of SRAM that an eviction event names by a number above the physical addresses (DESIGN CHOICE log 35): a key of State.stash
from 2^48 on, a key of State.tile from 2^49 on. -/
def sramNamed (n : Nat) : Option (Bool × Nat) :=
  if n < 2 ^ 48 then none else if n < 2 ^ 49 then some (false, n - 2 ^ 48) else some (true, n - 2 ^ 49)

/-- LINE_EVICTION_WRITEBACK: the line of arg.i reaches its backing store. arg.flag: that reveals an uncorrectable error, arg.k = 1: a
corrected one, which arg.word places (R145, R373, DEDUCED log 12). With arg.flag and arg.k = 2 nothing is written back: the uncorrectable
error is the one that the next access to the line finds, and counts. A line of the DRAM in SREF wakes it first (R332). A stash or tile
line has no other copy: an error in it is found where it stands. -/
def evictionOp : Op Unit := modify fun s =>
  let bad := s.arg.flag
  let met := bad && decide (s.arg.k = 2)
  match sramNamed s.arg.i with
  | some (tile, key) =>
    if bad ∨ s.arg.k = 1 then (if tile then s.tileError key bad !met else s.stashError key bad !met) else s
  | none =>
    let pa := s.arg.i / 64 * 64
    if !memExists pa then s
    else if s.dramSref && isDram pa then s.wake ⟨.dram, 0, 0, 0⟩
    else
      let s := if met then s else s.reachBack pa 64
      if bad ∨ s.arg.k = 1 then s.lineError pa s.arg.word.toNat bad !met else s

/-- LINE_EVICTION_WRITEBACK. -/
def execLineEvictionWriteback (s : State) := event evictionOp s

/-- What a host access to bytes within a line does beside its effect: partials are gathered (R136), and what a read shows has been
seen (R162). -/
def State.hostTouch (s : State) (acc : Acc) (pa n : Nat) : State := s.touch .phys acc [(s.physLoc pa, n)]

/-- A host write within one line: dropped and counted on a discarded page (R142). In a page of a protected context it leaves the bytes
as the stored form, which is ciphertext (R375). -/
def State.hostWrite (s : State) (pa : Nat) (bs : List Byte) : State :=
  let ls := [(s.physLoc pa, bs.length)]
  if (s.discardedOf pa).isSome then s.countDropped .phys ls
  else
    ((s.hostTouch .store pa bs.length).writeLocs .phys ls bs).reachBack pa bs.length

/-- HOST_SNOOP: a host access to the host line of arg.i, with the bytes the host then stores there, none for a read (R357). -/
def hostSnoopOp : Op Unit := modify fun s =>
  let pa := s.arg.i
  let line := pa / 64 * 64
  if Config.hostBase ≤ pa ∧ pa < 2 ^ 48 ∧ pa % 64 + s.arg.bytes.length ≤ 64 then
    let s := if s.arg.bytes.isEmpty then s.hostTouch .load line 64 else s.hostWrite pa s.arg.bytes
    s.reachBack line 64
  else s

/-- HOST_SNOOP. -/
def execHostSnoop (s : State) := event hostSnoopOp s

/-- A CXL.mem access by the host: a write of bytes within a line, or with no bytes a read of the line, which the host alone sees. -/
def State.hostAccess (s : State) (pa : Nat) (bs : List Byte) : State :=
  if bs.isEmpty then s.hostTouch .load (pa / 64 * 64) 64 else s.hostWrite pa bs

/-- HOST_HDM_ACCESS: a CXL.mem access at arg.i with arg.bytes. Without FEAT.hdm it is aborted; while the DRAM is in SREF it is held
and wakes the DRAM (R357, R359, R332, R340). -/
def hdmOp : Op Unit := modify fun s =>
  let pa := s.arg.i
  let bs := s.arg.bytes
  if s.feature 2 && decide (pa % 64 + bs.length ≤ 64) && decide (pa + bs.length ≤ Config.dramBytes) then
    if s.dramSref then State.wake { s with heldHost := s.heldHost ++ [.access pa bs] } ⟨.dram, 0, 0, 0⟩
    else s.hostAccess pa bs
  else s

/-- HOST_HDM_ACCESS. -/
def execHostHdmAccess (s : State) := event hdmOp s

end Sys2Proof.Machine
end

