-- ==== Sys2Proof/Machine/Frontend.lean ====
section
/-! DEFINITION. The control registers of BAR0 and the front end: notifies, mapping, the lottery and the commands of the queues
(R6, R9, R359, R361 to R366). -/

namespace Sys2Proof.Machine

/-! ## Registers of BAR0 (R356, R359, R364) -/

/-- FEAT_ACCEPT_WRITE: word arg.k of acceptance is written arg.word; bit 0 stays 1. Once a context was created the write is
ignored and late is set (R9, R359). -/
def execFeatAcceptWrite (s : State) := event (modify fun s =>
  if s.featLock then { s with featLate := true }
  else
    let i : Fin 2 := Fin.ofNat 2 s.arg.k
    { s with featAcc := s.featAcc.set i (if i = 0 then s.arg.word ||| 1 else s.arg.word) }) s

/-- LOTTERY_SEED_WRITE: 0 is stored as 1 (R364). -/
def execLotterySeedWrite (s : State) := event (modify fun s =>
  { s with lottery := if s.arg.word = 0 then 1 else s.arg.word }) s

/-- A queue at its binding: its head is the one in the header, and nothing is announced yet (R361). -/
def State.bindQueue (s : State) (q : QueueRef) (header : Nat) (rt : Bool) : State :=
  let head := s.physNat (header + 8) 4
  { s.frontSeen with queues := assocPut s.queues q ⟨header, head, head, true, rt, false, []⟩ }

/-- Bound rt queues (R364). -/
def State.rtQueues (s : State) : Nat := (s.queues.filter fun p => p.2.bound && p.2.rt).length

/-- The driver queue bound at a header, whose rt bit counts as for any queue; with 64 other rt queues it stays without (R361, R364,
DEDUCED log 36). -/
def State.bindDriver (s : State) (a : Nat) : State :=
  let others := State.rtQueues { s with queues := assocDel s.queues QueueRef.driver }
  s.bindQueue .driver a (bitOf (s.physNat (a + 16) 8) 16 && decide (others < 64))

/-- Eight bytes of the mailbox's data buffer written. -/
def Mc.putData (m : Mc) (off : Nat) (v : Word) : Mc :=
  if off % 8 = 0 ∧ off + 8 ≤ 4096 then
    let old := fitTo 4096 m.data
    { m with data := old.take off ++ natToBytes 8 v.toNat ++ old.drop (off + 8) }
  else m

/-- REGISTER_WRITE: register arg.reg is written arg.word, and stores it per its kind (R6). -/
def execRegisterWrite (s : State) := event (modify fun s =>
  let v := s.arg.word
  match s.arg.reg with
  | .featStatus => { s with featLate := s.featLate && !bitOf v.toNat 0 }
  | .driverHeader =>
    let a := bits v.toNat 47 6 * 64
    if s.mc.recovery then s
    else if s.asleep a then State.wake { s with heldHost := s.heldHost ++ [.header a] } ⟨.dram, 0, 0, 0⟩
    else s.bindDriver a
  | .scrb => s
  | .thr si clus =>
    { s with power := { s.power with thr := assocPut s.power.thr (si, clus) (w1c (s.thrOf (si, clus)) v) } }
  | .mboxLength => { s with mc := { s.mc with length := v.toNat } }
  | .mboxData off => { s with mc := s.mc.putData off v }
  | .fold ctx clus => s.modCtx ctx fun c => { c with foldNext := assocPut c.foldNext clus v.toNat }) s

/-! ## Headers and physical accesses (R312, R340, R361) -/

/-- A bound queue that is not being unbound. -/
def State.openQueue (s : State) (q : QueueRef) : Option Queue :=
  match assocGet s.queues q with
  | some e => if e.bound then some e else none
  | none => none

/-! ## Mapping (R364, R365) -/

/-- The lowest free active slot. -/
def State.freeQueueSlot (s : State) : Option Nat := (List.range 64).find? fun n => (assocGet s.slots n).isNone

/-- Whether a queue is mapped. -/
def State.mapped (s : State) (q : QueueRef) : Bool := s.slots.any fun p => decide (p.2 = q)

/-- A context that exists: not one that DESTROY has taken and the scrub still holds (R376). -/
def State.live? (s : State) (id : Nat) : Option Ctx := (s.ctx? id).filter fun c => !c.dead

/-- The context that a mapping of a queue makes resident (R365). -/
def State.wantsResidence (s : State) (q : QueueRef) : Option Nat :=
  match q, s.openQueue q with
  | .user _, some e =>
    match s.live? (s.queueCtx e) with
    | some c => if c.resident || c.explicit then none else some (s.queueCtx e)
    | none => none
  | _, _ => none

/-- The headers that the choice of a context to pre-empt reads: those of mapped queues, once 64 contexts are resident (R365). -/
def State.roomPlaces (s : State) : List Nat :=
  if (s.ctxs.filter fun p => p.2.resident).length < 64 then []
  else s.slots.filterMap fun p => (s.openQueue p.2).map Queue.header

/-- The places that mapping a queue reads: its header, and where it makes a context resident that context's descriptor with what finding
room for it reads (R360, R361, R365). -/
def State.mapPlaces (s : State) (q : QueueRef) : List Nat :=
  ((s.openQueue q).map Queue.header).toList ++
    match (s.wantsResidence q).bind s.ctx? with
    | some c => c.desc :: s.roomPlaces
    | none => []

/-- Holds the front end while one of some places is in a DRAM in SREF. -/
def placesReady : List Nat → Op Unit
  | [] => pure ()
  | a :: rest => do
    physReady a
    placesReady rest

/-- Maps waiting queues in their order, as far as slots and places for contexts go (R364, R365). A mapping that reads a DRAM in SREF wakes
it and waits (R332). -/
def mapQueues : Nat → Op Unit
  | 0 => pure ()
  | fuel + 1 => do
    let s ← get
    match s.mapWait, s.freeQueueSlot with
    | q :: rest, some n =>
      if (s.mapPlaces q).any s.asleep then set (s.wake ⟨.dram, 0, 0, 0⟩)
      else
        match s.wantsResidence q with
        | none => do
          set { s with mapWait := rest, slots := assocPut s.slots n q }
          mapQueues fuel
        | some id =>
          match s.residentRoom with
          | none => pure ()
          | some s' => do
            set { s' with mapWait := rest, slots := assocPut s.slots n q }
            makeResident id
            mapQueues fuel
    | _, _ => pure ()

/-- Maps what can be mapped. -/
def remap : Op Unit := do mapQueues (← get).mapWait.length

/-! ## Notifies (R363) -/

/-- Fires the HNOTIFY entries of contexts that name a user queue (R335, R363). -/
def fireNotify (n : Nat) : List Nat → Op Unit
  | [] => pure ()
  | id :: rest => do
    fireTriggers id (fun t => decide (t.kind = 4) && decide (t.queue = n)) trigIndexes
    fireNotify n rest

/-- Distance from a head to a tail, modulo 2^32. -/
def ringGap (tail head : Nat) : Nat := (tail + 2 ^ 32 - head) % 2 ^ 32

/-- A tail announced to a bound queue. -/
def State.announce (s : State) (q : QueueRef) (e : Queue) (tail : Nat) : State :=
  let gap := ringGap tail e.head
  if 2 ^ (s.headerAt e.header).lcap < gap then s.countUp (e.header + 24)
  else if gap ≤ ringGap e.tail e.head then s
  else
    { s with
      queues := assocPut s.queues q { e with tail := tail }
      mapWait := if s.mapped q ∨ s.mapWait.contains q then s.mapWait else s.mapWait ++ [q] }

/-- A notify's tail reaches its queue, held while the queue's header is in a DRAM in SREF; one of an unbound queue is dropped (R363). -/
def announce (q : QueueRef) (tail : Word) : Op Unit := do
  let s ← get
  match s.openQueue q with
  | none => pure ()
  | some e =>
    if s.asleep e.header then
      set (State.wake { s with heldHost := s.heldHost ++ [.notify q tail] } ⟨.dram, 0, 0, 0⟩)
    else do
      set (s.frontSeen.announce q e (tail.toNat % 2 ^ 32))
      remap

/-- A notify of a queue with a tail. A write of a user queue's notify page is an HNOTIFY event whatever the queue (R335, R363). In
recovery there are no notify pages (R369). -/
def notify (q : QueueRef) (tail : Word) : Op Unit := do
  if !(← get).mc.recovery then
    match q with
    | .user n => fireNotify n ((← get).ctxs.map Prod.fst)
    | .driver => pure ()
    announce q tail

/-- Runs an operation of the front end, held while it meets a DRAM in SREF. -/
def frontEnd (op : Op Unit) : Op Unit := do
  let _ ← device 0 op

/-- QUEUE_NOTIFY: queue arg.queue, the tail arg.word. -/
def execQueueNotify (s : State) := event (notify s.arg.queue s.arg.word) s

/-- Makes the host accesses that were held, in their order (R332, R340). -/
def releaseHeld : List HostAccess → Op Unit
  | [] => pure ()
  | .notify q tail :: rest => do
    announce q tail
    releaseHeld rest
  | .header pa :: rest => do
    modify (·.bindDriver pa)
    releaseHeld rest
  | .access pa bs :: rest => do
    modify (·.hostAccess pa bs)
    releaseHeld rest
  | .count pa :: rest => do
    modify (·.countUp pa)
    releaseHeld rest

/-- The clusters concerned when a wake of the DRAM is held: of the BI where a cause names it, else of the SI, which runs without the
DRAM meanwhile (R354, DESIGN CHOICE log 54). -/
def State.heldClusters (s : State) : List (Bool × Nat) := if s.caused .bi then biClusters else siClusters

/-- DRAM_SREF_EXIT: a cause naming the DRAM or the BI, unless the wake is held, by junction protection or with arg.flag for the reason
arg.k; held fault records and trace entries are posted, causes are notified, held host accesses are made, and queues that waited for the
DRAM are mapped (R332, R333, R340). -/
def dramExitOp : Op Unit := do
  let s ← get
  if s.dramSref && (s.caused .dram || s.caused .bi) && !s.power.junc then
    if s.arg.flag then set (s.holdWake s.heldClusters s.arg.k)
    else do
      set { s with dramSref := false, heldHost := [] }.postHeld
      serveAll
      releaseHeld s.heldHost
      remap

/-- DRAM_SREF_EXIT. -/
def execDramSrefExit (s : State) := event dramExitOp s

/-- QUEUE_SLOT_RELEASE: active slot arg.i, whose queue has stayed empty; an rt queue keeps its slot (R364). -/
def slotReleaseOp : Op Unit := do
  let s ← get
  match (assocGet s.slots s.arg.i).bind s.openQueue with
  | none => pure ()
  | some e =>
    if e.tail = e.head ∧ !e.rt then
      set { s with slots := assocDel s.slots s.arg.i }
      remap

/-- QUEUE_SLOT_RELEASE. -/
def execQueueSlotRelease (s : State) := event slotReleaseOp s

/-! ## Commands (R366) -/

/-- Word i of a command. -/
def cmdWord (w : List Word) (i : Nat) : Nat := ((w[i]?).getD 0).toNat

/-- op of a command. -/
def cmdOp (w : List Word) : Nat := bits (cmdWord w 0) 7 0

/-- nb of a command. -/
def cmdNb (w : List Word) : Bool := bitOf (cmdWord w 0) 8

/-- Whether a must-be-zero bit of a command's word 0 is set. -/
def cmdReserved (w : List Word) : Bool := decide (cmdWord w 0 / 2 ^ 9 ≠ 0)

/-- Codes of R366. -/
def stDone366 : Nat := 0
def stRect : Nat := 1
def stBlock : Nat := 2
def stRoom : Nat := 3
def stOp : Nat := 4
def stProt : Nat := 5
def stPriv : Nat := 6
def stFwerr : Nat := 7

/-- The command at the head of a queue's ring. -/
def State.headCommand (s : State) (e : Queue) : List Word :=
  let h := s.headerAt e.header
  (wordsOf 8 (s.readLoc (s.physLoc (h.base + 64 * (e.head % 2 ^ h.lcap))) 64)).map fun n => BitVec.ofNat 64 n

/-- A stitch that a command may use: known, with its queue on its side (R366). -/
def stitchOf (c : Ctx) (n : Nat) (side : Stitch → Nat) (q : QueueRef) : Option Stitch :=
  (assocGet c.stitches n).filter fun t => decide (q = .user (side t))

/-- Whether a stitch command keeps the limits of its row. -/
def stitchLimits (w : List Word) : Bool :=
  decide (cmdWord w 1 < 256) && decide (1 ≤ cmdWord w 2) && decide (cmdWord w 2 ≤ 65536)

/-- Whether a started command is a FEED to feed n that has not been appended. -/
def Started.feeds (c : Started) (n : Nat) : Bool :=
  c.status.isNone && decide (cmdOp c.words = 2) && decide (cmdWord c.words 2 % 16 = n)

/-- Whether a command that has started and not completed holds the later ones of its queue: a STITCH.WAIT, or a FEED that waits for room
(R366). -/
def Started.holds (c : Started) : Bool :=
  c.status.isNone && (decide (cmdOp c.words = 4) || (decide (cmdOp c.words = 2) && !cmdNb c.words))

/-- Whether a head command can start (R366): the row's condition, and no command before it that holds it. -/
def State.canStart (s : State) (q : QueueRef) (e : Queue) (w : List Word) : Bool :=
  let idle := e.started.all fun c => c.status.isSome
  let waits := e.started.any Started.holds
  let c := (s.live? (s.queueCtx e)).getD Ctx.blank
  !waits &&
    (if cmdReserved w then true
     else if cmdOp w = 3 ∨ cmdOp w = 5 then idle
     else if q = .driver then true
     else if cmdOp w = 4 then
       match stitchOf c (cmdWord w 1) Stitch.wait q with
       | some t => !stitchLimits w || decide (cmdWord w 2 ≤ t.count)
       | none => true
     else if cmdOp w = 2 ∧ !cmdNb w then
       let f := s.feed c (cmdWord w 2 % 16)
       decide (f.lcap = 0) || decide (1 ≤ f.room)
     else true)

/-- Whether the context of a queue is resident (R364); the driver queue has none. -/
def State.queueResident (s : State) (q : QueueRef) (e : Queue) : Bool :=
  match q with
  | .driver => true
  | .user _ =>
    match s.live? (s.queueCtx e) with
    | some c => c.resident
    | none => false

/-- The code and detail with which a command completes as it starts: one with no effect of its own (R361, R366). -/
def atOnce (q : QueueRef) (w : List Word) : Option Nat :=
  if cmdReserved w ∨ cmdOp w = 0 ∨ 7 < cmdOp w then some stOp
  else match q with
    | .driver => if cmdOp w < 5 then some stOp else none
    | .user _ => if cmdOp w = 7 then some stPriv else none

/-- An eligible slot: its queue, tickets and head command. -/
structure Eligible where
  q : QueueRef
  e : Queue
  tickets : Nat
  words : List Word
  deriving DecidableEq, Repr

/-- The eligible slots in ascending slot number (R364). -/
def State.eligible (s : State) : List Eligible :=
  (List.range 64).filterMap fun n =>
    (assocGet s.slots n).bind fun q =>
      (s.openQueue q).bind fun e =>
        let w := s.headCommand e
        if !e.closing && decide (e.tail ≠ e.head) && s.queueResident q e && s.canStart q e w then
          some ⟨q, e, (s.headerAt e.header).tickets, w⟩
        else none

/-- The generator's next state (R364). -/
def lotteryNext (s : Word) : Word :=
  let a := s ^^^ (s <<< 13)
  let b := a ^^^ (a >>> 7)
  b ^^^ (b <<< 17)

/-- The 32 bits that a draw uses (R364). -/
def lotteryValue (s : Word) : Nat := ((s * 0x2545F4914F6CDD1D) >>> 32).toNat

/-- The slot that a pick falls on (R364). -/
def drawFrom : Nat → List Eligible → Option Eligible
  | _, [] => none
  | pick, x :: rest => if pick < x.tickets then some x else drawFrom (pick - x.tickets) rest

/-- The device's view of the QDEPTH entries of a queue: at or below the threshold once its depth has fallen there (R335). -/
def State.noteDepth (s : State) (q : QueueRef) : State :=
  match q with
  | .driver => s
  | .user n =>
    (s.ctxs.map Prod.fst).foldl (fun s id =>
      trigIndexes.foldl (fun s e =>
        s.modCtx id fun c =>
          let t := s.trigEntry c e
          if t.kind = 1 ∧ t.queue = n ∧ s.queueLow t then c.modTrigger e fun g => { g with low := true } else c) s) s

/-! ## Completion and the status store (R366) -/

/-- The side on which a queue's addresses lie: virtual in the queue's context, physical for the driver queue (R361). -/
def State.queueWho (s : State) (q : QueueRef) (e : Queue) : Who :=
  match q with
  | .driver => .phys
  | .user _ => .core (s.queueCtx e) 0

/-- The checks on an address of a command before it is used: the front end has no local window, and a DRAM in SREF is woken. -/
def commandAddr (w : Who) (va : Nat) : Op Unit :=
  match w with
  | .phys => physReady va
  | .core _ _ => if inLocal va then raiseAt codeProt va else pure ()

/-- The store of a status word. -/
def statusStep (w : Who) (va : Nat) (v : Word) : Op Unit := do
  if va % 8 ≠ 0 then raiseAt codeAlign va
  commandAddr w va
  let ls ← checkRange w .store va 8
  if (← get).anyPoison ls then raiseAt codePois va
  writeRange w va (natToBytes 8 v.toNat)

/-- A status word lost (R361, R366): counted in the header, once the DRAM that holds it is ACT (R332), and for a user queue a fault
record of source 9. -/
def State.loseStatus (s : State) (q : QueueRef) (e : Queue) (code va : Nat) : State :=
  let s := s.countHeld 0 (e.header + 28)
  match q with
  | .driver => s
  | .user _ => s.postFault (s.queueCtx e) 0 0 9 code 0 va 0 0

/-- Stores a status word: whether that is finished, made or lost. A poisoned line that a user queue's store meets is counted on core 0
of its context (R145, DEDUCED log 45). -/
def storeStatus (q : QueueRef) (e : Queue) (va : Nat) (v : Word) : Op Bool := do
  if va = 0 then pure true
  else
    let w := (← get).queueWho q e
    match ← device ((← get).queueCtx e) (statusStep w va v) with
    | .done _ => pure true
    | .later => pure false
    | .failed code _ => do
      modify fun s => (if code = codePois ∧ q ≠ .driver then s.countPoison (s.queueCtx e) 0 else s).loseStatus q e code va
      pure true

/-- A started command of a queue by its ring index. -/
def State.startedOf (s : State) (q : QueueRef) (index : Nat) : Option (Queue × Started) :=
  match assocGet s.queues q with
  | none => none
  | some e => (e.started.find? fun c => decide (c.index = index)).map fun c => (e, c)

/-- Makes the status store of a completed command; the command is gone once the store is made or lost. -/
def finishStarted (q : QueueRef) (index : Nat) : Op Unit := do
  match (← get).startedOf q index with
  | none => pure ()
  | some (e, c) =>
    match c.status with
    | none => pure ()
    | some v =>
      if ← storeStatus q e (cmdWord c.words 7) v then
        modify fun s =>
          match assocGet s.queues q with
          | none => s
          | some e =>
            let e' := { e with started := e.started.filter fun (c : Started) => decide (c.index ≠ index) }
            { s with queues := assocPut s.queues q e' }

/-- A command completes with a code and a detail. -/
def complete (q : QueueRef) (index code detail : Nat) : Op Unit := do
  modify (·.modStarted q index fun c => { c with status := some (commandWord index code detail) })
  finishStarted q index

/-- The oldest FWCALL of the driver queue that is not finished. -/
def State.oldestCall (s : State) : Option Started :=
  match assocGet s.queues .driver with
  | none => none
  | some e => e.started.find? fun c => decide (cmdOp c.words = 7) && c.status.isNone

/-- FWCALLs with a function number outside R367 fail as their turn comes. -/
def serveUnknown : Nat → Op Unit
  | 0 => pure ()
  | fuel + 1 => do
    match (← get).oldestCall with
    | none => pure ()
    | some c =>
      if cmdWord c.words 1 = 0 ∨ 12 < cmdWord c.words 1 then
        complete .driver c.index stFwerr 0xFF
        serveUnknown fuel

/-- Started commands of the driver queue. -/
def State.callsStarted (s : State) : Nat := ((assocGet s.queues .driver).map fun e => e.started.length).getD 0

/-- A head command starts: the head advances and is written to the header. -/
def startCommand (x : Eligible) : Op Unit := do
  let index := x.e.head
  let head := (index + 1) % 2 ^ 32
  let e' := { x.e with head := head, started := x.e.started ++ [⟨index, x.words, false, none⟩] }
  modify fun s =>
    ({ s with queues := assocPut s.queues x.q e' }.physWrite (x.e.header + 8) (natToBytes 4 head)).noteDepth x.q
  match atOnce x.q x.words with
  | some code => complete x.q index code 0
  | none => do serveUnknown (← get).callsStarted

/-- The rings and headers of mapped queues that have commands. -/
def State.ringPlaces (s : State) : List Nat :=
  s.slots.flatMap fun p =>
    match s.openQueue p.2 with
    | some e => if e.tail = e.head then [] else [e.header, (s.headerAt e.header).base]
    | none => []

/-- LOTTERY_DRAW: one draw among the eligible slots (R364). -/
def drawOp : Op Unit := do
  let s ← get
  placesReady s.ringPlaces
  let xs := s.eligible
  if !xs.isEmpty then
    let g := lotteryNext s.lottery
    set { s.frontSeen with lottery := g }
    match drawFrom (lotteryValue g * (xs.map Eligible.tickets).sum / 2 ^ 32) xs with
    | some x => startCommand x
    | none => pure ()

/-- LOTTERY_DRAW. -/
def execLotteryDraw (s : State) := event (frontEnd drawOp) s

/-- The step of started command arg.i of queue arg.queue, an op n: its action, which may complete it with a code; or, once it
has completed, its status store. -/
def commandStep (n : Nat) (act : QueueRef → Queue → Started → Op (Option Nat)) : Op Unit := do
  let s ← get
  let q := s.arg.queue
  match s.startedOf q s.arg.i with
  | none => pure ()
  | some (e, c) =>
    match c.status with
    | some _ => finishStarted q c.index
    | none =>
      if cmdOp c.words = n then
        match ← act q e c with
        | some code => complete q c.index code 0
        | none => pure ()

/-- LAUNCH: a completion record in the local window breaks a limit of BLOCK (R195). It completes with LAUNCH_COMPLETION. -/
def launchAct (q : QueueRef) (e : Queue) (c : Started) : Op (Option Nat) := do
  let s ← get
  let id := s.queueCtx e
  if c.acted then pure none
  else if (s.live? id).isNone then pure (some stProt)
  else if inLocal (cmdWord c.words 5) then pure (some stBlock)
  else
    match parseLaunch (((List.range 5).map fun i => cmdWord c.words (i + 1)) ++ [0, 0, 0]) none with
    | .error st => pure (some (if st = launchRect then stRect else stBlock))
    | .ok b => do
      modify fun s =>
        (s.modCtx id fun k => k.startLaunch { b with command := some (q, c.index) }).modStarted q c.index
          fun c => { c with acted := true }
      pure none

/-- QUEUE_LAUNCH. -/
def execQueueLaunch (s : State) := event (commandStep 1 launchAct) s

/-- A record appended to a feed (R59, R362): whether it met poison. -/
def feedAppend (id n va : Nat) : Op Bool := do
  if va % 64 ≠ 0 then raiseAt codeProt va
  let w : Who := .core id 0
  commandAddr w va
  let c ← theCtx id
  physReady c.desc
  let (bs, met) ← readRange w va 64
  let f := (← get).feed c n
  writeRange w (f.slot f.put) bs
  modify (·.setFeed id c n { f with put := (f.put + 1) % 2 ^ 32 })
  pure met

/-- Whether an earlier FEED of the same queue to the same feed has still to be appended: they are appended in order (R366). -/
def Queue.feedBefore (e : Queue) (c : Started) (n : Nat) : Bool :=
  (e.started.takeWhile fun d => decide (d.index ≠ c.index)).any fun d => d.feeds n

/-- FEED: a feed of lcap 0 is PROT. A command with nb and no room completes with ROOM; one without waits. -/
def feedAct (_ : QueueRef) (e : Queue) (c : Started) : Op (Option Nat) := do
  let s ← get
  let id := s.queueCtx e
  let n := cmdWord c.words 2 % 16
  match s.live? id with
  | none => pure (some stProt)
  | some k =>
    let f := s.feed k n
    if f.lcap = 0 then pure (some stProt)
    else if e.feedBefore c n then pure none
    else if f.room = 0 then pure (if cmdNb c.words then some stRoom else none)
    else
      match ← device id (feedAppend id n (cmdWord c.words 1)) with
      | .later => pure none
      | .failed _ _ => pure (some stProt)
      | .done met => do
        if met then modify (·.countPoison id 0)
        serveFeed id n (k.waits.length + 1)
        pure (some stDone366)

/-- QUEUE_FEED. -/
def execQueueFeed (s : State) := event (commandStep 2 feedAct) s

/-- A stitch counter changed. -/
def State.setStitch (s : State) (id n : Nat) (t : Stitch) : State :=
  s.modCtx id fun c => { c with stitches := assocPut c.stitches n t }

/-- STITCH.SIG, once every earlier command of its queue has completed. -/
def sigAct (q : QueueRef) (e : Queue) (c : Started) : Op (Option Nat) := do
  let s ← get
  let id := s.queueCtx e
  let n := cmdWord c.words 1
  if !stitchLimits c.words then pure (some stOp)
  else
    match (s.live? id).bind fun k => stitchOf k n Stitch.sig q with
    | none => pure (some stProt)
    | some t => do
      set (s.setStitch id n { t with count := Nat.min (t.count + cmdWord c.words 2) (2 ^ 32 - 1) })
      pure (some stDone366)

/-- STITCH_SIG. -/
def execStitchSig (s : State) := event (commandStep 3 sigAct) s

/-- STITCH.WAIT: starts with enough tokens, which it takes. -/
def waitAct (q : QueueRef) (e : Queue) (c : Started) : Op (Option Nat) := do
  let s ← get
  let id := s.queueCtx e
  let n := cmdWord c.words 1
  if !stitchLimits c.words then pure (some stOp)
  else
    match (s.live? id).bind fun k => stitchOf k n Stitch.wait q with
    | none => pure (some stProt)
    | some t =>
      if t.count < cmdWord c.words 2 then pure none
      else do
        set (s.setStitch id n { t with count := t.count - cmdWord c.words 2 })
        pure (some stDone366)

/-- STITCH_WAIT. -/
def execStitchWait (s : State) := event (commandStep 4 waitAct) s

/-- QFENCE. -/
def execQfence (s : State) := event (commandStep 5 fun _ _ _ => pure (some stDone366)) s

/-- The store of a WRITE: misaligned or not writable is PROT. -/
def writeStep (w : Who) (va size : Nat) (v : Nat) : Op Unit := do
  if va % 2 ^ size ≠ 0 then raiseAt codeProt va
  commandAddr w va
  writeRange w va (natToBytes (2 ^ size) v)

/-- WRITE: a size above 3 is OP. -/
def writeAct (q : QueueRef) (e : Queue) (c : Started) : Op (Option Nat) := do
  let s ← get
  let size := cmdWord c.words 3
  if 3 < size then pure (some stOp)
  else
    match ← device (s.queueCtx e) (writeStep (s.queueWho q e) (cmdWord c.words 1) size (cmdWord c.words 2)) with
    | .later => pure none
    | .failed _ _ => pure (some stProt)
    | .done _ => pure (some stDone366)

/-- WRITE. -/
def execWrite (s : State) := event (commandStep 6 writeAct) s

end Sys2Proof.Machine
end

