-- ==== Sys2Proof/Machine/Firmware.lean ====
section
/-! DEFINITION. The functions of FWCALL, which hub firmware serves one at a time in the order in which they start (R339, R360,
R365, R367, R375, R376). -/

namespace Sys2Proof.Machine

/-- Argument i of a FWCALL: command words 2 to 6. -/
def callArg (w : List Word) (i : Nat) : Nat := cmdWord w (i + 2)

/-- Details of R367. -/
def detField : Nat := 1
def detRt : Nat := 2
def detId : Nat := 3
def detCtx : Nat := 4
def detFrame : Nat := 5
def detUsed : Nat := 6
def detStore : Nat := 7

/-- Serves the oldest FWCALL when its function is n. The action answers none while the call goes on, 0 when it is done, or the
detail of its failure. -/
def serve (n : Nat) (act : List Word → Op (Option Nat)) : Op Unit := do
  let s ← get
  if s.fwRuns then
    match s.oldestCall with
    | none => pure ()
    | some c =>
      if cmdWord c.words 1 = n then
        match ← act c.words with
        | none => pure ()
        | some d => do
          complete .driver c.index (if d = 0 then stDone366 else stFwerr) d
          serveUnknown (← get).callsStarted
          remap

/-- A call of a context that must exist. -/
def withCtx (w : List Word) (act : Nat → Ctx → Op (Option Nat)) : Op (Option Nat) := do
  match (← get).live? (callArg w 0) with
  | none => pure (some detCtx)
  | some c => act (callArg w 0) c

/-! ## CREATE (R360, R375) -/

/-- Whether a key slot is unused and not awaiting scrub (R375). -/
def State.keyFree (s : State) (k : Nat) : Bool :=
  (assocGet s.keys k).isNone && !(s.scrub.any fun e => decide (e.slot = k))

/-- A context created: resident where there is a place, on the SI, with its triggers armed and its key drawn. -/
def placeCtx (id : Nat) (c : Ctx) : Op Unit := do
  modify fun s =>
    let s := { s with
      ctxs := assocPut s.ctxs id c
      featLock := true
      ticks := s.ticks + 1
      keys := if c.pk then assocPut s.keys c.keySlot (Config.randomKey s.free) else s.keys
      free := s.free + 1 }
    trigIndexes.foldl (fun s e => s.armTrigger id e) s
  match (← get).residentRoom with
  | some s' => do
    set s'
    makeResident id
  | none => wakeNow ⟨.si, 0, id, 0⟩

/-- CREATE. -/
def createAct (w : List Word) : Op (Option Nat) := do
  let pa := callArg w 0
  if pa % 512 ≠ 0 ∨ Config.hostBase ≤ pa ∨ !memExists pa then pure (some detField)
  else do
    placesReady (pa :: (← get).roomPlaces)
    let s ← get
    let id := bits (s.physNat pa 8) 63 52
    if (s.ctx? id).isSome ∨ s.scrub.any fun e => decide (e.ctx = id) then pure (some detId)
    else
      match s.describe pa with
      | none => pure (some detField)
      | some c =>
        if c.pk && !s.keyFree c.keySlot then pure (some detField)
        else do
          placeCtx id c
          pure (some 0)

/-- CREATE. -/
def execCreate (s : State) := event (frontEnd (serve 1 createAct)) s

/-! ## DESTROY (R376) -/

/-- Whether a slot still ends a KVA of a context (R324), or an engine, or a command under way to one, still has work of it (R323). -/
def State.engineWork (s : State) (id : Nat) : Bool :=
  s.copies.any (fun k => decide (k.ctx = id)) || (s.engines.any fun q => q.2.any fun j => decide (j.ctx = id)) || s.remotes.any fun r => decide (r.ctx = id)

/-- The SCRB word for the head of the scrub list in a phase (R377). -/
def scrbWord (list : List ScrubEntry) (phase left : Nat) : Word :=
  match list with
  | [] => 0
  | e :: _ => BitVec.ofNat 64 (e.ctx * 2 ^ 52 + phase * 2 ^ 44 + list.length * 2 ^ 32 + left)

/-- A queue whose context is gone: launch commands that can no longer complete end with PROT (DEDUCED log 33). -/
def Queue.orphan (e : Queue) : Queue :=
  { e with started := e.started.map fun (c : Started) =>
      if c.acted && c.status.isNone then { c with status := some (commandWord c.index stProt 0) } else c }

/-- The queues, with those of a context orphaned. -/
def State.orphaned (s : State) (id : Nat) : List (QueueRef × Queue) :=
  s.queues.map fun (p : QueueRef × Queue) => if p.1 ≠ .driver ∧ s.queueCtx p.2 = id then (p.1, p.2.orphan) else p

/-- Everything the package holds for a context outside its own record, forgotten: nothing of it is seen by a later one
(R343, R376). -/
def State.forget (s : State) (id : Nat) : State :=
  let s := (s.frontSeen.zeroStashes id (List.range 512)).zeroTiles id (List.range 64)
  let theirs (p : Partial) : Bool := decide (p.ctx = id)
  { s with
    ctxs := assocDel s.ctxs id
    tlb := s.tlb.filter fun t => decide (t.ctx ≠ id)
    halves := s.halves.filter fun h => decide (h.ctx ≠ id)
    msgs := s.msgs.filter fun m => decide (m.ctx ≠ id)
    trans := s.trans.filter fun t => decide (t.ctx ≠ id)
    dieFlight := s.dieFlight.filter fun e => decide (e.ctx ≠ id)
    dieQ := s.dieQ.filter fun e => decide (e.ctx ≠ id)
    logits := s.logits.filter fun r => decide (r.ctx ≠ id)
    pages := s.pages.filter fun p => decide (p.ctx ≠ id)
    pendRes := s.pendRes.filter fun p => decide (p.ctx ≠ id)
    sysc := s.sysc.filter fun q => decide (q.ctx ≠ id)
    halted := s.halted.filter fun d => decide (d.1 ≠ id)
    held := s.held.filter fun h => decide (h.2.ctx ≠ id)
    heldEntries := s.heldEntries.filter fun r => decide (r.ctx ≠ id)
    dirtyMaps := s.dirtyMaps.filter fun d => decide (d.ctx ≠ id)
    gathers := s.gathers.filter fun g => !g.parts.any theirs
    migQueue := s.migQueue.filter fun n => decide (n ≠ id)
    copies := s.copies.filter fun k => decide (k.ctx ≠ id)
    causes := s.causes.map fun (w : WakeCause) => if w.ctx = id then { w with record := 0 } else w
    store := s.store.filter fun p =>
      match p.2 with
      | .page c _ | .stash c _ | .tile c _ => decide (c ≠ id)
    queues := s.orphaned id }

/-- DESTROY: pre-empted, and gone once its engine entries have drained. The dirty logs are merged first, so that nothing of a dead
context is left in them (R314). A protected context's key is zeroised and its id stays in use until the scrub is done. -/
def destroyAct (w : List Word) : Op (Option Nat) :=
  withCtx w fun id c => do
    modify (·.preemptCtx id true)
    let s ← get
    if s.engineWork id then pure none
    else
      let s := s.harvest
      if c.pk then do
        let list := s.scrub ++ [(⟨id, c.ptroot, c.keySlot⟩ : ScrubEntry)]
        let s := { s with
          keys := assocDel s.keys c.keySlot
          scrub := list
          scrb := if s.scrub.isEmpty then scrbWord list 1 0 else s.scrb + 2 ^ 32
          migQueue := s.migQueue.filter fun n => decide (n ≠ id)
          queues := s.orphaned id }
        set (s.modCtx id fun c => { c with dead := true, onBi := false, migrating := false, reports := [] })
        pure (some 0)
      else do
        set (s.forget id)
        pure (some 0)

/-- DESTROY. -/
def execDestroy (s : State) := event (serve 2 destroyAct) s

/-! ## PREEMPT and RESIDE (R323, R365) -/

/-- PREEMPT: it is done once the context's engine entries have run to completion. -/
def preemptAct (w : List Word) : Op (Option Nat) :=
  withCtx w fun id _ => do
    modify (·.preemptCtx id true)
    pure (if (← get).engineWork id then none else some 0)

/-- PREEMPT. -/
def execPreempt (s : State) := event (serve 3 preemptAct) s

/-- RESIDE: it waits while every resident context has a mapped queue. -/
def resideAct (w : List Word) : Op (Option Nat) :=
  withCtx w fun id c =>
    if c.resident then pure (some 0)
    else do
      placesReady (c.desc :: (← get).roomPlaces)
      match (← get).residentRoom with
      | none => pure none
      | some s' => do
        set s'
        makeResident id
        pure (some 0)

/-- RESIDE. -/
def execReside (s : State) := event (frontEnd (serve 4 resideAct)) s

/-! ## FATE (R317) -/

/-- The context and frame at a frame address that wait for their fate (DEDUCED log 34). -/
def State.fateFrame (s : State) (addr : Nat) : Option (Nat × Frame) :=
  s.ctxs.findSome? fun p =>
    (p.2.frames.find? fun fr => decide (fr.addr = addr) && decide (fr.status = .host)).map fun fr => (p.1, fr)

/-- A discarded task: its record becomes DONE without a release, and a ch1 chain ends (R46, R317). -/
def State.discardTask (s : State) (id : Nat) (fr : Frame) : State :=
  let s := s.modCtx id fun c => { c with frames := c.frames.filter fun f => decide (f.addr ≠ fr.addr) }
  ((s.transition fr.task 7).initialEnded fr.task).openCh1 fr.task

/-- FATE: a fate above 2 is detail 1; a frame that no task waits in is detail 5. A task resumed after its instruction has its frame written
again, whose pc it changes (R319). -/
def fateAct (w : List Word) : Op (Option Nat) := do
  let fate := callArg w 1
  let s ← get
  if 2 < fate then pure (some detField)
  else
    match s.fateFrame (callArg w 0) with
    | none => pure (some detFrame)
    | some (id, fr) => do
      let past (f : Frame) : Frame := { f with
        task := { f.task with pc := f.task.pc + BitVec.ofNat 64 f.len }, placed := false }
      set (if fate = 2 then s.discardTask id fr
        else if fate = 1 then (s.modFrame id fr.addr past).requeue id fr.addr
        else s.requeue id fr.addr)
      pure (some 0)

/-- FATE. -/
def execFate (s : State) := event (serve 5 fateAct) s

/-! ## QBIND, QUNBIND and STITCH -/

/-- QBIND. -/
def qbindAct (w : List Word) : Op (Option Nat) := do
  let n := callArg w 0
  let a := callArg w 1
  if 4095 < n ∨ a % 64 ≠ 0 ∨ 2 ^ 48 ≤ a ∨ !memExists a then pure (some detField)
  else do
    physReady a
    let s ← get
    let h := s.headerAt a
    if !lcapOk h.lcap then pure (some detField)
    else if (s.openQueue (.user n)).isSome then pure (some detUsed)
    else if (s.live? h.ctx).isNone then pure (some detCtx)
    else if h.rt ∧ 64 ≤ s.rtQueues then pure (some detRt)
    else do
      set ((s.bindQueue (.user n) a h.rt).noteDepth (.user n))
      pure (some 0)

/-- QBIND. -/
def execQbind (s : State) := event (frontEnd (serve 6 qbindAct)) s

/-- A user queue unbound: its slot is free. -/
def State.unbindQueue (s : State) (q : QueueRef) : State :=
  State.noteDepth { s.frontSeen with
    queues := assocDel s.queues q
    slots := s.slots.filter fun p => decide (p.2 ≠ q)
    mapWait := s.mapWait.filter fun r => decide (r ≠ q) } q

/-- QUNBIND: no further command starts, and it is done once the started ones are. A queue that is not bound is left so
(DEDUCED log 34). -/
def qunbindAct (w : List Word) : Op (Option Nat) := do
  let n := callArg w 0
  if 4095 < n then pure (some detField)
  else do
    let s ← get
    match s.openQueue (.user n) with
    | none => pure (some 0)
    | some e =>
      if e.started.isEmpty then do
        set (s.unbindQueue (.user n))
        pure (some 0)
      else do
        set { s with queues := assocPut s.queues (.user n) { e with closing := true } }
        pure none

/-- QUNBIND. -/
def execQunbind (s : State) := event (serve 7 qunbindAct) s

/-- The existing context of a bound user queue. -/
def State.ctxOfQueue (s : State) (n : Nat) : Option Nat :=
  match s.openQueue (.user n) with
  | none => none
  | some e => if (s.live? (s.queueCtx e)).isSome then some (s.queueCtx e) else none

/-- STITCH: both queues are bound in one context, else detail 6; the counter becomes 0. -/
def stitchAct (w : List Word) : Op (Option Nat) := do
  let n := callArg w 0
  let a := callArg w 1
  let b := callArg w 2
  if 255 < n ∨ 4095 < a ∨ 4095 < b then pure (some detField)
  else do
    let s ← get
    match s.ctxOfQueue a with
    | none => pure (some detUsed)
    | some id =>
      if s.ctxOfQueue b = some id then do
        set (s.setStitch id n ⟨a, b, 0⟩)
        pure (some 0)
      else pure (some detUsed)

/-- STITCH. -/
def execStitch (s : State) := event (serve 8 stitchAct) s

/-! ## PAGERES (R339) -/

/-- The DRAM frame to which a page is released: a frame of 64 KiB that firmware chooses, arg.word. -/
def State.releaseFrame (s : State) : Option Nat :=
  let pa := s.arg.word.toNat
  if pa % 2 ^ 16 = 0 ∧ pa < Config.dramBytes then some pa else none

/-- PAGERES on a page mapped as it must be; one that would move a pinned page fails with detail 1 (R315, DESIGN CHOICE log 62). -/
def pageresMove (id : Nat) (c : Ctx) (va pte at_ flag : Nat) : Op (Option Nat) := do
  let s ← get
  let pinned := bitOf pte 8
  match storePage (leafBase pte false), flag with
  | none, 1 =>
    match s.freeStore with
    | [] => pure (some detStore)
    | n :: _ =>
      if pinned then pure (some detField)
      else do
        physReady (leafBase pte false)
        set (s.movePage id c va pte false at_ (storePa n))
        pure (some 0)
  | some _, 0 =>
    match s.releaseFrame with
    | none => pure none
    | some pa =>
      if pinned then pure (some detField)
      else do
        physReady pa
        set (s.movePage id c va pte false at_ pa)
        pure (some 0)
  | _, _ => pure (some 0)

/-- PAGERES: the page must be mapped by a 64 KiB leaf of the context's own. -/
def pageresAct (w : List Word) : Op (Option Nat) :=
  withCtx w fun id c => do
    let va := callArg w 1
    let flag := callArg w 2
    if 1 < flag ∨ 2 ^ 48 ≤ va then pure (some detField)
    else
      match walk (← get).mem c.ptroot va with
      | some (pte, false, at_) =>
        if bits pte 57 46 = id then pageresMove id c va pte at_ flag else pure (some detField)
      | _ => pure (some detField)

/-- PAGERES. -/
def execPageres (s : State) := event (frontEnd (serve 9 pageresAct)) s

/-! ## POWER, TRIGGER and EPOCH -/

/-- POWER: the cap and the idle interval (R349). -/
def powerAct (w : List Word) : Op (Option Nat) :=
  let cap := callArg w 0
  let idle := callArg w 1
  if 45000 < cap ∨ idle = 0 ∨ 2 ^ 20 < idle then pure (some detField)
  else do
    modify fun s => { s with power := { s.power with cap := cap, idle := idle } }
    pure (some 0)

/-- POWER. -/
def execPower (s : State) := event (serve 10 powerAct) s

/-- TRIGGER: an entry is armed again (R335). -/
def triggerAct (w : List Word) : Op (Option Nat) :=
  withCtx w fun id _ =>
    if 3 < callArg w 1 then pure (some detField)
    else do
      modify (·.armTrigger id (callArg w 1))
      pure (some 0)

/-- TRIGGER. -/
def execTrigger (s : State) := event (serve 11 triggerAct) s

/-- EPOCH: capabilities of other epochs are revoked (R247). -/
def epochAct (w : List Word) : Op (Option Nat) :=
  withCtx w fun id c =>
    if 255 < callArg w 1 then pure (some detField)
    else do
      physReady c.desc
      modify fun s =>
        (s.physWrite (c.desc + 0x30) [BitVec.ofNat 8 (callArg w 1)]).modCtx id fun c => { c with epoch := callArg w 1 }
      pure (some 0)

/-- EPOCH. -/
def execEpoch (s : State) := event (frontEnd (serve 12 epochAct)) s

end Sys2Proof.Machine
end

