-- ==== Sys2Proof/Machine/Generation.lean ====
section
/-! DEFINITION. Die queues, logit queues, the draft lattice and token rings as instructions (R294 to R306). -/

namespace Sys2Proof.Machine

/-! ## Die queues -/

/-- The die of the issuing core, which must be a burst die (R298). -/
def burstDie : Op Nat := do
  let d := coreDie (← get).cur.core
  require (decide (d ≠ 0)) codeProt
  pure d

/-- DQS (R295). -/
def dqsOp (d : Reg) (xa xb : Nat) : Op Unit := do
  let die ← burstDie
  let fl := bitOf xa 0
  checkField xa 5 1
  require (fl || decide (bits xb 63 32 = 0)) codeProt
  let bs ← loadBytes (bits xa 47 6 * 64) 256
  let s ← get
  let id := s.act.ctx
  if Config.dieDepth ≤ s.dieCount (dieOut die) then wrX d 1
  else do
    let e : DieEntry := ⟨dieOut die, id, bits xb 31 0, bs⟩
    set { s with dieFlight := s.dieFlight ++ [e] }
    wrX d 0
    if fl then
      modMyCtx fun c => { c with floors := assocPut c.floors (dieIn die) (bits xb 63 32) }
      modify (·.dieFlush id (dieIn die))

/-- DQS. -/
def execDqs (d a b : Reg) (s : State) := finish (dqsOp d (s.x a).toNat (s.x b).toNat) s

/-- DQR (R296). -/
def dqrOp (d : Reg) (xa : Nat) : Op Unit := do
  let die ← burstDie
  checkField xa 5 0
  let buf := bits xa 47 6 * 64
  checkBuffer buf 256
  let s ← get
  let id := s.act.ctx
  modify (·.dieFlush id (dieIn die))
  let s ← get
  let c ← myCtx
  match (if c.waiting (onDie (dieIn die)) then none else s.dieTake id (dieIn die)) with
  | none => wrX d (BitVec.allOnes 64)
  | some (v, bs, s') => do
    set s'
    storeBytes buf bs
    wrX d v

/-- DQR. -/
def execDqr (d a : Reg) (s : State) := finish (dqrOp d (s.x a).toNat) s

/-! ## Logit queues -/

/-- Whether a row descriptor meets R302. -/
def logitOk (w : List Nat) : Bool :=
  let g (i : Nat) : Nat := (w[i]?).getD 0
  let v := bits (g 1) 31 0
  let ty := bits (g 1) 33 32
  let p := bits (g 2) 63 32
  let t := bits (g 2) 31 0
  decide (g 0 < 2 ^ 48) && decide (g 0 % (if ty = 0 then 4 else 2) = 0) && decide (bits (g 1) 63 48 = 0)
    && decide (bits (g 1) 35 34 = 0) && decide (ty ≠ 3) && decide (1 ≤ v) && decide (v ≤ 2 ^ 24)
    && decide (p ≤ 0x3F800000) && decide (t < 0x7F800000)

/-- LQP (R303). -/
def lqpOp (d : Reg) (xa : Nat) : Op Unit := do
  if xa % 32 ≠ 0 then raiseAt codeAlign xa
  require (decide (xa < 2 ^ 48)) codeProt
  let w := wordsOf 4 (← loadBytes xa 32)
  require (logitOk w) codeProt
  let s ← get
  require (s.feature 1 || decide (bits ((w[2]?).getD 0) 63 32 = 0)) codeIll
  let id := s.act.ctx
  let l := s.act.lcore
  let q := coreDie s.cur.core
  let c ← myCtx
  if Config.dieDepth ≤ s.logitCount q then wrX d (BitVec.allOnes 64)
  else do
    let g := ((s.lcore id l).genState l).next
    let k := tableGet c.posts q
    let row : LogitRow := ⟨q, id, w.map (BitVec.ofNat 64), g.output.extractLsb' 0 64, l, s.cur.idx, k⟩
    modMyCore fun lc => { lc with gen := some g }
    modMyCtx fun c => { c with posts := assocPut c.posts q ((k + 1) % 2 ^ 32) }
    modify fun s => { s with logits := s.logits ++ [row] }.serveLogit id q (c.waits.length + 1)
    wrX d (BitVec.ofNat 64 k)

/-- LQP. -/
def execLqp (d a : Reg) (s : State) := finish (lqpOp d (s.x a).toNat) s

/-- LQC (R304). -/
def lqcOp (d : Reg) (xa : Nat) : Op Unit := do
  checkField xa 5 0
  let buf := bits xa 47 6 * 64
  checkBuffer buf 64
  let s ← get
  let q := coreDie s.cur.core
  let c ← myCtx
  match (if c.waiting (onLogit q) then none else s.logitTake s.act.ctx q) with
  | none => wrX d (BitVec.allOnes 64)
  | some (v, bs, s') => do
    set s'
    storeBytes buf bs
    wrX d v

/-- LQC. -/
def execLqc (d a : Reg) (s : State) := finish (lqcOp d (s.x a).toNat) s

/-! ## The draft lattice -/

/-- A node of a lattice (R299). -/
structure LatNode where
  p1 : Nat
  p0 : Nat
  token : Nat
  deriving DecidableEq, Repr

/-- Node i from its word; none when a condition of R299 is broken. -/
def LatNode.ofWord (i w : Nat) : Option LatNode :=
  let p1 := bits w 47 40
  let p0 := bits w 39 32
  if bits w 63 48 = 0 ∧ (p0 < i ∨ p0 = 0xFF) ∧ (p1 < i ∨ p1 = 0xFF) ∧ (p0 = 0xFF → p1 = 0xFF)
    ∧ (p1 ≠ p0 ∨ (p1 = 0xFF ∧ p0 = 0xFF)) then some ⟨p1, p0, bits w 31 0⟩ else none

/-- Every node of a lattice, none when one is not allowed. -/
def latNodes (i : Nat) : List Nat → Option (List LatNode)
  | [] => some []
  | w :: rest =>
    match LatNode.ofWord i w, latNodes (i + 1) rest with
    | some n, some ns => some (n :: ns)
    | _, _ => none

/-- A query row (R300). -/
structure LatRow where
  node : Nat
  parent : Option Nat
  depth : Nat
  token : Nat
  anc : Nat
  deriving DecidableEq, Repr

/-- add_row (R300): the rows and whether one was dropped. -/
def addRow (i token : Nat) (q : Option Nat) (st : List LatRow × Bool) : List LatRow × Bool :=
  let n := st.1.length
  if 64 ≤ n then (st.1, true)
  else
    let up := q.bind fun k => st.1[k]?
    let row : LatRow := match up with
      | none => ⟨i, none, 0, token, 2 ^ n⟩
      | some u => ⟨i, q, u.depth + 1, token, u.anc + 2 ^ n⟩
    (st.1 ++ [row], st.2)

/-- The rows of a node, ascending. -/
def rowsOf (rows : List LatRow) (p : Nat) : List Nat :=
  (List.range rows.length).filter fun q => decide ((rows[q]?).map LatRow.node = some p)

/-- The expansion (R300). -/
def expand (i : Nat) (st : List LatRow × Bool) : List LatNode → List LatRow × Bool
  | [] => st
  | n :: rest =>
    let st' :=
      if n.p0 = 0xFF then addRow i n.token none st
      else
        let qs := rowsOf st.1 n.p0 ++ (if n.p1 = 0xFF then [] else rowsOf st.1 n.p1)
        qs.foldl (fun acc q => addRow i n.token (some q) acc) st
    expand (i + 1) st' rest

/-- The word of a row in the row table (R300). -/
def LatRow.word (r : LatRow) : Nat := r.token + r.node * 2 ^ 32 + r.depth * 2 ^ 40 + r.parent.getD 0xFF * 2 ^ 48

/-- The 1024 bytes of output (R300). -/
def latticeBytes (rows : List LatRow) : List Byte :=
  let pad := List.replicate (8 * (64 - rows.length)) 0
  rows.flatMap (fun r => natToBytes 8 r.anc) ++ pad ++ rows.flatMap (fun r => natToBytes 8 r.word) ++ pad

/-- LATX (R300). -/
def latxOp (d : Reg) (xa xb : Nat) : Op Unit := do
  if xb % 64 ≠ 0 then raiseAt codeAlign xb
  if xa % 8 ≠ 0 then raiseAt codeAlign xa
  require (decide (xa < 2 ^ 48) && decide (xb < 2 ^ 48)) codeProt
  let h ← loadNat xa 8
  require (decide (1 ≤ h) && decide (h ≤ 64)) codeProt
  let ws := wordsOf h (← loadBytes (xa + 8) (8 * h))
  match latNodes 0 ws with
  | none => raise codeProt
  | some ns => do
    let (rows, trunc) := expand 0 ([], false) ns
    storeBytes xb (latticeBytes rows)
    wrX d (BitVec.ofNat 64 ((if trunc then 2 ^ 63 else 0) + rows.length))

/-- LATX. -/
def execLatx (d a b : Reg) (s : State) := finish (latxOp d (s.x a).toNat (s.x b).toNat) s

/-! ## Token rings -/

/-- Checks that a word can be stored at each of some addresses, in the order given. -/
def checkStores (n : Nat) : List Nat → Op Unit
  | [] => pure ()
  | va :: rest => do
    checkBuffer va n
    checkStores n rest

/-- Stores words at addresses. -/
def storeEach (n : Nat) : List (Nat × Nat) → Op Unit
  | [] => pure ()
  | (va, v) :: rest => do
    storeBytes va (natToBytes n v)
    storeEach n rest

/-- Counts published tokens for the TRATE entries of a context (R335). -/
def State.countTokens (s : State) (id n : Nat) : State :=
  trigIndexes.foldl (fun s e => s.modCtx id fun c => c.modTrigger e fun t => { t with tokens := t.tokens + n }) s

/-- TRPUB (R306). -/
def trpubOp (xa xb : Nat) : Op Unit := do
  if xa % 64 ≠ 0 then raiseAt codeAlign xa
  if xb % 8 ≠ 0 then raiseAt codeAlign xb
  let n ← loadNat xb 8
  require (decide (1 ≤ n) && decide (n ≤ 64)) codeProt
  let toks ← loadBytes (xb + 8) (4 * n)
  let s ← get
  let w := wordsOf 4 (← slotNode (soundRead s.who .atomic xa 64))
  let g (i : Nat) : Nat := (w[i]?).getD 0
  let lcap := bits (g 2) 52 48
  let base := bits (g 2) 47 0
  require (decide (bits (g 2) 63 53 = 0) && decide (4 ≤ lcap) && decide (lcap ≤ 20) && decide (base % 4 = 0)) codeProt
  let at_ := (List.range n).map fun i => base + 4 * ((g 0 + i) % 2 ^ lcap)
  checkStores 4 ((byAddress (at_.map fun va => (0, va))).map Prod.snd)
  if 2 ^ lcap < (g 0 + n + 2 ^ 64 - g 1) % 2 ^ 64 then do
    storeBytes (xa + 24) (natToBytes 8 ((g 3 + 1) % 2 ^ 64))
    setMyErr errTr
  else do
    storeEach 4 (at_.zip ((List.range n).map fun i => bytesToNat ((toks.drop (4 * i)).take 4)))
    storeBytes xa (natToBytes 8 ((g 0 + n) % 2 ^ 64))
    modify (·.countTokens s.act.ctx n)

/-- TRPUB. -/
def execTrpub (a b : Reg) (s : State) := finish (trpubOp (s.x a).toNat (s.x b).toNat) s

end Sys2Proof.Machine
end

