-- ==== Sys2Proof/Machine/LoadStore.lean ====
section
/-! DEFINITION. Scalar loads, stores and prefetch (R157 to R160). -/

namespace Sys2Proof.Machine

/-- Loads and writes the destination (R158). -/
def loadTo (z : LoadSize) (d : Reg) (va : Nat) : Op Unit := do
  let v ← loadNat va (loadBytesOf z)
  wrX d (loadValue z v)

/-- Stores the low bytes of a register (R158). -/
def storeFrom (z : StoreSize) (r : Reg) (va : Nat) : Op Unit := do
  let s ← get
  storeBytes va (natToBytes (storeBytesOf z) (s.x r).toNat)

/-- LD (R158). -/
def execLd (z : LoadSize) (d a : Reg) (off : BitVec 12) (s : State) := finish (loadTo z d (s.eaM a off)) s

/-- LDX (R158). -/
def execLdx (z : LoadSize) (d a b : Reg) (s : State) := finish (loadTo z d (s.eaX a b)) s

/-- ST, of the register in the d field (R158). -/
def execSt (z : StoreSize) (d a : Reg) (off : BitVec 12) (s : State) := finish (storeFrom z d (s.eaM a off)) s

/-- STX, of the register in the d field (R158). -/
def execStx (z : StoreSize) (d a b : Reg) (s : State) := finish (storeFrom z d (s.eaX a b)) s

/-- LDQ (R159). -/
def execLdq (d a : Reg) (off : BitVec 12) (s : State) :=
  finish (do
    let v ← loadNat (s.eaM a off) 16
    wrX d (BitVec.ofNat 64 v)
    wrX (pairOf d) (BitVec.ofNat 64 (v / 2 ^ 64))) s

/-- STQ (R159). -/
def execStq (d a : Reg) (off : BitVec 12) (s : State) :=
  finish (storeBytes (s.eaM a off) (natToBytes 8 (s.x d).toNat ++ natToBytes 8 (s.x (pairOf d)).toNat)) s

/-- PF: it changes no value that any party can read, and never faults (R160). -/
def execPf (_a _b : Reg) (s : State) := update id s

end Sys2Proof.Machine
end

