-- ==== Sys2Proof/Machine/Sign.lean ====
section
/-! DEFINITION. The signature of a firmware image (R369): the SHA-384 digest (FIPS 180-4) and the verification of an ECDSA signature over
the curve P-384 (FIPS 186-5). -/

namespace Sys2Proof.Machine

/-! ## SHA-384 -/

/-- The constants of SHA-384. -/
def shaK : List Word :=
  [0x428A2F98D728AE22, 0x7137449123EF65CD, 0xB5C0FBCFEC4D3B2F, 0xE9B5DBA58189DBBC, 0x3956C25BF348B538,
    0x59F111F1B605D019, 0x923F82A4AF194F9B, 0xAB1C5ED5DA6D8118, 0xD807AA98A3030242, 0x12835B0145706FBE,
    0x243185BE4EE4B28C, 0x550C7DC3D5FFB4E2, 0x72BE5D74F27B896F, 0x80DEB1FE3B1696B1, 0x9BDC06A725C71235,
    0xC19BF174CF692694, 0xE49B69C19EF14AD2, 0xEFBE4786384F25E3, 0x0FC19DC68B8CD5B5, 0x240CA1CC77AC9C65] ++
  [0x2DE92C6F592B0275, 0x4A7484AA6EA6E483, 0x5CB0A9DCBD41FBD4, 0x76F988DA831153B5, 0x983E5152EE66DFAB,
    0xA831C66D2DB43210, 0xB00327C898FB213F, 0xBF597FC7BEEF0EE4, 0xC6E00BF33DA88FC2, 0xD5A79147930AA725,
    0x06CA6351E003826F, 0x142929670A0E6E70, 0x27B70A8546D22FFC, 0x2E1B21385C26C926, 0x4D2C6DFC5AC42AED,
    0x53380D139D95B3DF, 0x650A73548BAF63DE, 0x766A0ABB3C77B2A8, 0x81C2C92E47EDAEE6, 0x92722C851482353B] ++
  [0xA2BFE8A14CF10364, 0xA81A664BBC423001, 0xC24B8B70D0F89791, 0xC76C51A30654BE30, 0xD192E819D6EF5218,
    0xD69906245565A910, 0xF40E35855771202A, 0x106AA07032BBD1B8, 0x19A4C116B8D2D0C8, 0x1E376C085141AB53,
    0x2748774CDF8EEB99, 0x34B0BCB5E19B48A8, 0x391C0CB3C5C95A63, 0x4ED8AA4AE3418ACB, 0x5B9CCA4F7763E373,
    0x682E6FF3D6B2B8A3, 0x748F82EE5DEFB2FC, 0x78A5636F43172F60, 0x84C87814A1F0AB72, 0x8CC702081A6439EC] ++
  [0x90BEFFFA23631E28, 0xA4506CEBDE82BDE9, 0xBEF9A3F7B2C67915, 0xC67178F2E372532B, 0xCA273ECEEA26619C,
    0xD186B8C721C0C207, 0xEADA7DD6CDE0EB1E, 0xF57D4F7FEE6ED178, 0x06F067AA72176FBA, 0x0A637DC5A2C898A6,
    0x113F9804BEF90DAE, 0x1B710B35131C471B, 0x28DB77F523047D84, 0x32CAAB7B40C72493, 0x3C9EBE0A15C9BEBC,
    0x431D67C49C100D4C, 0x4CC5D4BECB3E42B6, 0x597F299CFC657E2A, 0x5FCB6FAB3AD6FAEC, 0x6C44198C4A475817]

/-- The eight working variables. -/
structure ShaState where
  a : Word
  b : Word
  c : Word
  d : Word
  e : Word
  f : Word
  g : Word
  h : Word
  deriving DecidableEq, Repr

/-- The initial hash value of SHA-384. -/
def shaInit : ShaState :=
  ⟨0xCBBB9D5DC1059ED8, 0x629A292A367CD507, 0x9159015A3070DD17, 0x152FECD8F70E5939,
   0x67332667FFC00B31, 0x8EB44A8768581511, 0xDB0C2E0D64F98FA7, 0x47B5481DBEFA4FA4⟩

/-- The schedule extended by n words; the words stand latest first. -/
def shaExtend : Nat → List Word → List Word
  | 0, w => w
  | n + 1, w =>
    let at_ (i : Nat) : Word := (w[i]?).getD 0
    let s0 := (at_ 14).rotateRight 1 ^^^ (at_ 14).rotateRight 8 ^^^ (at_ 14) >>> 7
    let s1 := (at_ 1).rotateRight 19 ^^^ (at_ 1).rotateRight 61 ^^^ (at_ 1) >>> 6
    shaExtend n ((s1 + at_ 6 + s0 + at_ 15) :: w)

/-- One round with a constant and a word of the schedule. -/
def shaRound (v : ShaState) (kw : Word × Word) : ShaState :=
  let big0 := v.a.rotateRight 28 ^^^ v.a.rotateRight 34 ^^^ v.a.rotateRight 39
  let big1 := v.e.rotateRight 14 ^^^ v.e.rotateRight 18 ^^^ v.e.rotateRight 41
  let t1 := v.h + big1 + ((v.e &&& v.f) ^^^ (~~~v.e &&& v.g)) + kw.1 + kw.2
  let t2 := big0 + ((v.a &&& v.b) ^^^ (v.a &&& v.c) ^^^ (v.b &&& v.c))
  ⟨t1 + t2, v.a, v.b, v.c, v.d + t1, v.e, v.f, v.g⟩

/-- The big-endian number of bytes. -/
def bigEndian (bs : List Byte) : Nat := bytesToNat bs.reverse

/-- The hash value after a block of 128 bytes. -/
def shaBlock (v : ShaState) (block : List Byte) : ShaState :=
  let first := (List.range 16).map fun i => BitVec.ofNat 64 (bigEndian ((block.drop (8 * i)).take 8))
  let w := (shaExtend 64 first.reverse).reverse
  let u := (shaK.zip w).foldl shaRound v
  ⟨v.a + u.a, v.b + u.b, v.c + u.c, v.d + u.d, v.e + u.e, v.f + u.f, v.g + u.g, v.h + u.h⟩

/-- A message padded to whole blocks: a one bit, zeros, and its length in bits in 16 bytes. -/
def shaPad (m : List Byte) : List Byte :=
  m ++ [0x80] ++ List.replicate ((239 - m.length % 128) % 128) 0 ++ (natToBytes 16 (8 * m.length)).reverse

/-- The hash value after n blocks. -/
def shaBlocks : Nat → ShaState → List Byte → ShaState
  | 0, v, _ => v
  | n + 1, v, bs => shaBlocks n (shaBlock v (bs.take 128)) (bs.drop 128)

/-- The SHA-384 digest of a message as a number of 384 bits. -/
def sha384 (m : List Byte) : Nat :=
  let p := shaPad m
  let v := shaBlocks (p.length / 128) shaInit p
  [v.a, v.b, v.c, v.d, v.e, v.f].foldl (fun n w => n * 2 ^ 64 + w.toNat) 0

/-! ## The curve P-384 -/

/-- The prime of the field: 2^384 - 2^128 - 2^96 + 2^32 - 1. -/
def p384 : Nat := 0xFFFFFFFFFFFFFFFFFFFFFFFFFFFFFFFFFFFFFFFFFFFFFFFFFFFFFFFFFFFFFFFEFFFFFFFF0000000000000000FFFFFFFF

/-- The order of the base point. -/
def n384 : Nat := 0xFFFFFFFFFFFFFFFFFFFFFFFFFFFFFFFFFFFFFFFFFFFFFFFFC7634D81F4372DDF581A0DB248B0A77AECEC196ACCC52973

/-- The coefficient b of y^2 = x^3 - 3x + b. -/
def b384 : Nat := 0xB3312FA7E23EE7E4988E056BE3F82D19181D9C6EFE8141120314088F5013875AC656398D8A2ED19D2A85C8EDD3EC2AEF

/-- A point in Jacobian coordinates; z = 0 is the point at infinity. -/
structure CurvePoint where
  x : Nat
  y : Nat
  z : Nat
  deriving DecidableEq, Repr

/-- The base point. -/
def g384 : CurvePoint :=
  ⟨0xAA87CA22BE8B05378EB1C71EF320AD746E1D3B628BA79B9859F741E082542A385502F25DBF55296C3A545E3872760AB7,
   0x3617DE4A96262C6F5D9E98BF9292DC29F8F41DBD289A147CE9DA3113B5F0B8C00A60B1CE1D7E819D7A431D7C90EA0E5F, 1⟩

/-- A difference in the field. -/
def fieldSub (a b : Nat) : Nat := (a + (p384 - b % p384)) % p384

/-- Twice a point. -/
def CurvePoint.double (q : CurvePoint) : CurvePoint :=
  let yy := q.y * q.y % p384
  let s := 4 * q.x * yy % p384
  let zz := q.z * q.z % p384
  let m := 3 * fieldSub q.x zz * (q.x + zz) % p384
  let x := fieldSub (m * m) (2 * s)
  ⟨x, fieldSub (m * fieldSub s x) (8 * yy * yy), 2 * q.y * q.z % p384⟩

/-- The sum of two points. -/
def CurvePoint.add (q r : CurvePoint) : CurvePoint :=
  if q.z = 0 then r
  else if r.z = 0 then q
  else
    let zq := q.z * q.z % p384
    let zr := r.z * r.z % p384
    let u := q.x * zr % p384
    let s := q.y * zr * r.z % p384
    let h := fieldSub (r.x * zq) u
    let d := fieldSub (r.y * zq * q.z) s
    if h = 0 then (if d = 0 then q.double else ⟨1, 1, 0⟩)
    else
      let hh := h * h % p384
      let x := fieldSub (d * d) (h * hh + 2 * u * hh)
      ⟨x, fieldSub (d * fieldSub (u * hh) x) (s * h * hh), h * q.z * r.z % p384⟩

/-- A point times a number of at most n bits. -/
def CurvePoint.times (q : CurvePoint) : Nat → Nat → CurvePoint
  | 0, _ => ⟨1, 1, 0⟩
  | n + 1, k =>
    let r := (q.times n (k / 2)).double
    if k % 2 = 1 then r.add q else r

/-- A power modulo a number, for an exponent of at most n bits. -/
def powerMod (m a : Nat) : Nat → Nat → Nat
  | 0, _ => 1
  | n + 1, k =>
    let r := powerMod m a n (k / 2)
    let r := r * r % m
    if k % 2 = 1 then r * a % m else r

/-- The inverse modulo a prime below 2^384. -/
def inverseMod (m a : Nat) : Nat := powerMod m (a % m) 384 (m - 2)

/-- The affine x coordinate of a point other than infinity. -/
def CurvePoint.affineX (q : CurvePoint) : Nat := q.x * inverseMod p384 (q.z * q.z) % p384

/-- Whether an affine point is one of the curve, and so a public key. -/
def onCurve (x y : Nat) : Bool :=
  decide (x < p384) && decide (y < p384) && decide (y * y % p384 = (x * x * x + fieldSub b384 (3 * x)) % p384)

/-- Whether (r, s) is a signature of a digest under the public key (x, y) (FIPS 186-5, section 6.4.2). -/
def ecdsaVerifies (x y digest r s : Nat) : Bool :=
  onCurve x y && decide (0 < r) && decide (r < n384) && decide (0 < s) && decide (s < n384) &&
    let w := inverseMod n384 s
    let q := (g384.times 384 (digest * w % n384)).add (CurvePoint.times ⟨x, y, 1⟩ 384 (r * w % n384))
    decide (q.z ≠ 0) && decide (q.affineX % n384 = r)

/-- Whether an image carries a valid signature by the key whose hash is fused (R369). R369 gives no layout: the last 192 bytes are the
public key's x and y and the signature's r and s, each 48 bytes, big-endian; the digest is that of all before them, and the fused
hash is the SHA-384 of the 96 bytes of the key (DESIGN CHOICE log 17). -/
def imageVerifies (fused : Nat) (image : List Byte) : Bool :=
  let body := image.take (image.length - 192)
  let tail := image.drop (image.length - 192)
  let field (i : Nat) : Nat := bigEndian ((tail.drop (48 * i)).take 48)
  decide (192 ≤ image.length) && decide (sha384 (tail.take 96) = fused) &&
    ecdsaVerifies (field 0) (field 1) (sha384 body) (field 2) (field 3)

end Sys2Proof.Machine
end

