-- ==== Sys2Proof/Machine/Management.lean ====
section
/-! DEFINITION. The management controller: junction protection, the mailbox, the resets, and the scrub engine (R369 to
R377). -/

namespace Sys2Proof.Machine

/-! ## Images and resets (R369, R372) -/

/-- Host memory: what no reset of the package touches. -/
def hostPart (m : Memory) : Memory := m.filter fun c => decide (Config.hostBase ≤ c.1)

/-- Everything outside the hub page store. -/
def offStore (m : Memory) : Memory := m.filter fun c => decide (c.1 < Config.pageStoreBase) || decide (Config.hostBase ≤ c.1)

/-- Poisoned lines of host memory. -/
def hostLines (ls : List Nat) : List Nat := ls.filter fun l => decide (Config.hostBase / 64 ≤ l)

/-- Poisoned lines outside the hub page store. -/
def offStoreLines (ls : List Nat) : List Nat :=
  ls.filter fun l => decide (l < Config.pageStoreBase / 64) || decide (Config.hostBase / 64 ≤ l)

/-- Whether the image in the SPI NOR boots (R369): not while it is being programmed, nor when the SPI NOR does not answer. -/
def Mc.boots (m : Mc) (silent : Bool) : Bool := !silent && m.norValid && !m.programming && imageVerifies Config.fusedKeyHash m.nor

/-- Mailbox statuses (R370). -/
def mbOk : Nat := 0
def mbBusy : Nat := 1
def mbBadsig : Nat := 2
def mbBadarg : Nat := 3
def mbRecovery : Nat := 4

/-- The boot ROM's verification: an image that fails, or an SPI NOR that does not answer (silent), leads to recovery, which is logged
(R369). A mailbox that reads BUSY reads it until its command, or the MC's restart, ends (R370, R372). -/
def State.boot (s : State) (silent : Bool) : State :=
  let status (n : Nat) : Nat := if s.mc.status = mbBusy then mbBusy else n
  if s.mc.boots silent then { s with mc := { s.mc with image := s.mc.nor, recovery := false, status := status mbOk } }
  else State.logEvent { s with mc := { s.mc with recovery := true, status := status mbRecovery } } evBoot none

/-- Memory training: a population of packages that R25 does not list fails it, and that is logged. Nothing else of the package depends
on it here (DESIGN CHOICE log 17). -/
def State.train (s : State) : State :=
  let t := s.logEvent evTraining none
  let pick {α : Type} (a b : α) : α := if Config.populationFits then a else b
  { s with
    free := pick s.free t.free
    mc := { s.mc with time := pick s.mc.time t.mc.time, seq := pick s.mc.seq t.mc.seq, log := pick s.mc.log t.mc.log } }

/-- The package without power: the SPI NOR and its shutdown sector, and the host's memory, alone remain. -/
def State.unpowered (s : State) : State :=
  { State.reset with
    turns := s.turns
    arg := s.arg
    free := s.free
    mem := hostPart s.back
    back := hostPart s.back
    poison := hostLines s.backPoison
    backPoison := hostLines s.backPoison
    mc := { Mc.init with nor := s.mc.nor, norValid := s.mc.norValid && !s.mc.programming, shutdown := s.mc.shutdown } }

/-- POWER_ON_RESET: the always-on supply comes after it was gone; arg.flag says that the SPI NOR does not answer (R369, R372). -/
def execPowerOnReset (s : State) := event (modify fun s => (s.unpowered.boot s.arg.flag).train) s

/-- POWER_LOSS: an SPI NOR that was being programmed is left invalid; no firmware runs until the supply returns. -/
def execPowerLoss (s : State) := event (modify fun s =>
  let u := s.unpowered
  { u with mc := { u.mc with recovery := true } }) s

/-- The protected contexts that a device reset appends to the scrub list (R377). -/
def State.killed (s : State) : List ScrubEntry :=
  (s.ctxs.filter fun p => p.2.pk && !p.2.dead).map fun p => ⟨p.1, p.2.ptroot, p.2.keySlot⟩

/-- SCRB with the length of a list in pend; a list that was empty starts its first entry (R377). -/
def scrbAfter (old : Word) (before after : List ScrubEntry) : Word :=
  if before.isEmpty then scrbWord after 1 0
  else BitVec.ofNat 64 (withField old.toNat 32 6 after.length)

/-- The management controller after a device reset (R372): the event log with its numbers and MC time, the SPI NOR with its shutdown
sector and a programming of it under way, and a BUSY mailbox are kept (DESIGN CHOICE log 17). -/
def Mc.afterReset (m : Mc) : Mc :=
  { Mc.init with
    status := if m.status = mbBusy then mbBusy else mbOk
    log := m.log, seq := m.seq, time := m.time
    nor := m.nor, norValid := m.norValid, programming := m.programming, prog := m.prog, shutdown := m.shutdown }

/-- The package after a device reset, before the image is verified (R372): the dies, contexts, queues and acceptance are as at
reset; every key is zeroised, the SRAM is cleared and dirty lines are lost with their poison. The damage integrals go on, as their spans, 60 s
and the powered life, are not ended by it (R355, DEDUCED log 66). -/
def State.wiped (s : State) : State :=
  let list := s.scrub ++ s.killed
  { State.reset with
    turns := s.turns
    arg := s.arg
    free := s.free
    mem := offStore s.back
    back := offStore s.back
    poison := offStoreLines s.backPoison
    backPoison := offStoreLines s.backPoison
    scrub := list
    scrb := scrbAfter s.scrb s.scrub list
    scrubAt := s.scrubAt
    power := { Power.init with powered := s.power.powered, windows := s.power.windows, reliability := s.power.reliability }
    mc := s.mc.afterReset }

/-- DEVICE_RESET: the image is verified and the memory trained; the scrub goes on from where it was (R372, R377). arg.flag says that
the SPI NOR does not answer. -/
def execDeviceReset (s : State) := event (modify fun s => ((s.wiped.logEvent evReset none).boot s.arg.flag).train) s

/-- MC_RESET: with arg.flag clear the MC restarts, and the mailbox reads BUSY until the restart ends, which arg.flag says. A
programming of the SPI NOR that it cuts short may leave it invalid (DESIGN CHOICE log 35). -/
def execMcReset (s : State) := event (modify fun s =>
  if s.arg.flag then
    if s.mc.status = mbBusy ∧ !s.mc.programming then
      { s with mc := { s.mc with status := if s.mc.recovery then mbRecovery else mbOk } }
    else s
  else
    { s with
      free := s.free + 1
      mc := { s.mc with
        status := mbBusy, length := 0, data := [], ecc := [], pageErrors := [], programming := false, prog := []
        norValid := if s.mc.programming then Config.freeBool s.free else s.mc.norValid } }) s

/-! ## Junction protection (R374) -/

/-- JUNCTION_PROTECT: a sensor reads 105 degrees or more. -/
def execJunctionProtect (s : State) := event (modify fun s =>
  if (s.mc.sensors.any fun t => decide (105 ≤ t)) && !s.power.junc then
    let s := { s with power := { s.power with mx := 0, vx := 0, sm := 0, fb := 0, junc := true } }
    (s.setThr (biClusters ++ siClusters) thrJunc).logEvent evThermal none
  else s) s

/-- JUNCTION_RELEASE: every sensor reads below 100 degrees. -/
def execJunctionRelease (s : State) := event (modify fun s =>
  if s.power.junc && s.mc.sensors.all fun t => decide (t < 100) then { s with power := { s.power with junc := false } }
  else s) s

/-- JUNCTION_SHUTDOWN: a sensor reads 115 degrees or more; the cause is recorded and power removed. The power-on reset follows;
arg.flag says that the SPI NOR does not answer it. -/
def execJunctionShutdown (s : State) := event (modify fun s =>
  if s.mc.sensors.any fun t => decide (115 ≤ t) then
    let u := s.unpowered
    State.train (State.boot { u with
      mc := { u.mc with shutdown := Config.shutdownCause s.free }, free := s.free + 1 } s.arg.flag)
  else s) s

/-! ## The mailbox (R370, R371) -/

/-- A mailbox command: not begun while another one runs. -/
def mailbox (f : State → State) (s : State) : Host.Outcome State Fault Refusal := event (modify fun s =>
  if s.mc.status = mbBusy then s else f s) s

/-- A command ended with a status. -/
def State.mbEnd (s : State) (status : Nat) : State := { s with mc := { s.mc with status := status } }

/-- A report in the data buffer: what it does not fill stays. -/
def State.mbReport (s : State) (bs : List Byte) : State :=
  let cut := bs.take 4096
  { s with mc := { s.mc with data := cut ++ (fitTo 4096 s.mc.data).drop cut.length, status := mbOk } }

/-- The 32 bytes of an event record (R371). -/
def eventBytes (e : Nat × Nat × Nat × Word × Word) : List Byte :=
  wordBytes [e.1 * 2 ^ 32 + e.2.1, e.2.2.1, e.2.2.2.1.toNat, e.2.2.2.2.toNat]

/-- Whether a sequence number is n or later. -/
def fromSeq (n seq : Nat) : Bool := decide ((seq + 2 ^ 32 - n) % 2 ^ 32 < 2 ^ 31)

/-- LOG: up to 128 records from the sequence number in data word 0. -/
def execLog (s : State) := mailbox (fun s =>
  let n := bytesToNat (s.mc.data.take 8) % 2 ^ 32
  s.mbReport (((s.mc.log.filter fun e => fromSeq n e.1).take 128).flatMap eventBytes)) s

/-- SENSORS: the 64 sensors of each die. -/
def execSensors (s : State) := mailbox (fun s => s.mbReport (Config.sensorReport s.mc.sensors)) s

/-- INTEGRALS: both integrals of every region (R355). -/
def execIntegrals (s : State) := mailbox (fun s =>
  s.mbReport (Config.integralReport (regions.map fun r => (s.thermal r, tableGet s.power.reliability r)))) s

/-- REPAIR: the repair map (R19). -/
def execRepair (s : State) := mailbox (fun s => s.mbReport Config.repairReport) s

/-- ECC: the counters, which the read clears (R373). -/
def execEcc (s : State) := mailbox (fun s =>
  { s with mc := { s.mc with ecc := [] } }.mbReport (Config.eccReport s.mc.ecc)) s

/-- Whether some context exists: not one that awaits its scrub. -/
def State.anyCtx (s : State) : Bool := s.ctxs.any fun p => !p.2.dead

/-- Greatest length of an image (R369). -/
def imageMax : Nat := 2 ^ 23

/-- The staged image (R370). -/
def State.staged (s : State) : List Byte := s.mem.readBytes Config.pageStoreBase s.mc.staged

/-- STAGE: the buffer is appended to the image in the page store; BADARG while a context exists, for a length beyond the buffer, or
for an image beyond 8 MiB. -/
def execStage (s : State) := mailbox (fun s =>
  let at_ := Config.pageStoreBase + s.mc.staged
  let bs := (fitTo 4096 s.mc.data).take s.mc.length
  if s.anyCtx ∨ 4096 < s.mc.length ∨ imageMax < s.mc.staged + s.mc.length then s.mbEnd mbBadarg
  else
    { s with
      mem := s.mem.writeBytes at_ bs
      poison := s.poison.filter fun l => !(decide (at_ ≤ 64 * l) && decide (64 * l + 64 ≤ at_ + bs.length))
      mc := { s.mc with staged := s.mc.staged + s.mc.length, status := mbOk } }) s

/-- COMMIT: the staged image is verified, and then programmed, during which the mailbox reads BUSY; the event comes again when the
programming ends. -/
def execCommit (s : State) := event (modify fun s =>
  if s.mc.programming then
    { s with mc := { s.mc with nor := s.mc.prog, norValid := true, programming := false, prog := [], status := mbOk } }
  else if s.mc.status = mbBusy then s
  else if imageVerifies Config.fusedKeyHash s.staged then
    { s with mc := { s.mc with programming := true, prog := s.staged, status := mbBusy } }
  else s.mbEnd mbBadsig) s

/-- RECOVER: allowed in recovery or with no context; the firmware cores boot from the staged image. -/
def execRecover (s : State) := mailbox (fun s =>
  if !s.mc.recovery && s.anyCtx then s.mbEnd mbBadarg
  else if imageVerifies Config.fusedKeyHash s.staged then
    { s with mc := { s.mc with image := s.staged, recovery := false, status := mbOk } }
  else s.mbEnd mbBadsig) s

/-! ## The scrub engine (R376, R377) -/

/-- A page that holds nothing but zeros, with fresh ECC, wherever it is looked at. -/
def State.zeroPage (s : State) (pa n : Nat) : State :=
  { s with
    mem := s.mem.clear pa n
    back := s.back.clear pa n
    poison := adoptLines s.poison [] pa n
    backPoison := adoptLines s.backPoison [] pa n }

/-- The leaves with pk = 1 and own = a context that name device frames: virtual address, first byte and size of the frame. -/
def pkFrames (m : Memory) (e : ScrubEntry) : List (Nat × Nat × Nat) :=
  ((leaves m e.ptroot).filter fun l => bitOf l.2.1 63 && decide (bits l.2.1 57 46 = e.ctx)
      && decide (leafBase l.2.1 l.2.2.1 < Config.hostBase)).map
    fun l => (l.1, leafBase l.2.1 l.2.2.1, pageBytes l.2.2.1)

/-- The page-store pages lent to a context. -/
def State.lentPages (s : State) (id : Nat) : List Nat :=
  (s.store.filter fun p =>
    match p.2 with
    | .page c _ | .stash c _ | .tile c _ => decide (c = id)).map Prod.fst

/-- Phases of SCRB (R377). -/
def phImages : Nat := 1
def phPages : Nat := 2
def phFinish : Nat := 3

/-- The scrub engine in a phase, with frames left to clear, its walk at a virtual address. -/
def State.scrubTo (s : State) (phase left at_ : Nat) : State :=
  { s with scrb := scrbWord s.scrub phase (left % 2 ^ 32), scrubAt := at_ }

/-- Phase 1: the stash and tile images are zero, and the page-store pages that hold them; the walk begins. -/
def State.scrubImages (s : State) (e : ScrubEntry) : State :=
  let s := (s.zeroStashes e.ctx (List.range 512)).zeroTiles e.ctx (List.range 64)
  let s := (s.lentPages e.ctx).foldl (fun s n => s.zeroPage (storePa n) (2 ^ 16)) s
  s.scrubTo phPages (pkFrames s.mem e).length 0

/-- Phase 2: the next frame of the walk is cleared; the entries are read as the walk reaches them. Without a further one the entry is
finished. -/
def State.scrubFrame (s : State) (e : ScrubEntry) : State :=
  match (pkFrames s.mem e).find? fun f => decide (s.scrubAt ≤ f.1) with
  | some f => (s.zeroPage f.2.1 f.2.2).scrubTo phPages (bits s.scrb.toNat 31 0 - 1) (f.1 + f.2.2)
  | none => s.scrubTo phFinish 0 0

/-- Phase 3: the id and the slot are free, and the next entry begins. -/
def State.scrubFinish (s : State) (e : ScrubEntry) : State :=
  let s := s.forget e.ctx
  let rest := s.scrub.tail
  { s with scrub := rest, scrb := scrbWord rest phImages 0, scrubAt := 0 }

/-- SCRUB_ENTRY: the head of the scrub list, one piece at a time: its images, then each frame of its walk, then its end (R376, R377,
DEDUCED log 50). A DRAM in SREF is woken first (R332). -/
def execScrubEntry (s : State) := event (modify fun s =>
  match s.scrub with
  | [] => s
  | e :: _ =>
    if s.dramSref then s.wake ⟨.dram, 0, e.ctx, 0⟩
    else
      let ph := bits s.scrb.toNat 45 44
      if ph = phPages then s.scrubFrame e
      else if ph = phFinish then s.scrubFinish e
      else s.scrubImages e) s

end Sys2Proof.Machine
end

