-- ==== Sys2Proof/Machine/Scalar.lean ====
section
/-! DEFINITION. The scalar arithmetic of majors 0x01 to 0x0D (R147 to R152). None of these can fault or set a flag. -/

namespace Sys2Proof.Machine

/-- A register-register form: reads both sources, then writes the destination (R147). -/
def alu (d a b : Reg) (f : Word → Word → Word) (s : State) : Host.Outcome State Fault Refusal :=
  update (fun s => s.setX d (f (s.x a) (s.x b))) s

/-- A form of one source. -/
def alu1 (d a : Reg) (f : Word → Word) (s : State) : Host.Outcome State Fault Refusal :=
  update (fun s => s.setX d (f (s.x a))) s

/-- 1 or 0. -/
def wordOf (b : Bool) : Word := if b then 1 else 0

/-- The quotient of R149. -/
def divQuot (signed : Bool) (a b : Word) : Word :=
  if b = 0 then 0xFFFFFFFFFFFFFFFF
  else if signed then BitVec.ofInt 64 (Int.tdiv a.toInt b.toInt)
  else a / b

/-- The remainder of R149. -/
def divRem (signed : Bool) (a b : Word) : Word :=
  if b = 0 then a else a - divQuot signed a b * b

/-- Number of leading zeros among the low n bits. -/
def leadingZeros (v : Word) : Nat → Nat
  | 0 => 0
  | n + 1 => if v.getLsbD n then 0 else 1 + leadingZeros v n

/-- Number of trailing zeros among bits i and up, n of them. -/
def trailingZeros (v : Word) : Nat → Nat → Nat
  | 0, _ => 0
  | n + 1, i => if v.getLsbD i then 0 else 1 + trailingZeros v n (i + 1)

/-- Number of one bits among the low n. -/
def onesIn (v : Word) : Nat → Nat
  | 0 => 0
  | n + 1 => (if v.getLsbD n then 1 else 0) + onesIn v n

/-- n ones (R150). -/
def maskOf (n : Nat) : Word := BitVec.ofNat 64 (2 ^ n - 1)

/-- ADD (R148). -/
def execAdd (d a b : Reg) (s : State) := alu d a b (· + ·) s

/-- SUB (R148). -/
def execSub (d a b : Reg) (s : State) := alu d a b (· - ·) s

/-- MUL (R148). -/
def execMul (d a b : Reg) (s : State) := alu d a b (· * ·) s

/-- MULH: the high half of the signed product (R148). -/
def execMulh (d a b : Reg) (s : State) := alu d a b (fun x y => BitVec.ofInt 64 (x.toInt * y.toInt / 2 ^ 64)) s

/-- MULHZ: the high half of the unsigned product (R148). -/
def execMulhz (d a b : Reg) (s : State) := alu d a b (fun x y => BitVec.ofNat 64 (x.toNat * y.toNat / 2 ^ 64)) s

/-- DIV (R149). -/
def execDiv (d a b : Reg) (s : State) := alu d a b (divQuot true) s

/-- DIVZ (R149). -/
def execDivz (d a b : Reg) (s : State) := alu d a b (divQuot false) s

/-- REM (R149). -/
def execRem (d a b : Reg) (s : State) := alu d a b (divRem true) s

/-- REMZ (R149). -/
def execRemz (d a b : Reg) (s : State) := alu d a b (divRem false) s

/-- AND (R148). -/
def execAnd (d a b : Reg) (s : State) := alu d a b (· &&& ·) s

/-- OR (R148). -/
def execOr (d a b : Reg) (s : State) := alu d a b (· ||| ·) s

/-- XOR (R148). -/
def execXor (d a b : Reg) (s : State) := alu d a b (· ^^^ ·) s

/-- ANDN (R148). -/
def execAndn (d a b : Reg) (s : State) := alu d a b (fun x y => x &&& ~~~y) s

/-- SHL by b[5:0] (R148). -/
def execShl (d a b : Reg) (s : State) := alu d a b (fun x y => x <<< (y.toNat % 64)) s

/-- SHR by b[5:0] (R148). -/
def execShr (d a b : Reg) (s : State) := alu d a b (fun x y => x >>> (y.toNat % 64)) s

/-- SAR by b[5:0] (R148). -/
def execSar (d a b : Reg) (s : State) := alu d a b (fun x y => x.sshiftRight (y.toNat % 64)) s

/-- CLZ (R148). -/
def execClz (d a : Reg) (s : State) := alu1 d a (fun x => BitVec.ofNat 64 (leadingZeros x 64)) s

/-- CTZ (R148). -/
def execCtz (d a : Reg) (s : State) := alu1 d a (fun x => BitVec.ofNat 64 (trailingZeros x 64 0)) s

/-- POPC (R148). -/
def execPopc (d a : Reg) (s : State) := alu1 d a (fun x => BitVec.ofNat 64 (onesIn x 64)) s

/-- MIN, signed (R148). -/
def execMin (d a b : Reg) (s : State) := alu d a b (fun x y => if x.slt y then x else y) s

/-- MAX, signed (R148). -/
def execMax (d a b : Reg) (s : State) := alu d a b (fun x y => if x.slt y then y else x) s

/-- MINZ, unsigned (R148). -/
def execMinz (d a b : Reg) (s : State) := alu d a b (fun x y => if x.ult y then x else y) s

/-- MAXZ, unsigned (R148). -/
def execMaxz (d a b : Reg) (s : State) := alu d a b (fun x y => if x.ult y then y else x) s

/-- SLT (R148). -/
def execSlt (d a b : Reg) (s : State) := alu d a b (fun x y => wordOf (x.slt y)) s

/-- SLO (R148). -/
def execSlo (d a b : Reg) (s : State) := alu d a b (fun x y => wordOf (x.ult y)) s

/-- SEL (R150). -/
def execSel (d a b c : Reg) (s : State) : Host.Outcome State Fault Refusal :=
  update (fun s => s.setX d (if s.x c ≠ 0 then s.x a else s.x b)) s

/-- EXT, of len = e + 1 bits from bit xb[5:0] (R150). -/
def execExt (d a b : Reg) (e : Fin 32) (s : State) :=
  alu d a b (fun x y => (x >>> (y.toNat % 64)) &&& maskOf (e.val + 1)) s

/-- INS, of len = e + 1 bits at bit xb[5:0]; xd is a source (R150). -/
def execIns (d a b : Reg) (e : Fin 32) (s : State) : Host.Outcome State Fault Refusal :=
  update (fun s =>
    let pos := (s.x b).toNat % 64
    let m := maskOf (e.val + 1)
    s.setX d ((s.x d &&& ~~~(m <<< pos)) ||| ((s.x a &&& m) <<< pos))) s

/-- ADDX, b shifted left by e (R150). -/
def execAddx (d a b : Reg) (e : Fin 32) (s : State) := alu d a b (fun x y => x + (y <<< e.val)) s

/-- ADDI (R151). -/
def execAddi (d a : Reg) (imm : BitVec 15) (s : State) := alu1 d a (fun x => x + imm15 imm) s

/-- ANDI (R151). -/
def execAndi (d a : Reg) (imm : BitVec 15) (s : State) := alu1 d a (fun x => x &&& imm15 imm) s

/-- ORI (R151). -/
def execOri (d a : Reg) (imm : BitVec 15) (s : State) := alu1 d a (fun x => x ||| imm15 imm) s

/-- XORI (R151). -/
def execXori (d a : Reg) (imm : BitVec 15) (s : State) := alu1 d a (fun x => x ^^^ imm15 imm) s

/-- SHLI (R151). -/
def execShli (d a : Reg) (n : Fin 64) (s : State) := alu1 d a (fun x => x <<< n.val) s

/-- SHRI (R151). -/
def execShri (d a : Reg) (n : Fin 64) (s : State) := alu1 d a (fun x => x >>> n.val) s

/-- SARI (R151). -/
def execSari (d a : Reg) (n : Fin 64) (s : State) := alu1 d a (fun x => x.sshiftRight n.val) s

/-- SLTI, signed (R151). -/
def execSlti (d a : Reg) (imm : BitVec 15) (s : State) := alu1 d a (fun x => wordOf (x.slt (imm15 imm))) s

/-- SLOI, unsigned against the sign-extended immediate (R151). -/
def execSloi (d a : Reg) (imm : BitVec 15) (s : State) := alu1 d a (fun x => wordOf (x.ult (imm15 imm))) s

/-- MULI (R151). -/
def execMuli (d a : Reg) (imm : BitVec 15) (s : State) := alu1 d a (fun x => x * imm15 imm) s

/-- LDHI (R152). -/
def execLdhi (d : Reg) (imm : BitVec 20) (s : State) : Host.Outcome State Fault Refusal :=
  update (fun s => s.setX d (imm20 imm)) s

/-- ADPC (R152). -/
def execAdpc (d : Reg) (imm : BitVec 20) (s : State) : Host.Outcome State Fault Refusal :=
  update (fun s => s.setX d (s.act.pc + imm20 imm)) s

end Sys2Proof.Machine
end

