-- ==== Sys2Proof/Machine/Dispatch.lean ====
section
/-! DEFINITION. One arm for each constructor of `Instr`: a direct call of its meaning. -/

namespace Sys2Proof.Machine

/-- What an instruction, or an operation or event of the device, does. -/
def exec (i : Instr) (s : State) : Host.Outcome State Fault Refusal :=
  match i with
  | .cVaddf d v t => Sys2Proof.Machine.execCVaddf d v t s
  | .cVsubf d v t => Sys2Proof.Machine.execCVsubf d v t s
  | .cVmulf d v t => Sys2Proof.Machine.execCVmulf d v t s
  | .cVmaxf d v t => Sys2Proof.Machine.execCVmaxf d v t s
  | .cVminf d v t => Sys2Proof.Machine.execCVminf d v t s
  | .cVaddi d v t => Sys2Proof.Machine.execCVaddi d v t s
  | .cVsubi d v t => Sys2Proof.Machine.execCVsubi d v t s
  | .cVmuli d v t => Sys2Proof.Machine.execCVmuli d v t s
  | .cVmaxi d v t => Sys2Proof.Machine.execCVmaxi d v t s
  | .cVmini d v t => Sys2Proof.Machine.execCVmini d v t s
  | .cVand d v => Sys2Proof.Machine.execCVand d v s
  | .cVor d v => Sys2Proof.Machine.execCVor d v s
  | .cVxor d v => Sys2Proof.Machine.execCVxor d v s
  | .cVmov d v => Sys2Proof.Machine.execCVmov d v s
  | .cVnegf d v t => Sys2Proof.Machine.execCVnegf d v t s
  | .cVabsf d v t => Sys2Proof.Machine.execCVabsf d v t s
  | .add d a b => Sys2Proof.Machine.execAdd d a b s
  | .sub d a b => Sys2Proof.Machine.execSub d a b s
  | .mul d a b => Sys2Proof.Machine.execMul d a b s
  | .mulh d a b => Sys2Proof.Machine.execMulh d a b s
  | .mulhz d a b => Sys2Proof.Machine.execMulhz d a b s
  | .div d a b => Sys2Proof.Machine.execDiv d a b s
  | .divz d a b => Sys2Proof.Machine.execDivz d a b s
  | .rem d a b => Sys2Proof.Machine.execRem d a b s
  | .remz d a b => Sys2Proof.Machine.execRemz d a b s
  | .and d a b => Sys2Proof.Machine.execAnd d a b s
  | .or d a b => Sys2Proof.Machine.execOr d a b s
  | .xor d a b => Sys2Proof.Machine.execXor d a b s
  | .andn d a b => Sys2Proof.Machine.execAndn d a b s
  | .shl d a b => Sys2Proof.Machine.execShl d a b s
  | .shr d a b => Sys2Proof.Machine.execShr d a b s
  | .sar d a b => Sys2Proof.Machine.execSar d a b s
  | .clz d a => Sys2Proof.Machine.execClz d a s
  | .ctz d a => Sys2Proof.Machine.execCtz d a s
  | .popc d a => Sys2Proof.Machine.execPopc d a s
  | .min d a b => Sys2Proof.Machine.execMin d a b s
  | .max d a b => Sys2Proof.Machine.execMax d a b s
  | .minz d a b => Sys2Proof.Machine.execMinz d a b s
  | .maxz d a b => Sys2Proof.Machine.execMaxz d a b s
  | .slt d a b => Sys2Proof.Machine.execSlt d a b s
  | .slo d a b => Sys2Proof.Machine.execSlo d a b s
  | .sel d a b c => Sys2Proof.Machine.execSel d a b c s
  | .ext d a b e => Sys2Proof.Machine.execExt d a b e s
  | .ins d a b e => Sys2Proof.Machine.execIns d a b e s
  | .addx d a b e => Sys2Proof.Machine.execAddx d a b e s
  | .addi d a imm => Sys2Proof.Machine.execAddi d a imm s
  | .andi d a imm => Sys2Proof.Machine.execAndi d a imm s
  | .ori d a imm => Sys2Proof.Machine.execOri d a imm s
  | .xori d a imm => Sys2Proof.Machine.execXori d a imm s
  | .shli d a n => Sys2Proof.Machine.execShli d a n s
  | .shri d a n => Sys2Proof.Machine.execShri d a n s
  | .sari d a n => Sys2Proof.Machine.execSari d a n s
  | .slti d a imm => Sys2Proof.Machine.execSlti d a imm s
  | .sloi d a imm => Sys2Proof.Machine.execSloi d a imm s
  | .muli d a imm => Sys2Proof.Machine.execMuli d a imm s
  | .ldhi d imm => Sys2Proof.Machine.execLdhi d imm s
  | .adpc d imm => Sys2Proof.Machine.execAdpc d imm s
  | .j off => Sys2Proof.Machine.execJ off s
  | .jal off => Sys2Proof.Machine.execJal off s
  | .jalr d a imm => Sys2Proof.Machine.execJalr d a imm s
  | .jr a imm => Sys2Proof.Machine.execJr a imm s
  | .beq a b off => Sys2Proof.Machine.execBeq a b off s
  | .bne a b off => Sys2Proof.Machine.execBne a b off s
  | .blt a b off => Sys2Proof.Machine.execBlt a b off s
  | .bge a b off => Sys2Proof.Machine.execBge a b off s
  | .blo a b off => Sys2Proof.Machine.execBlo a b off s
  | .bhs a b off => Sys2Proof.Machine.execBhs a b off s
  | .dbnz a off => Sys2Proof.Machine.execDbnz a off s
  | .bpa g b off => Sys2Proof.Machine.execBpa g b off s
  | .bpn g b off => Sys2Proof.Machine.execBpn g b off s
  | .ld z d a off => Sys2Proof.Machine.execLd z d a off s
  | .ldq d a off => Sys2Proof.Machine.execLdq d a off s
  | .st z d a off => Sys2Proof.Machine.execSt z d a off s
  | .stq d a off => Sys2Proof.Machine.execStq d a off s
  | .ldx z d a b => Sys2Proof.Machine.execLdx z d a b s
  | .stx z d a b => Sys2Proof.Machine.execStx z d a b s
  | .pf a b => Sys2Proof.Machine.execPf a b s
  | .smap a b => Sys2Proof.Machine.execSmap a b s
  | .swb a b => Sys2Proof.Machine.execSwb a b s
  | .sdrop a b => Sys2Proof.Machine.execSdrop a b s
  | .cfl a b => Sys2Proof.Machine.execCfl a b s
  | .cinv a b => Sys2Proof.Machine.execCinv a b s
  | .cbtake d a => Sys2Proof.Machine.execCbtake d a s
  | .cbgive a b => Sys2Proof.Machine.execCbgive a b s
  | .amoAdd d a b aq rl w => Sys2Proof.Machine.execAmoAdd d a b aq rl w s
  | .amoAnd d a b aq rl w => Sys2Proof.Machine.execAmoAnd d a b aq rl w s
  | .amoOr d a b aq rl w => Sys2Proof.Machine.execAmoOr d a b aq rl w s
  | .amoXor d a b aq rl w => Sys2Proof.Machine.execAmoXor d a b aq rl w s
  | .amoMin d a b aq rl w => Sys2Proof.Machine.execAmoMin d a b aq rl w s
  | .amoMax d a b aq rl w => Sys2Proof.Machine.execAmoMax d a b aq rl w s
  | .amoSwp d a b aq rl w => Sys2Proof.Machine.execAmoSwp d a b aq rl w s
  | .amoCas d a b aq rl w => Sys2Proof.Machine.execAmoCas d a b aq rl w s
  | .amoFadd d a b aq rl w => Sys2Proof.Machine.execAmoFadd d a b aq rl w s
  | .cas2 d a b aq rl => Sys2Proof.Machine.execCas2 d a b aq rl s
  | .redAdd a b aq rl w => Sys2Proof.Machine.execRedAdd a b aq rl w s
  | .redFadd a b aq rl w => Sys2Proof.Machine.execRedFadd a b aq rl w s
  | .redMax a b aq rl w => Sys2Proof.Machine.execRedMax a b aq rl w s
  | .fence sc k => Sys2Proof.Machine.execFence sc k s
  | .spawn d a b => Sys2Proof.Machine.execSpawn d a b s
  | .spawnj d a b => Sys2Proof.Machine.execSpawnj d a b s
  | .jdec a b => Sys2Proof.Machine.execJdec a b s
  | .jadd a b => Sys2Proof.Machine.execJadd a b s
  | .bind a b d => Sys2Proof.Machine.execBind a b d s
  | .endj a => Sys2Proof.Machine.execEndj a s
  | .endwJoin a b => Sys2Proof.Machine.execEndwJoin a b s
  | .endwJob a b => Sys2Proof.Machine.execEndwJob a b s
  | .endwCb a b => Sys2Proof.Machine.execEndwCb a b s
  | .endwBar a b => Sys2Proof.Machine.execEndwBar a b s
  | .endwFeed a b => Sys2Proof.Machine.execEndwFeed a b s
  | .endwRoom a b => Sys2Proof.Machine.execEndwRoom a b s
  | .endwDq a b => Sys2Proof.Machine.execEndwDq a b s
  | .send d a b => Sys2Proof.Machine.execSend d a b s
  | .sendr d a b c => Sys2Proof.Machine.execSendr d a b c s
  | .bari a b => Sys2Proof.Machine.execBari a b s
  | .bara a => Sys2Proof.Machine.execBara a s
  | .barm a b => Sys2Proof.Machine.execBarm a b s
  | .wlpush a b => Sys2Proof.Machine.execWlpush a b s
  | .wlpop d => Sys2Proof.Machine.execWlpop d s
  | .wlcnt d => Sys2Proof.Machine.execWlcnt d s
  | .launch d a => Sys2Proof.Machine.execLaunch d a s
  | .fpop d a => Sys2Proof.Machine.execFpop d a s
  | .vwid d => Sys2Proof.Machine.execVwid d s
  | .plb pd a b pg t => Sys2Proof.Machine.execPlb pd a b pg t s
  | .pand pd pa pb pg => Sys2Proof.Machine.execPand pd pa pb pg s
  | .por pd pa pb pg => Sys2Proof.Machine.execPor pd pa pb pg s
  | .pxor pd pa pb pg => Sys2Proof.Machine.execPxor pd pa pb pg s
  | .pnot pd pa pg => Sys2Proof.Machine.execPnot pd pa pg s
  | .pfst pd pa pg t => Sys2Proof.Machine.execPfst pd pa pg t s
  | .pcnt d pa pg t => Sys2Proof.Machine.execPcnt d pa pg t s
  | .vadd d a b pg t => Sys2Proof.Machine.execVadd d a b pg t s
  | .vsub d a b pg t => Sys2Proof.Machine.execVsub d a b pg t s
  | .vmul d a b pg t => Sys2Proof.Machine.execVmul d a b pg t s
  | .vdiv d a b pg t => Sys2Proof.Machine.execVdiv d a b pg t s
  | .vdivUnsigned d a b pg t => Sys2Proof.Machine.execVdivUnsigned d a b pg t s
  | .vmax d a b pg t => Sys2Proof.Machine.execVmax d a b pg t s
  | .vmaxUnsigned d a b pg t => Sys2Proof.Machine.execVmaxUnsigned d a b pg t s
  | .vmin d a b pg t => Sys2Proof.Machine.execVmin d a b pg t s
  | .vminUnsigned d a b pg t => Sys2Proof.Machine.execVminUnsigned d a b pg t s
  | .vabs d a pg t => Sys2Proof.Machine.execVabs d a pg t s
  | .vneg d a pg t => Sys2Proof.Machine.execVneg d a pg t s
  | .vsel d a b pg t => Sys2Proof.Machine.execVsel d a b pg t s
  | .vsqrt d a pg t => Sys2Proof.Machine.execVsqrt d a pg t s
  | .vrcp d a pg t => Sys2Proof.Machine.execVrcp d a pg t s
  | .vrsq d a pg t => Sys2Proof.Machine.execVrsq d a pg t s
  | .vexp2 d a pg t => Sys2Proof.Machine.execVexp2 d a pg t s
  | .vlog2 d a pg t => Sys2Proof.Machine.execVlog2 d a pg t s
  | .vtanh d a pg t => Sys2Proof.Machine.execVtanh d a pg t s
  | .vsin d a pg t => Sys2Proof.Machine.execVsin d a pg t s
  | .vand d a b pg t => Sys2Proof.Machine.execVand d a b pg t s
  | .vor d a b pg t => Sys2Proof.Machine.execVor d a b pg t s
  | .vxor d a b pg t => Sys2Proof.Machine.execVxor d a b pg t s
  | .vnot d a pg t => Sys2Proof.Machine.execVnot d a pg t s
  | .vshl d a b pg t => Sys2Proof.Machine.execVshl d a b pg t s
  | .vshr d a b pg t => Sys2Proof.Machine.execVshr d a b pg t s
  | .vsar d a b pg t => Sys2Proof.Machine.execVsar d a b pg t s
  | .vcmpEq pd a b pg t => Sys2Proof.Machine.execVcmpEq pd a b pg t s
  | .vcmpNe pd a b pg t => Sys2Proof.Machine.execVcmpNe pd a b pg t s
  | .vcmpLt pd a b pg t => Sys2Proof.Machine.execVcmpLt pd a b pg t s
  | .vcmpLe pd a b pg t => Sys2Proof.Machine.execVcmpLe pd a b pg t s
  | .vcmpLo pd a b pg t => Sys2Proof.Machine.execVcmpLo pd a b pg t s
  | .vcmpLs pd a b pg t => Sys2Proof.Machine.execVcmpLs pd a b pg t s
  | .vcvt d a cv pg t => Sys2Proof.Machine.execVcvt d a cv pg t s
  | .vcvtUnsigned d a cv pg t => Sys2Proof.Machine.execVcvtUnsigned d a cv pg t s
  | .vqnt d a cv pg t => Sys2Proof.Machine.execVqnt d a cv pg t s
  | .vdqt d a cv pg t => Sys2Proof.Machine.execVdqt d a cv pg t s
  | .vredAdd d a pg t => Sys2Proof.Machine.execVredAdd d a pg t s
  | .vredMax d a pg t => Sys2Proof.Machine.execVredMax d a pg t s
  | .vredMaxUnsigned d a pg t => Sys2Proof.Machine.execVredMaxUnsigned d a pg t s
  | .vredMin d a pg t => Sys2Proof.Machine.execVredMin d a pg t s
  | .vredMinUnsigned d a pg t => Sys2Proof.Machine.execVredMinUnsigned d a pg t s
  | .vscanAdd d a pg t => Sys2Proof.Machine.execVscanAdd d a pg t s
  | .vscanMax d a pg t => Sys2Proof.Machine.execVscanMax d a pg t s
  | .vscanMaxUnsigned d a pg t => Sys2Proof.Machine.execVscanMaxUnsigned d a pg t s
  | .vargmMax d a pg t => Sys2Proof.Machine.execVargmMax d a pg t s
  | .vargmMaxUnsigned d a pg t => Sys2Proof.Machine.execVargmMaxUnsigned d a pg t s
  | .vargmMin d a pg t => Sys2Proof.Machine.execVargmMin d a pg t s
  | .vargmMinUnsigned d a pg t => Sys2Proof.Machine.execVargmMinUnsigned d a pg t s
  | .vperm d a b pg t => Sys2Proof.Machine.execVperm d a b pg t s
  | .vbcast d a pg t => Sys2Proof.Machine.execVbcast d a pg t s
  | .vext d a b pg t => Sys2Proof.Machine.execVext d a b pg t s
  | .vins d a b pg t => Sys2Proof.Machine.execVins d a b pg t s
  | .vidx d pg t => Sys2Proof.Machine.execVidx d pg t s
  | .vmov d a pg t => Sys2Proof.Machine.execVmov d a pg t s
  | .vld d a b pg t => Sys2Proof.Machine.execVld d a b pg t s
  | .vst d a b pg t => Sys2Proof.Machine.execVst d a b pg t s
  | .vlds d a b pg t => Sys2Proof.Machine.execVlds d a b pg t s
  | .vsts d a b pg t => Sys2Proof.Machine.execVsts d a b pg t s
  | .vgth d a b pg t => Sys2Proof.Machine.execVgth d a b pg t s
  | .vsct d a b pg t => Sys2Proof.Machine.execVsct d a b pg t s
  | .vldt d a b pg t => Sys2Proof.Machine.execVldt d a b pg t s
  | .vstt d a b pg t => Sys2Proof.Machine.execVstt d a b pg t s
  | .vrng d pg t => Sys2Proof.Machine.execVrng d pg t s
  | .vrngc d a b pg t => Sys2Proof.Machine.execVrngc d a b pg t s
  | .vfma d a b c pg t => Sys2Proof.Machine.execVfma d a b c pg t s
  | .vfms d a b c pg t => Sys2Proof.Machine.execVfms d a b c pg t s
  | .mma a b c m n ec => Sys2Proof.Machine.execMma a b c m n ec s
  | .mmag a b c m n ec => Sys2Proof.Machine.execMmag a b c m n ec s
  | .mzero d a => Sys2Proof.Machine.execMzero d a s
  | .mldt d a b => Sys2Proof.Machine.execMldt d a b s
  | .mstt d a b => Sys2Proof.Machine.execMstt d a b s
  | .msend d a b => Sys2Proof.Machine.execMsend d a b s
  | .cpy d a b ec => Sys2Proof.Machine.execCpy d a b ec s
  | .cpyg d a b => Sys2Proof.Machine.execCpyg d a b s
  | .jpoll d a => Sys2Proof.Machine.execJpoll d a s
  | .qfen d a => Sys2Proof.Machine.execQfen d a s
  | .mvc d a b ec => Sys2Proof.Machine.execMvc d a b ec s
  | .tdef a b => Sys2Proof.Machine.execTdef a b s
  | .tund a => Sys2Proof.Machine.execTund a s
  | .tqry d a => Sys2Proof.Machine.execTqry d a s
  | .nalloc d => Sys2Proof.Machine.execNalloc d s
  | .nfree a => Sys2Proof.Machine.execNfree a s
  | .nld d a w => Sys2Proof.Machine.execNld d a w s
  | .nst d a w => Sys2Proof.Machine.execNst d a w s
  | .link d a b => Sys2Proof.Machine.execLink d a b s
  | .pushp a b => Sys2Proof.Machine.execPushp a b s
  | .neti d a => Sys2Proof.Machine.execNeti d a s
  | .prodl a b => Sys2Proof.Machine.execProdl a b s
  | .bagcnt d => Sys2Proof.Machine.execBagcnt d s
  | .nrel a => Sys2Proof.Machine.execNrel a s
  | .pfxl d a b => Sys2Proof.Machine.execPfxl d a b s
  | .pfxi d a b => Sys2Proof.Machine.execPfxi d a b s
  | .pfxr a b => Sys2Proof.Machine.execPfxr a b s
  | .kva d a b => Sys2Proof.Machine.execKva d a b s
  | .kvh d a => Sys2Proof.Machine.execKvh d a s
  | .kvrh a b => Sys2Proof.Machine.execKvrh a b s
  | .mskt pd a b => Sys2Proof.Machine.execMskt pd a b s
  | .lqp d a => Sys2Proof.Machine.execLqp d a s
  | .lqc d a => Sys2Proof.Machine.execLqc d a s
  | .dqs d a b => Sys2Proof.Machine.execDqs d a b s
  | .dqr d a => Sys2Proof.Machine.execDqr d a s
  | .latx d a b => Sys2Proof.Machine.execLatx d a b s
  | .trpub a b => Sys2Proof.Machine.execTrpub a b s
  | .wake a => Sys2Proof.Machine.execWake a s
  | .mbnd a => Sys2Proof.Machine.execMbnd a s
  | .mfs d n => Sys2Proof.Machine.execMfs d n s
  | .mts n a => Sys2Proof.Machine.execMts n a s
  | .trap n => Sys2Proof.Machine.execTrap n s
  | .sysc n => Sys2Proof.Machine.execSysc n s
  | .brk n => Sys2Proof.Machine.execBrk n s
  | .tlbi a b => Sys2Proof.Machine.execTlbi a b s
  | .ctxs a b => Sys2Proof.Machine.execCtxs a b s
  | .ctxr a b => Sys2Proof.Machine.execCtxr a b s
  | .taskEnd => Sys2Proof.Machine.execTaskEnd s
  | .yld => Sys2Proof.Machine.execYld s
  | .eret => Sys2Proof.Machine.execEret s
  | .featAcceptWrite => Sys2Proof.Machine.execFeatAcceptWrite s
  | .lotterySeedWrite => Sys2Proof.Machine.execLotterySeedWrite s
  | .registerWrite => Sys2Proof.Machine.execRegisterWrite s
  | .queueNotify => Sys2Proof.Machine.execQueueNotify s
  | .lotteryDraw => Sys2Proof.Machine.execLotteryDraw s
  | .queueSlotRelease => Sys2Proof.Machine.execQueueSlotRelease s
  | .queueLaunch => Sys2Proof.Machine.execQueueLaunch s
  | .queueFeed => Sys2Proof.Machine.execQueueFeed s
  | .stitchSig => Sys2Proof.Machine.execStitchSig s
  | .stitchWait => Sys2Proof.Machine.execStitchWait s
  | .qfence => Sys2Proof.Machine.execQfence s
  | .write => Sys2Proof.Machine.execWrite s
  | .create => Sys2Proof.Machine.execCreate s
  | .destroy => Sys2Proof.Machine.execDestroy s
  | .preempt => Sys2Proof.Machine.execPreempt s
  | .reside => Sys2Proof.Machine.execReside s
  | .fate => Sys2Proof.Machine.execFate s
  | .qbind => Sys2Proof.Machine.execQbind s
  | .qunbind => Sys2Proof.Machine.execQunbind s
  | .stitch => Sys2Proof.Machine.execStitch s
  | .pageres => Sys2Proof.Machine.execPageres s
  | .power => Sys2Proof.Machine.execPower s
  | .trigger => Sys2Proof.Machine.execTrigger s
  | .epoch => Sys2Proof.Machine.execEpoch s
  | .launchWakeArrival => Sys2Proof.Machine.execLaunchWakeArrival s
  | .launchCompletion => Sys2Proof.Machine.execLaunchCompletion s
  | .dispatch => Sys2Proof.Machine.execDispatch s
  | .recordTransition => Sys2Proof.Machine.execRecordTransition s
  | .messageArrival => Sys2Proof.Machine.execMessageArrival s
  | .refusalHoldExpiry => Sys2Proof.Machine.execRefusalHoldExpiry s
  | .sliceInstructionLimit => Sys2Proof.Machine.execSliceInstructionLimit s
  | .sliceStallLimit => Sys2Proof.Machine.execSliceStallLimit s
  | .workListLevelling => Sys2Proof.Machine.execWorkListLevelling s
  | .bagLevelling => Sys2Proof.Machine.execBagLevelling s
  | .waitDeposit => Sys2Proof.Machine.execWaitDeposit s
  | .cbFill => Sys2Proof.Machine.execCbFill s
  | .mmaJob => Sys2Proof.Machine.execMmaJob s
  | .mzeroJob => Sys2Proof.Machine.execMzeroJob s
  | .mldtJob => Sys2Proof.Machine.execMldtJob s
  | .msttJob => Sys2Proof.Machine.execMsttJob s
  | .cpyJob => Sys2Proof.Machine.execCpyJob s
  | .cpygJob => Sys2Proof.Machine.execCpygJob s
  | .mvcJob => Sys2Proof.Machine.execMvcJob s
  | .qfenFenceJob => Sys2Proof.Machine.execQfenFenceJob s
  | .remoteCommandArrival => Sys2Proof.Machine.execRemoteCommandArrival s
  | .completionLink => Sys2Proof.Machine.execCompletionLink s
  | .templateInstantiate => Sys2Proof.Machine.execTemplateInstantiate s
  | .nrelReturn => Sys2Proof.Machine.execNrelReturn s
  | .dqEntryArrival => Sys2Proof.Machine.execDqEntryArrival s
  | .lineEvictionWriteback => Sys2Proof.Machine.execLineEvictionWriteback s
  | .hostSnoop => Sys2Proof.Machine.execHostSnoop s
  | .hostHdmAccess => Sys2Proof.Machine.execHostHdmAccess s
  | .pageResolve => Sys2Proof.Machine.execPageResolve s
  | .resResolve => Sys2Proof.Machine.execResResolve s
  | .dirtyLogMerge => Sys2Proof.Machine.execDirtyLogMerge s
  | .pageMove => Sys2Proof.Machine.execPageMove s
  | .migWindowExpiry => Sys2Proof.Machine.execMigWindowExpiry s
  | .preemptTileSave => Sys2Proof.Machine.execPreemptTileSave s
  | .syscService => Sys2Proof.Machine.execSyscService s
  | .debugResume => Sys2Proof.Machine.execDebugResume s
  | .migrationMove => Sys2Proof.Machine.execMigrationMove s
  | .biDrainStart => Sys2Proof.Machine.execBiDrainStart s
  | .biDrainEnd => Sys2Proof.Machine.execBiDrainEnd s
  | .biRetToOff => Sys2Proof.Machine.execBiRetToOff s
  | .biWakeStart => Sys2Proof.Machine.execBiWakeStart s
  | .homeMapFlipToBi => Sys2Proof.Machine.execHomeMapFlipToBi s
  | .siIdle => Sys2Proof.Machine.execSiIdle s
  | .siRetEntry => Sys2Proof.Machine.execSiRetEntry s
  | .siWake => Sys2Proof.Machine.execSiWake s
  | .dramSrefEntry => Sys2Proof.Machine.execDramSrefEntry s
  | .dramSrefExit => Sys2Proof.Machine.execDramSrefExit s
  | .triggerQdepthWindow => Sys2Proof.Machine.execTriggerQdepthWindow s
  | .triggerTrateWindow => Sys2Proof.Machine.execTriggerTrateWindow s
  | .powerEvaluation => Sys2Proof.Machine.execPowerEvaluation s
  | .budgetRefill => Sys2Proof.Machine.execBudgetRefill s
  | .thermalSample => Sys2Proof.Machine.execThermalSample s
  | .currentLimitReport => Sys2Proof.Machine.execCurrentLimitReport s
  | .junctionProtect => Sys2Proof.Machine.execJunctionProtect s
  | .junctionRelease => Sys2Proof.Machine.execJunctionRelease s
  | .junctionShutdown => Sys2Proof.Machine.execJunctionShutdown s
  | .log => Sys2Proof.Machine.execLog s
  | .sensors => Sys2Proof.Machine.execSensors s
  | .integrals => Sys2Proof.Machine.execIntegrals s
  | .repair => Sys2Proof.Machine.execRepair s
  | .ecc => Sys2Proof.Machine.execEcc s
  | .stage => Sys2Proof.Machine.execStage s
  | .commit => Sys2Proof.Machine.execCommit s
  | .recover => Sys2Proof.Machine.execRecover s
  | .powerOnReset => Sys2Proof.Machine.execPowerOnReset s
  | .deviceReset => Sys2Proof.Machine.execDeviceReset s
  | .mcReset => Sys2Proof.Machine.execMcReset s
  | .scrubEntry => Sys2Proof.Machine.execScrubEntry s
  | .deviceLaunchQueueTake => Sys2Proof.Machine.execDeviceLaunchQueueTake s
  | .powerLoss => Sys2Proof.Machine.execPowerLoss s
  | .debugBreakArm => Sys2Proof.Machine.execDebugBreakArm s
  | .backgroundRequantisation => Sys2Proof.Machine.execBackgroundRequantisation s

end Sys2Proof.Machine
end

