-- ==== Sys2Proof/Machine/Step.lean ====
section
/-! DEFINITION. One step of the package. The turns in the state say who moves next (DESIGN CHOICE log 2); without a turn the moving slot
goes on. A slot's move fetches, decodes and executes one instruction; an event's move is its own step. -/

namespace Sys2Proof.Machine

/-- The moving slot's step: nothing in a slot without a task; a slot whose KVA waits for its copy goes on with that (R282); a task that
has reached its limit is sliced (R53), but for a firmware task, which has no task arena to be saved to (DESIGN CHOICE log 64). A fault of
the fetch leaves the instruction's length unknown, and its frame records 4 bytes: a task that FATE resumes after it goes on at pc + 4
(R63, R317, DESIGN CHOICE log 59). An instruction that is a release by itself drains the partials of its core first (R136, R137). -/
def stepSlot (s : State) : Host.Outcome State Fault Refusal :=
  if !s.active then .next s
  else if let some k := s.copyOf s.cur then .next (s.copyStep k)
  else if 2 ^ 20 ≤ s.act.retired ∧ s.act.priv = false then .next (s.slice s.act.pc)
  else
    match fetchWord s with
    | .error t => .next (s.trapped 4 t)
    | .ok ((len, w), s') =>
      match decode w with
      | none => .next (s'.takeFault len codeIll 0 false 0)
      | some i => exec i (s'.readyFor i)

/-- One step. -/
def step (s : State) : Host.Outcome State Fault Refusal :=
  match s.turns with
  | [] => stepSlot s
  | .slot id :: rest => stepSlot ({ s with turns := rest }.switch id)
  | .event i arg :: rest =>
    if i.encoded then .fault .notAnEvent else exec i { s with turns := rest, arg := arg }

/-- The package with a task ready to run in the moving slot when it holds none: context 1, resident, whose heap covers the
first 2 GiB with every permission and holds its task arena, on an SI core that is ON (DESIGN CHOICE log 9). -/
def State.loadTask (s : State) : State :=
  if s.active then s
  else
    let c := { Ctx.blank with hbase := 0x1F, hlim := 0x80000000, arenaBase := 0x100000, arenaPages := 16 }
    { s with
      ctxs := assocPut s.ctxs 1 c
      si := .on
      act := { Task.fresh 1 0 s.cur.idx 0x10000 0 with source := .ready }
      active := true }

/-- The package with an instruction word stored where step fetches next, in a loaded task (DESIGN CHOICE log 9). -/
def State.withFetchWord (s : State) (nbits w : Nat) : State :=
  let s := { s.loadTask with turns := [] }
  match checkRange s.who .fetch s.act.pc.toNat 4 s with
  | .ok (ls, s') => s'.writeLocs .phys ls (natToBytes 4 (w % 2 ^ nbits))
  | .error _ => s

end Sys2Proof.Machine
end

