-- ==== Sys2Proof/Safety.lean ====
section
/-! DEFINITION. What counts as a safe run, and the terms that the statements use: what a step may answer, which part of the
package an instruction may change, and the invariants. -/

namespace Sys2Proof

namespace Machine

/-! ## Safe runs and invariants -/

/-- Every memory of the package is in canonical form. -/
def State.memoriesWf (s : State) : Bool := s.mem.wf && s.back.wf && s.stash.wf && s.tile.wf

/-- What every state of the package shows of two registers of BAR0: acceptance of the base feature cannot be withdrawn
(R9, R359), and the lottery generator never stands at 0 (R364). -/
def State.registersWf (s : State) : Bool := s.featAcc[0].getLsbD 0 && decide (s.lottery ≠ 0)

/-! ## Rounding, in terms of real numbers -/

/-- The magnitude of a number. -/
def FVal.mag : FVal → ℚ
  | .fin _ m e => m * 2 ^ e
  | _ => 0

/-- The value of a number, with its sign. -/
def FVal.rat (x : FVal) : ℚ := if x.neg then -x.mag else x.mag

/-- k is a magnitude of q units rounded to whole units by a mode, for a number of a sign (R101); under SR with the 16 random bits r, of
which a whole number of units needs none (R104). -/
def RoundsUnits (mode : RMode) (r : Nat) (neg : Bool) (q : ℝ) (k : Nat) : Prop :=
  match mode with
  | .rne => |q - k| ≤ 1 / 2 ∧ (|q - k| = 1 / 2 → k % 2 = 0)
  | .rz => (k : ℝ) ≤ q ∧ q < k + 1
  | .rup => if neg then (k : ℝ) ≤ q ∧ q < k + 1 else q ≤ k ∧ (k : ℝ) < q + 1
  | .rdn => if neg then q ≤ k ∧ (k : ℝ) < q + 1 else (k : ℝ) ≤ q ∧ q < k + 1
  | .sr => q = k ∨ ((∀ j : Nat, q ≠ j) ∧ (k : ℤ) = ⌊(⌊q * 2 ^ 16⌋ : ℝ) / 2 ^ 16 + (r : ℝ) / 2 ^ 16⌋)

/-- What R102 delivers for a rounded magnitude above the greatest finite one, without its sign. -/
def overflowCode (f : Fmt) (mode : RMode) (quant neg : Bool) : Nat :=
  let top := f.maxFinite
  let infinity := (2 ^ f.ebits - 1) * 2 ^ f.mbits
  if f ∈ [.e4m3, .e3m2, .e2m3, .e2m1] ∨ (f = .e5m2 ∧ quant = true) then top
  else match mode with
    | .rne | .sr => infinity
    | .rz => top
    | .rup => if neg then top else infinity
    | .rdn => if neg then infinity else top

/-- y is the number of a sign and a magnitude above zero, rounded once to a format by R101, R102 and R104: t is the exponent of the
magnitude, k the units of the format about it and k' those of its precision with exponents unbounded, by which tininess is judged.
An overflow raises of and nx (4, 1), a tiny inexact result uf and nx (2, 1), another inexact one nx. -/
def RoundsTo (f : Fmt) (mode : RMode) (r : Nat) (quant neg : Bool) (mag : ℝ) (y : Rounded) : Prop :=
  ∀ t : ℤ, (2 : ℝ) ^ t ≤ mag → mag < (2 : ℝ) ^ (t + 1) →
    let u : ℝ := 2 ^ (max t f.emin - f.mbits)
    let v : ℝ := 2 ^ (t - f.mbits)
    let sign := if neg then 2 ^ (f.width - 1) else 0
    ∃ k k' : Nat, RoundsUnits mode r neg (mag / u) k ∧ RoundsUnits mode r neg (mag / v) k' ∧
      if ((decodeF f f.maxFinite).mag : ℝ) < k * u then y = ⟨sign + overflowCode f mode quant neg, 5⟩
      else y.bits < 2 ^ f.width ∧ y.bits / 2 ^ (f.width - 1) = (if neg then 1 else 0) ∧
        (∃ m e, decodeF f y.bits = .fin neg m e ∧ (((m : ℚ) * 2 ^ e : ℚ) : ℝ) = k * u) ∧
        y.flags = (if mag = k * u then 0 else if (k' : ℝ) * v < 2 ^ f.emin then 3 else 1)

/-! ## Completion -/

/-- The instruction of four bytes completes and its whole effect is to write v to scalar register d, discarded when d is
x0, past the word. -/
def Writes (i : Instr) (s : State) (d : Reg) (v : Word) : Prop := exec i s = .next ((s.setX d v).advance 4)

/-- The instruction of four bytes completes with no effect but to move past its word. -/
def Passes (i : Instr) (s : State) : Prop := exec i s = .next (s.advance 4)

/-- The instruction raises a fault of a code at an address: the task takes it, and nothing else happens. -/
def Raises (i : Instr) (s : State) (code addr : Nat) : Prop := exec i s = .next (s.takeFault 4 code addr false 0)

/-- A load of n bytes at va: on a range that may be read, write puts the little-endian number read into the package, with
poison counted, or raised under trap-on-poison at its lowest address (R145, R320); a range that fails its check raises its fault. -/
def LoadsAs (i : Instr) (s : State) (va n : Nat) (write : State → Nat → State) : Prop :=
  (∀ ls s', checkRange s.who .load va n s = .ok (ls, s') →
    (s'.anyPoison ls = false → exec i s = .next ((write s' (bytesToNat (s'.readLocs ls))).advance 4)) ∧
    (s'.anyPoison ls = true → s'.trapsPoison = false →
      exec i s = .next ((write (s'.countPoison s.act.ctx s.act.lcore) (bytesToNat (s'.readLocs ls))).advance 4)) ∧
    (∀ a, s'.poisonVa va ls = some a → s'.trapsPoison = true → exec i s = .next (s.takeFault 4 codePois a true 0))) ∧
  (∀ code addr, checkRange s.who .load va n s = .error (.fault code addr false 0) → Raises i s code addr)

/-- The package after a plain store of bytes whose check found the locations ls: dropped and counted on a discarded page
(R142), and noted at the stash port that a window address leads to (R146). -/
def State.stored (s : State) (va : Nat) (bs : List Byte) (ls : List (Loc × Nat)) : State :=
  let t := ((if ls.any (fun p => p.1.discarded) then s.countDropped s.who ls else s).writeLocs s.who ls bs).countPort s.who ls
  match portOf s.who ls with
  | some (owner, off) =>
    t.tracePort s.act.ctx s.act.lcore s.cur.idx owner off (s.lcore s.act.ctx owner).portSeq (decide (va < localBase))
  | none => t

/-- A store of bytes at va: on a range that may be written it is made; a range that fails its check raises its fault. -/
def StoresAs (i : Instr) (s : State) (va : Nat) (bs : List Byte) : Prop :=
  (∀ ls s', checkRange s.who .store va bs.length s = .ok (ls, s') → exec i s = .next ((s'.stored va bs ls).advance 4)) ∧
  (∀ code addr, checkRange s.who .store va bs.length s = .error (.fault code addr false 0) → Raises i s code addr)

/-- Whether a store at va, of which some bytes lie at locations ls, is entered in the stash trace ring: it arrives at the port of another
core through the remote window, with the ring enabled and strace accepted (R146). -/
def State.traces (s : State) (va : Nat) (ls : List (Loc × Nat)) : Bool :=
  match portOf s.who ls, s.ctx? s.act.ctx with
  | some (owner, _), some c => decide (va < localBase) && c.traceOn && s.feature 3 && s.act.lcore != owner
  | _, _ => false

/-! ## Frames -/

/-- Only the scalar registers, the program counter, the count of retired instructions and the pages kept for the instruction (R318)
differ. In the frames below too the count stands for those two. -/
def State.sameButX (s t : State) : Prop :=
  t = { s with act := { s.act with x := t.act.x, pc := t.act.pc, retired := t.act.retired, pinned := t.act.pinned } }

/-- Only the predicate registers, the program counter and the count of retired instructions differ. -/
def State.sameButP (s t : State) : Prop :=
  t = { s with act := { s.act with p := t.act.p, pc := t.act.pc, retired := t.act.retired, pinned := t.act.pinned } }

/-- Only the vector registers, FRM, the program counter and the count of retired instructions differ. -/
def State.sameButV (s t : State) : Prop :=
  t = { s with act := { s.act with v := t.act.v, frm := t.act.frm, pc := t.act.pc, retired := t.act.retired, pinned := t.act.pinned } }

/-- Every register of the task is as before, but for the program counter and the count of retired instructions. -/
def State.sameRegisters (s t : State) : Prop :=
  t.act = { s.act with pc := t.act.pc, retired := t.act.retired, pinned := t.act.pinned } ∧ t.cur = s.cur ∧ t.active = s.active

/-! ## Vector results -/

/-- Element e of d in u is f e where pg makes e active and what it was elsewhere; every other vector register is as it was
(R199). -/
def State.elementsAre (s u : State) (t : ElemType) (d : Reg) (pg : PReg) (f : Nat → Nat) : Prop :=
  (∀ r, r ≠ d → u.vreg r = s.vreg r) ∧
  ∀ e < s.elems (elemWidth t), u.elem t d e = if activeAt (s.preg pg) (elemWidth t) e then f e else s.elem t d e

/-- Only the vector registers, FRM, the program counter and the count differ, and the generators of logical cores. -/
def State.sameButVG (s t : State) : Prop :=
  t = { s with
    act := { s.act with v := t.act.v, frm := t.act.frm, pc := t.act.pc, retired := t.act.retired, pinned := t.act.pinned }
    ctxs := t.ctxs }

/-- The generator of the running logical core (R113). -/
def State.gen (s : State) : Gen := (s.lcore s.act.ctx s.act.lcore).genState s.act.lcore

/-- The generator went on by k steps from s to u: nowhere when k is 0 (R116). -/
def State.drew (s u : State) (k : Nat) : Prop :=
  (k = 0 → u.ctxs = s.ctxs) ∧ (k ≠ 0 → (s.ctx? s.act.ctx).isSome = true → u.gen = s.gen.advance k)

/-- The instruction of four bytes completes: the active elements of d become f e, no flag is set and nothing else changes. -/
def VectorGives (i : Instr) (s : State) (t : ElemType) (d : Reg) (pg : PReg) (f : Nat → Nat) : Prop :=
  ∃ u, exec i s = .next u ∧ s.sameButV u ∧ u.act.frm = s.act.frm ∧ u.act.pc = s.act.pc + 4 ∧ s.elementsAre u t d pg f

/-- As VectorGives with the pattern and the flags of each active element, the flags raised in FRM (R105). -/
def VectorRaises (i : Instr) (s : State) (t : ElemType) (d : Reg) (pg : PReg) (g : Nat → Rounded) : Prop :=
  ∃ u, exec i s = .next u ∧ s.sameButV u ∧ u.act.pc = s.act.pc + 4 ∧
    u.act.frm = frmRaise s.act.frm
      (activeFlags (s.preg pg) (elemWidth t) (s.elems (elemWidth t)) fun e => (g e).flags) ∧
    s.elementsAre u t d pg fun e => (g e).bits % 2 ^ elemWidth t

/-- As VectorRaises with an exact result for each active element, rounded once under FRM.mode; under SR the instruction
draws one step for each eight positions (R116, R201). -/
def VectorRounds (i : Instr) (s : State) (t : ElemType) (d : Reg) (pg : PReg) (g : Nat → Formed) : Prop :=
  let n := s.elems (elemWidth t)
  let steps := if s.mode = .sr then (n + 7) / 8 else 0
  let y (e : Nat) : Rounded := (g e).round (elemFmt t) s.mode (srBits (s.gen.draw steps) e)
  ∃ u, exec i s = .next u ∧ s.sameButVG u ∧ s.drew u steps ∧ u.act.pc = s.act.pc + 4 ∧
    u.act.frm = frmRaise s.act.frm (activeFlags (s.preg pg) (elemWidth t) n fun e => (y e).flags) ∧
    s.elementsAre u t d pg fun e => (y e).bits % 2 ^ elemWidth t

/-- The instruction of four bytes completes: byte lane k of predicate pd becomes f k, discarded when pd is p0, the flags are
raised in FRM, and nothing else changes (R68, R199). -/
def PredicateGives (i : Instr) (s : State) (pd : PReg) (flags : FFlags) (f : Nat → Bool) : Prop :=
  ∃ u, exec i s = .next u ∧ u.act.pc = s.act.pc + 4 ∧ u.act.frm = frmRaise s.act.frm flags ∧
    u = { s with act := { s.act with p := u.act.p, frm := u.act.frm, pc := u.act.pc, retired := u.act.retired, pinned := u.act.pinned } } ∧
    (∀ q, q ≠ pd → u.preg q = s.preg q) ∧ (pd ≠ 0 → ∀ k < s.vw / 8, bitOf (u.preg pd) k = f k)

/-- Whether byte lane k is the lowest lane of an element of type t that pg makes active and that a test admits (R199). -/
def State.laneWhere (s : State) (t : ElemType) (pg : PReg) (test : Nat → Bool) (k : Nat) : Bool :=
  let b := elemWidth t / 8
  decide (k % b = 0) && activeAt (s.preg pg) (elemWidth t) (k / b) && test (k / b)

/-- The 16-bit instruction does what the 32-bit one does, but for the program counter, which moves by two (R65). -/
def ShortOf (short long : Instr) (s : State) : Prop :=
  ∃ u, exec long s = .next u ∧ exec short s = .next (u.setPc (s.act.pc + 2))

/-- A vector load whose active elements have the addresses f e: a range that may be read without changing a translation
gives its bytes, little-endian; in general the checks of every element come first, and the first that fails is the fault
raised; poison is counted once, or raised under trap-on-poison at its lowest address (R145, R320); an active element without an
address reads zero (R217, R220). -/
def VectorLoads (i : Instr) (s : State) (t : ElemType) (d : Reg) (pg : PReg) (f : Nat → Option Nat) : Prop :=
  let n := elemWidth t / 8
  let acc := s.accesses t pg f
  ((∀ p ∈ acc, p.2 < 2 ^ 48 ∧ ∃ ls, checkRange s.who .load p.2 n s = .ok (ls, s) ∧ s.anyPoison ls = false) →
    ∃ v : Nat → Nat, VectorGives i s t d pg v ∧
      (∀ e va ls, f e = some va → checkRange s.who .load va n s = .ok (ls, s) → v e = bytesToNat (s.readLocs ls)) ∧
      (∀ e, f e = none → v e = 0)) ∧
  (∀ s1 s2 vs, checkAccesses .load n (byAddress acc) s = .ok ((), s1) → readAccesses n acc s1 = .ok ((vs, none), s2) →
    ∃ u, exec i s = .next u ∧ s2.sameButV u ∧ u.act.frm = s.act.frm ∧ u.act.pc = s.act.pc + 4 ∧
      s.elementsAre u t d pg fun e => (assocGet vs e).getD 0 % 2 ^ elemWidth t) ∧
  (∀ s1 s2 vs a, checkAccesses .load n (byAddress acc) s = .ok ((), s1) → readAccesses n acc s1 = .ok ((vs, some a), s2) →
    (s2.trapsPoison = true → exec i s = .next (s.takeFault 4 codePois a true 0)) ∧
    (s2.trapsPoison = false →
      ∃ u, exec i s = .next u ∧ (s2.countPoison s.act.ctx s.act.lcore).sameButV u ∧ u.act.frm = s.act.frm ∧
        u.act.pc = s.act.pc + 4 ∧ s.elementsAre u t d pg fun e => (assocGet vs e).getD 0 % 2 ^ elemWidth t)) ∧
  (∀ code addr, checkAccesses .load n (byAddress acc) s = .error (.fault code addr false 0) → Raises i s code addr)

/-- A vector store whose active elements have the addresses f e: the checks of every element come first; then the elements
are stored in ascending order; a check that fails raises its fault without any effect (R217). The contiguous form clears the poison
of the lines that its elements cover whole (R145). -/
def VectorStores (i : Instr) (s : State) (t : ElemType) (r : Reg) (pg : PReg) (contiguous : Bool) (f : Nat → Option Nat) : Prop :=
  let n := elemWidth t / 8
  let acc := s.accesses t pg f
  let whole : Op Unit := if contiguous then clearWhole (joinAccesses n acc) else pure ()
  (∀ s1 s2 s3, checkAccesses .store n (byAddress acc) s = .ok ((), s1) → storeAccesses n (s.elem t r) acc s1 = .ok ((), s2) →
    whole s2 = .ok ((), s3) → exec i s = .next (s3.advance 4) ∧ s.sameRegisters s3) ∧
  (∀ code addr, checkAccesses .store n (byAddress acc) s = .error (.fault code addr false 0) → Raises i s code addr)

/-- Only the cached translations, the bytes of memory and what is known of partials and of lines stored through a map differ: what a
check of addresses may change (R136, R162, R312). -/
def State.sameButTranslation (s t : State) : Prop :=
  t = { s with tlb := t.tlb, mem := t.mem, gathers := t.gathers, dirtyMaps := t.dirtyMaps }

/-- Whether a physical address lies in a page-table entry that a cached translation or a dirty log names: the accessed and
dirty bits there are written by the hardware itself (R312, R314). -/
def State.inTableEntry (s : State) (pa : Nat) : Prop :=
  (∃ e ∈ s.tlb, e.addr ≤ pa ∧ pa < e.addr + 8) ∨ (∃ p ∈ s.cores, ∃ a ∈ p.2.dirty, a ≤ pa ∧ pa < a + 8)

/-- Whether a physical address lies in one of several located pieces. -/
def inPieces (ls : List (Loc × Nat)) (pa : Nat) : Prop :=
  ∃ p ∈ ls, match p.1 with
    | .mem at_ _ _ _ _ _ => at_ ≤ pa ∧ pa < at_ + p.2
    | .stash _ => False

/-- Whether a stash key lies in one of several located pieces. -/
def inStashPieces (ls : List (Loc × Nat)) (key : Nat) : Prop :=
  ∃ p ∈ ls, match p.1 with
    | .stash at_ => at_ ≤ key ∧ key < at_ + p.2
    | .mem .. => False

/-! ## Records and tasks -/

/-- The running task may use the record r at va (R38, R177): it is aligned, may be read and written at the locations ls, is
not poisoned, is in a state from UNBOUND to DONE, is of the task's context, and holds zero where it must; s' is the
package after the check. -/
def State.recordAt (s : State) (va : Nat) (r : TaskRecord) (ls : List (Loc × Nat)) (s' : State) : Prop :=
  va % 32 = 0 ∧ checkRange s.who .atomic va 32 s = .ok (ls, s') ∧ s'.anyPoison ls = false ∧
    r = TaskRecord.ofNat (bytesToNat (s'.readLocs ls)) ∧ 1 ≤ r.state ∧ r.state ≤ 7 ∧ r.ctx = s.act.ctx ∧
    recordZeros (bytesToNat (s'.readLocs ls)) = true

/-- The record at va lies in a poisoned line, and poison does not trap (R177). -/
def State.recordLost (s : State) (va : Nat) (s' : State) : Prop :=
  ∃ ls, va % 32 = 0 ∧ checkRange s.who .atomic va 32 s = .ok (ls, s') ∧ s'.anyPoison ls = true ∧ s'.trapsPoison = false

/-- The package after join_update of a record (R40): the record written, its task queued when it fires, ERRS.join of a logical
core set when the counter saturates or falls below 0. -/
def State.joinedAt (s : State) (va : Nat) (r : TaskRecord) (ls : List (Loc × Nat)) (delta : Int) (errs : Nat) : State :=
  let u := (s.writeLocs s.who ls (r.joined delta).bytes).countPort s.who ls
  let v := if r.fires delta then u.fire s.act.ctx (canonVa s.who va) (r.joined delta) else u
  if r.joinErr delta then v.setErr s.act.ctx errs errJoin else v

/-- The package after bind of a record of a context (R40): the record written, its task queued when it was FIRED_UNBOUND. -/
def State.boundOf (s : State) (w : Who) (id va : Nat) (r : TaskRecord) (ls : List (Loc × Nat)) (code frame : Nat) : State :=
  let u := (s.writeLocs w ls (r.bound code frame).bytes).countPort w ls
  if r.state = stFiredUnbound then u.fire id (canonVa w va) (r.bound code frame) else u

/-- The package after the running task bound a record. -/
def State.boundAt (s : State) (va : Nat) (r : TaskRecord) (ls : List (Loc × Nat)) (code frame : Nat) : State :=
  s.boundOf s.who s.act.ctx va r ls code frame

/-- The package after the running task registered a wait and ended (R184). -/
def State.waiting (s : State) (kind : WaitKind) (xb : Nat) (got : Option (List Byte × List Byte)) : State :=
  (s.modCtx s.act.ctx fun c =>
    { c with waits := c.waits ++ [⟨kind, canonVa s.who xb, s.act.lcore, got⟩] }).endTask (some (canonVa s.who xb))

/-! ## Engine commands and jobs -/

/-- The issue of an engine command whose checks have passed and left the package s' (R225): it stalls, with no effect, while
job number j - 64 of its table is pending, or while a command that declares a class finds the budget at 0; else its cost
in nJ is debited, it takes the next number j of its table, its entries are made under that number, and the handle goes
to xd. -/
def Issues (i : Instr) (s s' : State) (d : Option Reg) (enter : Nat → State → State) (cost : Option Nat) : Prop :=
  let id := s.act.ctx
  let l := s.act.lcore
  let slot := s.cur.idx
  let t := (s'.lcore id l).table slot
  let full := ∃ w, assocGet t.status ((t.next + 2 ^ 32 - 64) % 2 ^ 32) = some w ∧ w.toNat % 16 = 0
  let dry := cost.isSome = true ∧ ∃ c, s.ctx? id = some c ∧ ebudFree c.ebud = false ∧ c.ebud.toNat % 2 ^ 48 = 0
  let u := match cost with
    | some n => s'.modCtx id fun c => { c with ebud := ebudDebit c.ebud n }
    | none => s'
  let v := enter t.next (u.modCore id l fun k => { k with jobs := assocPut k.jobs slot t.take })
  (full ∨ dry → exec i s = .next s) ∧
  (¬full → ¬dry → exec i s = .next ((match d with
    | some r => v.setX r (jobHandle l slot t.next)
    | none => v).advance 4))

/-- An operation of a job that has no access of an earlier attempt to resume after goes from s to u with result a, with no flag;
pois says whether it met poison. -/
def EngMeets {α : Type} (op : Eng α) (s : State) (a : α) (pois : Bool) (u : State) : Prop :=
  ∀ flags met made, ∃ made', op.run ⟨s, flags, met, [], made⟩ = (.ok a, ⟨u, flags, met || pois, [], made'⟩)

/-- As EngMeets, with no poison. -/
def EngGives {α : Type} (op : Eng α) (s : State) (a : α) (u : State) : Prop := EngMeets op s a false u

/-- A read of an element by a job gives e, poisoned as e says, and changes nothing, whatever the tiles hold. -/
def EngReads (op : Eng Elem) (s : State) (e : Elem) : Prop :=
  ∀ tile pois, let u : State := { s with tile := tile, tilePoison := pois }; EngMeets op u e e.pois u

/-- The job at the head of the queue that an event names, which may be performed: it waits for nothing (R141, R228, R236), and
resumes after no access of an earlier attempt. -/
def State.heads (s : State) (j : Job) : Prop :=
  (s.queueOf s.arg.eng).head? = some j ∧ j.waiting = false ∧ s.splitOpen s.arg.eng = false ∧ j.past = []

/-- The package after the running task loaded the bytes at ls: the poison that it met is counted (R145). -/
def State.loaded (s : State) (ls : List (Loc × Nat)) : State :=
  if s.anyPoison ls then s.countPoison s.act.ctx s.act.lcore else s

/-- The instruction meets the poison that the bytes at ls, from va on, hold, and traps on it at its lowest address (R145, R320). -/
def TrapsOn (i : Instr) (s : State) (va : Nat) (ls : List (Loc × Nat)) : Prop :=
  ∀ a, s.poisonVa va ls = some a → s.trapsPoison = true → exec i s = .next (s.takeFault 4 codePois a true 0)

/-- The package after bytes were written at va by a device or an engine: dropped and counted on a discarded page (R142). -/
def State.put (s : State) (w : Who) (ls : List (Loc × Nat)) (bs : List Byte) : State :=
  ((if ls.any (fun p => p.1.discarded) then s.countDropped w ls else s).writeLocs w ls bs).countPort w ls

/-- A copy of n bytes goes from s to u: the source may be read and holds no poison, and the destination may be written. -/
def Copies (w : Who) (dst src n : Nat) (s u : State) : Prop :=
  ∃ from_ s' into_ s'', checkRange w .load src n s = .ok (from_, s') ∧ s'.anyPoison from_ = false ∧
    checkRange w .store dst n s' = .ok (into_, s'') ∧ u = s''.put w into_ (s'.readLocs from_)

/-- Only the tiles differ. -/
def State.sameButTiles (s t : State) : Prop := t = { s with tile := t.tile, tilePoison := t.tilePoison }

/-- Element (li, j) of a tile. -/
def State.tileElem (s : State) (j : Job) (slot n li col : Nat) : Nat := s.tile.readNat (tileAt j.ctx j.clus slot n li col) 4

/-- Whether the line of element (li, j) of a tile is poisoned. -/
def State.tileBad (s : State) (j : Job) (slot n li col : Nat) : Bool :=
  s.tilePoison.contains (tileAt j.ctx j.clus slot n li col / 64)

/-- Element (li, j) of a tile, as a job that reads its slots finds it: all ones in a poisoned line (R145). -/
def State.tileRead (s : State) (j : Job) (slot n li col : Nat) : Nat :=
  if s.tileBad j slot n li col then 0xFFFFFFFF else s.tileElem j slot n li col

/-- The rows that a queue entry performs of a tile of m rows, and the row of the whole tile that its first one is (R236). -/
def Job.rows (j : Job) (m : Nat) : Nat := if j.half = .whole then m else 128

def Job.firstRow (j : Job) : Nat := if j.half = .mate then 128 else 0

/-- The lines of a tile of m rows that hold poison are those with an element that bad admits (R145). -/
def State.tilePoisonIs (s : State) (j : Job) (slot m n : Nat) (bad : Nat → Nat → Prop) : Prop :=
  ∀ i < m, ∀ col < n, s.tileBad j slot n i col = true ↔ ∃ k < n, k / 16 = col / 16 ∧ bad i k

/-- Every tile byte outside a tile is as before. -/
def State.sameOtherTiles (s t : State) (j : Job) (slot m n : Nat) : Prop :=
  ∀ key, (∀ i < m, ∀ col < n, ∀ k < 4, key ≠ tileAt j.ctx j.clus slot n i col + k) → t.tile.read key = s.tile.read key

/-! ## Nodes -/

/-- A node of a context at n, of words w, as somebody may access it: it is aligned and in the node chunks; its line, at the
physical address pa, is not poisoned, is of kind SO or RC, and holds no page-table entry; and every word may be read and
written at the location loc without changing a translation, its page stored under the key, if any (R250, R254, R375). -/
def State.nodeOf (s : State) (who : Who) (id n : Nat) (w : Nat → Nat) (pa : Nat) (loc : Nat → Loc)
    (key : Option (BitVec 256)) : Prop :=
  n % 64 = 0 ∧ pa % 64 = 0 ∧ (∃ c, s.ctx? id = some c ∧ c.inNodes n = true) ∧ pa / 64 ∉ s.poison ∧
    (∀ k < 64, ¬s.inTableEntry (pa + k)) ∧
    ∀ k < 8, (∃ kind pte, kind ≠ 2 ∧ loc k = .mem (pa + 8 * k) kind false pte none key) ∧
      (∀ acc, acc ≠ .fetch → checkRange who acc (n + 8 * k) 8 s = .ok ([(loc k, 8)], s)) ∧
      bytesToNat (s.mem.readPlain key (pa + 8 * k) 8) = w k ∧ w k < 2 ^ 64

/-- A node of the running task's context. -/
def State.nodeAt (s : State) (n : Nat) (w : Nat → Nat) (pa : Nat) (loc : Nat → Loc) (key : Option (BitVec 256)) : Prop :=
  s.nodeOf s.who s.act.ctx n w pa loc key

/-- A header of a node that is live: lv set, dd clear (R251, R253). -/
def liveHeader (h : Nat) : Prop := bitOf h 40 = true ∧ bitOf h 39 = false

/-- A live node's port p may be linked: p is a port of it, FREE, and no completion link is registered (R262). -/
def linkable (w : Nat → Nat) (p : Nat) : Prop :=
  liveHeader (w 0) ∧ bitOf (w 0) 38 = false ∧ p ≤ bits (w 0) 51 50 ∧ bits (w (p + 1)) 62 61 = 0

/-- The package after a pair of a cluster's bag was placed (R257), with places in the arena for what no longer fits on chip (R43):
of the node p first, of tag tp, with the end e, whose node has tag tq; a fault record names both when no production matches. -/
def State.pushed (s : State) (c : Ctx) (id cl p tp owner : Nat) (e : End) (tq : Nat) : State :=
  let place (pr : Pair) : State := (s.modBag id cl fun b =>
    if pr.prod.hw then { b with templates := b.templates ++ [pr] } else { b with tasks := b.tasks ++ [pr] }).spillRoom id
      (s.dieOfCore id (Config.coreOf cl 0))
  let none_ : State := s.postFault id owner 0 3 codeProt 0 p e.word 0
  match e with
  | .imm v =>
    match c.production tp 1 with
    | some pr => place ⟨p, .inr (BitVec.ofInt 64 (signedAt 61 v)), pr, false⟩
    | none => none_
  | .port q _ =>
    match c.production tp tq, c.production tq tp with
    | some pr, _ => place ⟨p, .inl q, pr, false⟩
    | none, some pr => place ⟨q, .inl p, pr, true⟩
    | none, none => none_

end Machine

/-- One step answers a next state. -/
def Safe.step (s : Machine.State) : Prop := ∃ t, Machine.step s = .next t

/-- n steps answer a next state. -/
def Safe.run (n : Nat) (s : Machine.State) : Prop := ∃ t, Host.Core.run core n s = .next t

end Sys2Proof
end

