-- ==== Sys2Proof/Certificates/Slice0/Obligations.lean ====
section
/-! DEFINITION. The statements for the provers. Each says of the model what rules of the spec say of the machine; its
docstring names them. `Writes`, `Passes` and `Raises` are the completions and faults of `Safety`: each is an equation
`exec i s = .next t` with t written out. -/

open Sys2Proof Sys2Proof.Machine

/-! ## Encoding, fetching and stepping -/

/-- Decoding the word of a well-formed instruction gives the instruction back, with every operand (R62 to R87). -/
def Obligations.EncodeThenDecode : Prop :=
  ∀ (i : Instr) (w : Nat), i.WellFormed → encode i = some w → decode w = some i

/-- Encoding what the decoder read gives back every bit of the word: 16 of a word whose bit 0 is 0, else 32 (R62, R71). -/
def Obligations.DecodeThenEncode : Prop :=
  ∀ (i : Instr) (w : Nat), decode w = some i → encode i = some (if w % 2 = 0 then w % 2 ^ 16 else w % 2 ^ 32)

/-- Words written out from the encoding tables of R65 to R87 decode to the instructions that they stand for, and reserved
ones to none. -/
def Obligations.SpecWordsDecode : Prop :=
  decode 0b0101_00011_00101_1_0 = some (.cVaddi 3 5 true) ∧
  decode 0b000001_00001_00010_00011_00000_00000_1 = some (.add 1 2 3) ∧
  decode 0b000010_11111_00000_111111111111111_1 = some (.addi 31 0 0x7FFF) ∧
  decode 0b010011_00100_00101_111111111111110_1 = some (.beq 4 5 0x7FFE) ∧
  decode 0b011011_00111_01000_110_000000000100_1 = some (.ld .z32 7 8 4) ∧
  decode 0b011100_00111_01000_011_111111111000_1 = some (.st .b64 7 8 0xFF8) ∧
  decode 0b011110_00001_00010_00011_1_0_1_00_00000_1 = some (.amoAdd 1 2 3 true false true) ∧
  decode 0b100000_00001_00010_00011_00000_00000_1 = some (.spawn 1 2 3) ∧
  decode 0b101001_00001_00010_00011_010_0000_110_1 = some (.vadd 1 2 3 2 .f32) ∧
  decode 0b111110_00001_00000_00000_00000_00001_1 = none ∧
  decode 0b111110_00000_00000_00000_00000_01011_1 = none ∧
  decode 0b000001_00001_00010_00011_00001_00000_1 = none ∧
  decode 0 = none

/-- When the moving slot runs a task, no KVA of it waits for its copy and no turn waits, a step fetches the word at the
program counter and executes what it decodes to; the package past the fetch differs from the one before in translation alone
(R62, R63). What R137 lists as a release is one by itself: what the core holds in partials on pages other than UN meets memory
before it (R134, R136); nothing else is. That firmware is not sliced is the model's choice (log 64). -/
def Obligations.StepRunsDecoded : Prop :=
  (∀ (s s' : State) (len w : Nat) (i : Instr),
    s.turns = [] → s.active = true → s.copyOf s.cur = none → s.act.retired < 2 ^ 20 ∨ s.act.priv = true →
      fetchWord s = .ok ((len, w), s') → decode w = some i →
      s.sameButTranslation s' ∧ len = (if w % 2 = 0 then 2 else 4) ∧
      (releasesByItself i = false → step s = exec i s') ∧
      (releasesByItself i = true → step s = exec i (s'.drain s'.cur.core false))) ∧
  (∀ (d a b c : Reg) (m ec : Fin 4) (n : Fin 64), ∀ i ∈ [Instr.send d a b, .sendr d a b c, .spawn d a b, .spawnj d a b, .jdec a b,
      .jadd a b, .bind a b d, .launch d a, .taskEnd, .endj a, .endwJoin a b, .endwJob a b, .endwCb a b, .endwBar a b, .endwFeed a b,
      .endwRoom a b, .endwDq a b, .bara a, .barm a b, .kva d a b, .dqs d a b, .lqp d a, .trpub a b, .mma a b c m n ec,
      .mmag a b c m n ec, .mzero d a, .mldt d a b, .mstt d a b, .msend d a b, .cpy d a b ec, .cpyg d a b, .qfen d a, .mvc d a b ec],
    releasesByItself i = true) ∧
  (∀ (d a b : Reg) (sc : Scope) (k : FenceKind), ∀ i ∈ [Instr.add d a b, .wlpush a b, .kvh d a, .fence sc k, .fpop d a, .jpoll d a],
    releasesByItself i = false)

/-- A turn that names a slot makes it the moving one and steps it; a turn that names an event makes it (log 2). -/
def Obligations.TurnsAreTaken : Prop :=
  ∀ (s : State) (rest : List Turn),
    (∀ id, s.turns = .slot id :: rest → step s = stepSlot ({ s with turns := rest }.switch id)) ∧
    (∀ i arg, s.turns = .event i arg :: rest → i.encoded = false → step s = exec i { s with turns := rest, arg := arg }) ∧
    (∀ i arg, s.turns = .event i arg :: rest → i.encoded = true → step s = .fault .notAnEvent)

/-- What a moving slot does when it executes nothing: a fetch that fails raises its fault, a word that is no instruction
raises ILL, a task that has retired 2^20 instructions is sliced, unless it is firmware's (the model's choice, log 64), a slot
whose KVA waits for its copy goes on with that, and a slot without a task stands (R53, R63, R64, R282). A fetch that fails has
the length 4, the model's choice (log 59). -/
def Obligations.StepWithoutInstruction : Prop :=
  ∀ s : State, s.turns = [] →
    (s.active = false → step s = .next s) ∧
    (∀ k, s.active = true → s.copyOf s.cur = some k → step s = .next (s.copyStep k)) ∧
    (s.active = true → s.copyOf s.cur = none → 2 ^ 20 ≤ s.act.retired → s.act.priv = false →
      step s = .next (s.slice s.act.pc)) ∧
    (s.active = true → s.copyOf s.cur = none → s.act.retired < 2 ^ 20 ∨ s.act.priv = true →
      (∀ e, fetchWord s = .error e → step s = .next (s.trapped 4 e)) ∧
      (∀ len w s', fetchWord s = .ok ((len, w), s') → decode w = none →
        step s = .next (s'.takeFault len codeIll 0 false 0)))

/-- Every instruction and every event answers a next state: a step is never refused, and it stops for nothing but a turn
that names an encoded instruction as an event. -/
def Obligations.EveryStepAnswers : Prop :=
  (∀ (i : Instr) (s : State), ∃ t, exec i s = .next t) ∧
  (∀ s : State, (∃ t, step s = .next t) ∨
    (step s = .fault .notAnEvent ∧ ∃ i arg rest, s.turns = .event i arg :: rest ∧ i.encoded = true))

/-! ## State -/

/-- The package at reset. What the rules give: no context, the BI off, acceptance of the base feature alone, the seed of the
lottery, the idle interval, every queue unbound, and no instruction in any slot (R9, R332, R349, R359, R364, R372). That the
cap of part power is then 45000 mW is the model's choice (log 16). -/
def Obligations.ResetValues : Prop :=
  State.reset.active = false ∧ State.reset.parked = [] ∧ State.reset.ctxs = [] ∧ State.reset.queues = [] ∧
  State.reset.bi = .off ∧ State.reset.featAcc[0] = 1 ∧ State.reset.featAcc[1] = 0 ∧ State.reset.featLock = false ∧
  State.reset.lottery = 0x9E3779B97F4A7C15 ∧ State.reset.power.cap = 45000 ∧ State.reset.power.idle = 1000 ∧
  State.reset.scrb = 0 ∧ State.reset.mc.status = 0 ∧ step State.reset = .next State.reset

/-- The invariants hold at reset. -/
def Obligations.InvariantsHoldAtReset : Prop := State.reset.memoriesWf = true ∧ State.reset.registersWf = true

/-- Every step keeps every memory in its canonical form, so that equal memories are equal data (log 1). -/
def Obligations.MemoriesStayCanonical : Prop :=
  ∀ s t : State, s.memoriesWf = true → step s = .next t → t.memoriesWf = true

/-- No step withdraws the acceptance of the base feature or brings the lottery generator to 0 (R9, R359, R364). -/
def Obligations.RegistersStaySound : Prop :=
  ∀ s t : State, s.registersWf = true → step s = .next t → t.registersWf = true

/-- An instruction of a task in user mode stays in user mode, and changes no register of firmware, of the front end, of the
power and management controllers or of the security unit, no tile of any context, no other slot's task, and nothing of another
context's record, which holds its registers, logical cores, queues and tables (R30, R64, R330). Of memory and of stashes it
says nothing. -/
def Obligations.UserTaskIsolation : Prop :=
  ∀ (i : Instr) (s t : State), i.encoded = true → s.act.priv = false → exec i s = .next t →
    t.act.priv = false ∧ t.fw = s.fw ∧ t.power = s.power ∧ t.mc = s.mc ∧ t.keys = s.keys ∧ t.scrub = s.scrub ∧
    t.queues = s.queues ∧ t.slots = s.slots ∧ t.lottery = s.lottery ∧ t.featAcc = s.featAcc ∧ t.store = s.store ∧
    t.tile = s.tile ∧ t.tilePoison = s.tilePoison ∧ t.parked = s.parked ∧ ∀ id, id ≠ s.act.ctx → t.ctx? id = s.ctx? id

/-- A scalar write changes the register it names and no other, is discarded at x0, and leaves the rest of the package as it
was but for the program counter and the count of retired instructions (R68). -/
def Obligations.ScalarWriteFrame : Prop :=
  ∀ (s : State) (d : Reg) (v : Word), let t := (s.setX d v).advance 4
    (∀ r, t.x r = if r = d ∧ d ≠ 0 then v else s.x r) ∧ t.x 0 = 0 ∧ s.sameButX t ∧
      t.act.pc = s.act.pc + 4 ∧ t.act.retired = s.act.retired + 1

/-- A vector and a predicate write change the register they name over the core's VW bits and no other; p0 reads all ones and
discards what is written to it (R68, R198). -/
def Obligations.VectorWriteFrame : Prop :=
  ∀ (s : State) (d : Reg) (p : PReg) (v : Nat),
    (∀ r, (s.setV d v).vreg r = if r = d then v % 2 ^ s.vw else s.vreg r) ∧
    (∀ q, (s.setP p v).preg q = if q = p ∧ p ≠ 0 then v % 2 ^ (s.vw / 8) else s.preg q) ∧
    (s.setP p v).preg 0 = 2 ^ (s.vw / 8) - 1 ∧ s.sameButV (s.setV d v) ∧ s.sameButP (s.setP p v)

/-- A byte of memory reads as it was last stored, a store leaves every other byte alone, and bytes read back as they were
written, little-endian (R4). -/
def Obligations.MemoryReadsBack : Prop :=
  ∀ (m : Memory) (a : Nat) (bs : List Byte),
    (m.writeBytes a bs).readBytes a bs.length = bs ∧
    (∀ b, b < a ∨ a + bs.length ≤ b → (m.writeBytes a bs).read b = m.read b) ∧
    (∀ n v, (m.writeNat a n v).readNat a n = v % 2 ^ (8 * n)) ∧
    (m.wf = true → (m.writeBytes a bs).wf = true)

/-! ## Scalar arithmetic -/

/-- The two-operand and one-operand forms of major 0x01 (R148). -/
def Obligations.ScalarArithmetic : Prop :=
  ∀ (d a b : Reg) (s : State), let x := s.x a; let y := s.x b; let n := y.toNat % 64
    Writes (.add d a b) s d (x + y) ∧ Writes (.sub d a b) s d (x - y) ∧ Writes (.mul d a b) s d (x * y) ∧
    Writes (.mulh d a b) s d (((x.signExtend 128 * y.signExtend 128) >>> 64).setWidth 64) ∧
    Writes (.mulhz d a b) s d (((x.setWidth 128 * y.setWidth 128) >>> 64).setWidth 64) ∧
    Writes (.and d a b) s d (x &&& y) ∧ Writes (.or d a b) s d (x ||| y) ∧ Writes (.xor d a b) s d (x ^^^ y) ∧
    Writes (.andn d a b) s d (x &&& ~~~y) ∧
    Writes (.shl d a b) s d (x <<< n) ∧ Writes (.shr d a b) s d (x >>> n) ∧ Writes (.sar d a b) s d (x.sshiftRight n) ∧
    Writes (.min d a b) s d (if x.toInt ≤ y.toInt then x else y) ∧
    Writes (.max d a b) s d (if x.toInt ≤ y.toInt then y else x) ∧
    Writes (.minz d a b) s d (if x.toNat ≤ y.toNat then x else y) ∧
    Writes (.maxz d a b) s d (if x.toNat ≤ y.toNat then y else x) ∧
    Writes (.slt d a b) s d (if x.toInt < y.toInt then 1 else 0) ∧
    Writes (.slo d a b) s d (if x.toNat < y.toNat then 1 else 0) ∧
    Writes (.popc d a) s d (BitVec.ofNat 64 ((List.range 64).filter fun k => x.getLsbD k).length) ∧
    (∃ k, k ≤ 64 ∧ Writes (.clz d a) s d (BitVec.ofNat 64 k) ∧ (∀ j, 64 - k ≤ j → j < 64 → x.getLsbD j = false) ∧
      (k < 64 → x.getLsbD (63 - k) = true)) ∧
    (∃ k, k ≤ 64 ∧ Writes (.ctz d a) s d (BitVec.ofNat 64 k) ∧ (∀ j, j < k → x.getLsbD j = false) ∧
      (k < 64 → x.getLsbD k = true))

/-- Division rounds toward zero and never faults: by zero the quotient is all ones and the remainder the dividend, and the
most negative number by -1 wraps (R149). -/
def Obligations.Division : Prop :=
  ∀ (d a b : Reg) (s : State), let x := s.x a; let y := s.x b
    Writes (.div d a b) s d (if y = 0 then BitVec.allOnes 64 else x.sdiv y) ∧
    Writes (.rem d a b) s d (if y = 0 then x else x.srem y) ∧
    Writes (.divz d a b) s d (if y = 0 then BitVec.allOnes 64 else x / y) ∧
    Writes (.remz d a b) s d (if y = 0 then x else x % y)

/-- The forms with a fourth operand, the immediate forms, LDHI and ADPC (R150 to R152). -/
def Obligations.FieldAndImmediateForms : Prop :=
  ∀ (d a b c : Reg) (e : Fin 32) (imm : BitVec 15) (n : Fin 64) (u : BitVec 20) (s : State),
    let x := s.x a; let y := s.x b; let pos := y.toNat % 64; let len := e.val + 1; let k : Word := imm.signExtend 64
    Writes (.sel d a b c) s d (if s.x c ≠ 0 then x else y) ∧
    Writes (.ext d a b e) s d (BitVec.ofNat 64 (x.toNat / 2 ^ pos % 2 ^ len)) ∧
    (∃ v, Writes (.ins d a b e) s d v ∧ ∀ j, j < 64 →
      v.getLsbD j = if pos ≤ j ∧ j < pos + len then x.getLsbD (j - pos) else (s.x d).getLsbD j) ∧
    Writes (.addx d a b e) s d (x + y * BitVec.ofNat 64 (2 ^ e.val)) ∧
    Writes (.addi d a imm) s d (x + k) ∧ Writes (.andi d a imm) s d (x &&& k) ∧ Writes (.ori d a imm) s d (x ||| k) ∧
    Writes (.xori d a imm) s d (x ^^^ k) ∧ Writes (.shli d a n) s d (x <<< n.val) ∧ Writes (.shri d a n) s d (x >>> n.val) ∧
    Writes (.sari d a n) s d (x.sshiftRight n.val) ∧
    Writes (.slti d a imm) s d (if x.toInt < k.toInt then 1 else 0) ∧
    Writes (.sloi d a imm) s d (if x.toNat < k.toNat then 1 else 0) ∧ Writes (.muli d a imm) s d (x * k) ∧
    Writes (.ldhi d u) s d (u.signExtend 64 <<< 15) ∧ Writes (.adpc d u) s d (s.act.pc + (u.signExtend 64 <<< 15))

/-- Jumps and branches: where they go, the link in x30 or xd as pc + 4, and an odd register target raises ALIGN without any
effect (R62, R153 to R156). -/
def Obligations.JumpsAndBranches : Prop :=
  ∀ (d a b : Reg) (g p : PReg) (imm off : BitVec 15) (far : BitVec 25) (s : State),
    let x := s.x a; let y := s.x b
    let goes (s : State) (pc : Word) : State :=
      { s with act := { s.act with pc := pc, retired := s.act.retired + 1, pinned := [] } }
    let taken : State := goes s (s.act.pc + (off.signExtend 64 <<< 1))
    let branch (c : Bool) : Host.Outcome State Fault Refusal := .next (if c then taken else s.advance 4)
    exec (.j far) s = .next (goes s (s.act.pc + (far.signExtend 64 <<< 1))) ∧
    exec (.jal far) s = .next (goes (s.setX 30 (s.act.pc + 4)) (s.act.pc + (far.signExtend 64 <<< 1))) ∧
    ((x + imm.signExtend 64).getLsbD 0 = false →
      exec (.jalr d a imm) s = .next (goes (s.setX d (s.act.pc + 4)) (x + imm.signExtend 64)) ∧
      exec (.jr a imm) s = .next (goes s (x + imm.signExtend 64))) ∧
    ((x + imm.signExtend 64).getLsbD 0 = true →
      Raises (.jalr d a imm) s codeAlign (x + imm.signExtend 64).toNat ∧
      Raises (.jr a imm) s codeAlign (x + imm.signExtend 64).toNat) ∧
    exec (.beq a b off) s = branch (decide (x = y)) ∧ exec (.bne a b off) s = branch (decide (x ≠ y)) ∧
    exec (.blt a b off) s = branch (decide (x.toInt < y.toInt)) ∧ exec (.bge a b off) s = branch (decide (y.toInt ≤ x.toInt)) ∧
    exec (.blo a b off) s = branch (decide (x.toNat < y.toNat)) ∧ exec (.bhs a b off) s = branch (decide (y.toNat ≤ x.toNat)) ∧
    exec (.dbnz a off) s =
      .next (if x - 1 ≠ 0 then goes (s.setX a (x - 1)) (s.act.pc + (off.signExtend 64 <<< 1))
        else (s.setX a (x - 1)).advance 4) ∧
    exec (.bpa g p off) s =
      branch (decide (∀ k < s.vw / 8, bitOf (s.preg g) k = true → bitOf (s.preg p) k = true)) ∧
    exec (.bpn g p off) s =
      branch (decide (∀ k < s.vw / 8, bitOf (s.preg g) k = true → bitOf (s.preg p) k = false))

/-! ## Access to memory -/

/-- What the checks of an access answer, in the order of R157: an address of more than 48 bits; the stash windows, where an
offset that a map covers is an access to the global address it is mapped to (R121, R123); the heap triple (R311); then the
page tables through the cached translation or a walk (R312): PAGE where the walk fails, PROT for a wrong kind, owner or key,
PROT for a missing permission, RES for a page that is not SI-resident while the DRAM sleeps (R313), and else the location,
discarded as the entry says, with the accessed bit set by the walk that caches the entry. A range over several lines is
checked line by line, and the lowest failing line gives the fault. The model's choices in it, among them that a frame naming
no memory is PROT: log 38. -/
def Obligations.AccessChecks : Prop :=
  ∀ (s : State) (id l va n : Nat) (acc : Acc) (c : Ctx), s.ctx? id = some c → 1 ≤ n → va % 64 + n ≤ 64 →
    let w : Who := .core id l
    let h := c.hbase.toNat
    let pa := (va + bits c.hoff.toNat 47 16 * 2 ^ 16) % 2 ^ 48
    let check := checkRange w acc va n s
    let fails (code : Nat) : Prop := check = .error (.fault code va false 0)
    let found (loc : Loc) (u : State) : Prop := check = .ok ([(loc, n)], u.touch w acc [(loc, n)])
    (2 ^ 48 ≤ va → fails codeProt) ∧
    (∀ off, off < 98304 → acc ≠ .fetch → mapOf (c.core l) off = none → va = 0xFFFF00000000 + off →
      check = .ok ([(.stash (stashKey id l off), n)], s)) ∧
    (∀ o off, o < 512 → off < 98304 → acc ≠ .fetch → mapOf (c.core o) off = none → va = 0xFFFE00000000 + o * 0x20000 + off →
      check = .ok ([(.stash (stashKey id o off), n)], s)) ∧
    (0xFFFE00000000 ≤ va → va < 2 ^ 48 → acc = .fetch ∨ stashOf l va = none → fails codeProt) ∧
    (∀ o off e, 0xFFFE00000000 ≤ va → va < 2 ^ 48 → acc ≠ .fetch → stashOf l va = some (o, off) → mapOf (c.core o) off = some e →
      let ea := e.base + (off - e.off)
      (0xFFFE00000000 ≤ ea → check = .error (.fault codeProt ea false 0)) ∧
      (ea < 0xFFFE00000000 → ea % 64 + n ≤ 64 →
        (∀ x, checkRange w acc ea n s = .error x → check = .error x) ∧
        (∀ pa kind dsc pte key u, checkRange w acc ea n s = .ok ([(.mem pa kind dsc pte none key, n)], u) →
          check = .ok ([(.mem pa kind dsc pte (some (o, off / 64 * 64)) key, n)], u)))) ∧
    (va < 0xFFFE00000000 → c.inHeap va = true →
      (acc.allowed (bitOf h 1) (bitOf h 2) (bitOf h 3) = false ∨ memExists pa = false → fails codeProt) ∧
      (acc.allowed (bitOf h 1) (bitOf h 2) (bitOf h 3) = true → memExists pa = true →
        (s.dramSref = true → fails codeRes) ∧
        (s.dramSref = false → found (.mem pa (bits h 5 4) false none none none) s))) ∧
    (va < 0xFFFE00000000 → c.inHeap va = false → s.tlbFind id (va / 2 ^ 16) = none → walk s.mem c.ptroot va = none →
      fails codePage) ∧
    (∀ pte big at_ hit, va < 0xFFFE00000000 → c.inHeap va = false →
      (match s.tlbFind id (va / 2 ^ 16) with
        | some t => pte = t.pte ∧ big = t.big ∧ at_ = t.addr ∧ hit = true
        | none => walk s.mem c.ptroot va = some (pte, big, at_) ∧ hit = false) →
      let pa := if big then bits pte 42 16 * 2 ^ 21 + va % 2 ^ 21 else bits pte 42 11 * 2 ^ 16 + va % 2 ^ 16
      let mine := bits pte 5 4 ≠ 3 ∧ bits pte 57 46 = id ∧ (bitOf pte 63 = true → c.pk = true ∧ bits pte 62 58 = c.keySlot)
      let may := acc.allowed (bitOf pte 1) (bitOf pte 2) (bitOf pte 3)
      let seen := if bitOf pte 6 then pte else pte + 64
      let u := if hit then s else { s with
        tlb := ⟨id, va / 2 ^ 16, seen, big, at_⟩ :: s.tlb, mem := if bitOf pte 6 then s.mem else s.mem.writeNat at_ 8 seen }
      (¬mine → fails codeProt) ∧ (mine → may = false → fails codeProt) ∧
      (mine → may = true → memExists pa = false → fails codeProt) ∧
      (mine → may = true → memExists pa = true → bitOf pte 9 = false → s.dramSref = true → fails codeRes) ∧
      (mine → may = true → memExists pa = true → bitOf pte 9 = true ∨ s.dramSref = false →
        found (.mem pa (bits pte 5 4) (bitOf pte 10) (some at_) none
          (if bitOf pte 63 then some (s.keyOf c.keySlot) else none)) u)) ∧
    (∀ k m, va % 64 + k = 64 → 1 ≤ m →
      let both := checkRange w acc va (k + m) s
      (∀ x, resolveAll w acc [(va, k)] s = .error x → both = .error x) ∧
      (∀ ls u, resolveAll w acc [(va, k)] s = .ok (ls, u) →
        (∀ x, resolveAll w acc (piecesOf (va + k) m) u = .error x → both = .error x) ∧
        (∀ ms v, resolveAll w acc (piecesOf (va + k) m) u = .ok (ms, v) → both = .ok (ls ++ ms, v.touch w acc (ls ++ ms)))))

/-- A check of addresses changes cached translations and accessed bits: every byte of memory it changes lies in the page-table
entry of a translation it cached (R312). Beside that it gathers the partials of the lines that it reaches and of no other
(R136), and of the lines stored through a stash map it notes which bytes stay at a drop: those that it reaches, unless it stores
through that very map (R162). The model's choices in it: logs 3, 4 and 14. -/
def Obligations.CheckFrame : Prop :=
  ∀ (w : Who) (acc : Acc) (va n : Nat) (s t : State) (ls : List (Loc × Nat)), checkRange w acc va n s = .ok (ls, t) →
    s.sameButTranslation t ∧
    (∀ pa, t.mem.read pa ≠ s.mem.read pa → ∃ e ∈ t.tlb, e ∉ s.tlb ∧ e.addr ≤ pa ∧ pa < e.addr + 8) ∧
    (∀ g, g ∈ t.gathers ↔ g ∈ s.gathers ∧ ∀ p ∈ ls, p.1.inLine g.line = false) ∧
    t.dirtyMaps.map (fun d => { d with fall := [] }) = s.dirtyMaps.map (fun d => { d with fall := [] }) ∧
    (∀ (j : Nat) (d d' : DirtyLine), s.dirtyMaps[j]? = some d → t.dirtyMaps[j]? = some d' → d'.fall.length = d.fall.length ∧
      ∀ k < d.fall.length,
        let reached := ∃ pa kind dsc pte via key m, (.mem pa kind dsc pte via key, m) ∈ ls ∧ pa / 64 = d.pa / 64 ∧
          pa % 64 ≤ k ∧ k < pa % 64 + m ∧ ¬((∃ l, w = .core d.ctx l) ∧ acc = .store ∧ via = some (d.lcore, d.off))
        (reached → d'.fall[k]? = some none) ∧ (¬reached → d'.fall[k]? = d.fall[k]?)) ∧
    (ls.map Prod.snd).sum = n

/-- LD, LDX and LDQ (R158, R159): on a range that may be read, the little-endian bytes are extended as the size says and
written to the destination, the pair of LDQ in two registers; on poison the bytes are all ones and counted, or POIS is
raised under trap-on-poison; a range that fails its check raises its fault, without any effect (R64, R145). And what a location
reads as, whoever reads it: zeros on a discarded page, which is never poisoned (R142); else all ones in a poisoned line (R145);
else the bytes of the stash or of memory, deciphered under the key of the page, if any (R375); several locations one after
another, poisoned when one of them is, the poison met at the lowest that is (R157, R320). -/
def Obligations.LoadsDeliver : Prop :=
  (∀ (u : State) (key pa kind n m va : Nat) (pte : Option Nat) (via : Option (Nat × Nat)) (k : Option (BitVec 256)) (loc : Loc)
      (ls : List (Loc × Nat)),
    let good : Loc := .mem pa kind false pte via k
    let gone : Loc := .mem pa kind true pte via k
    (u.poisoned gone = false ∧ u.readLoc gone n = List.replicate n 0) ∧
    (u.poisoned good = true ↔ pa / 64 ∈ u.poison) ∧ (u.poisoned (.stash key) = true ↔ key / 64 ∈ u.stashPoison) ∧
    (pa / 64 ∈ u.poison → u.readLoc good n = List.replicate n 0xFF) ∧
    (key / 64 ∈ u.stashPoison → u.readLoc (.stash key) n = List.replicate n 0xFF) ∧
    (pa / 64 ∉ u.poison → k = none → u.readLoc good n = u.mem.readBytes pa n) ∧
    (∀ q, pa / 64 ∉ u.poison → k = some q → u.readLoc good n = ((plainLine u.mem q (pa / 64 * 64)).drop (pa % 64)).take n) ∧
    (key / 64 ∉ u.stashPoison → u.readLoc (.stash key) n = u.stash.readBytes key n) ∧
    u.readLocs [] = [] ∧ u.readLocs ((loc, m) :: ls) = u.readLoc loc m ++ u.readLocs ls ∧
    (u.anyPoison ls = true ↔ ∃ p ∈ ls, u.poisoned p.1 = true) ∧
    (∀ a, u.poisonVa va ls = some a ↔ ∃ before p after, ls = before ++ p :: after ∧ u.poisoned p.1 = true ∧
      (∀ q ∈ before, u.poisoned q.1 = false) ∧ a = va + (before.map Prod.snd).sum)) ∧
  ∀ (z : LoadSize) (d a b : Reg) (off : BitVec 12) (s : State),
    let m : Nat := (s.x a + off.signExtend 64).toNat
    let x : Nat := (s.x a + s.x b).toNat
    let one (t : State) (v : Nat) : State := t.setX d (match z with
      | .s8 => (BitVec.ofNat 8 v).signExtend 64 | .s16 => (BitVec.ofNat 16 v).signExtend 64
      | .s32 => (BitVec.ofNat 32 v).signExtend 64 | .b64 | .z8 | .z16 | .z32 => BitVec.ofNat 64 v)
    let two (t : State) (v : Nat) : State := (t.setX d (BitVec.ofNat 64 v)).setX (pairOf d) (BitVec.ofNat 64 (v / 2 ^ 64))
    let n : Nat := match z with | .s8 | .z8 => 1 | .s16 | .z16 => 2 | .s32 | .z32 => 4 | .b64 => 8
    LoadsAs (.ld z d a off) s m n one ∧ LoadsAs (.ldx z d a b) s x n one ∧ LoadsAs (.ldq d a off) s m 16 two

/-- ST, STX and STQ (R158, R159): on a range that may be written the bytes of the register are stored at the locations that
the check found, a write to a discarded page is dropped and counted (R142), and the stash port that a window address leads
to counts the store and traces it (R146); a range that fails its check raises its fault, without any effect (R64). -/
def Obligations.StoresComplete : Prop :=
  ∀ (z : StoreSize) (r a b : Reg) (off : BitVec 12) (s : State),
    let m : Nat := (s.x a + off.signExtend 64).toNat
    let x : Nat := (s.x a + s.x b).toNat
    let n : Nat := match z with | .b8 => 1 | .b16 => 2 | .b32 => 4 | .b64 => 8
    StoresAs (.st z r a off) s m (natToBytes n (s.x r).toNat) ∧ StoresAs (.stx z r a b) s x (natToBytes n (s.x r).toNat) ∧
    StoresAs (.stq r a off) s m (natToBytes 8 (s.x r).toNat ++ natToBytes 8 (s.x (pairOf r)).toNat)

/-- The frame of ST, STX and STQ: a store that is not traced (R146) changes no register but the program counter and the count,
no tile, no byte of memory outside its bytes but page-table entries (of a page stored under a key, outside the lines of its
bytes, R375), and no stash byte outside its bytes; and in a line that it stored to in one piece its bytes stand and the others
read as before. -/
def Obligations.StoreFrame : Prop :=
  ∀ (z : StoreSize) (r a b : Reg) (off : BitVec 12) (i : Instr) (s s' : State) (va : Nat) (bs : List Byte)
    (ls : List (Loc × Nat)),
    ((i = .st z r a off ∧ va = s.eaM a off ∧ bs = natToBytes (storeBytesOf z) (s.x r).toNat) ∨
      (i = .stx z r a b ∧ va = s.eaX a b ∧ bs = natToBytes (storeBytesOf z) (s.x r).toNat) ∨
      (i = .stq r a off ∧ va = s.eaM a off ∧
        bs = natToBytes 8 (s.x r).toNat ++ natToBytes 8 (s.x (pairOf r)).toNat)) →
    checkRange s.who .store va bs.length s = .ok (ls, s') → s.traces va ls = false →
    ∃ t, exec i s = .next t ∧ s.sameRegisters t ∧ t.act.pc = s.act.pc + 4 ∧ t.tile = s.tile ∧ t.back = s.back ∧
      ((∀ p ∈ ls, ∀ at_ kind dsc pte via key, p.1 = .mem at_ kind dsc pte via key → key = none) →
        ∀ pa, ¬inPieces ls pa → ¬s'.inTableEntry pa → t.mem.read pa = s.mem.read pa) ∧
      (∀ pa, (∀ p ∈ ls, p.1.inLine (pa / 64) = false) → ¬s'.inTableEntry pa → t.mem.read pa = s.mem.read pa) ∧
      (∀ key, ¬inStashPieces ls key → t.stash.read key = s.stash.read key) ∧
      (∀ pa kind pte via key, ls = [(.mem pa kind false pte via key, bs.length)] → pa % 64 + bs.length ≤ 64 →
        (∀ k < 64, ¬s'.inTableEntry (pa / 64 * 64 + k)) →
        let old := s'.mem.readPlain key (pa / 64 * 64) 64
        t.mem.readPlain key (pa / 64 * 64) 64 = old.take (pa % 64) ++ bs ++ old.drop (pa % 64 + bs.length)) ∧
      (∀ key, ls = [(.stash key, bs.length)] → t.stash.readBytes key bs.length = bs)

/-- Atomics on a location that may be read and written, unpoisoned and not discarded (R135, R167 to R170): each reads the old
value and writes the new one in one step, and delivers the old one, sign-extended, or zero-extended by FADD; a failed compare
writes nothing. On poison the old value is all ones, counted, and nothing is written, or an atomic raises POIS under
trap-on-poison; on a discarded page the old value is 0 and the write is dropped (R142, R145, R171). A misaligned address
raises ALIGN, one of more than 48 bits PROT, and a location that fails its check raises its fault, without any effect (R64,
R157). A reduction returns nothing: on an SO page or in a stash it is applied at
once; on an RC or UN page the core's reductions combine with one another first, and then with the value that was there (R112,
R136); on poison or a discarded page it is dropped and counted. With the rl bit the partials of the core on pages other than
UN meet memory first, as at a FENCE (R134, R170; FencesPass says what a drain does). That memory holds the gathered value at
every moment is the model's choice (log 3). -/
def Obligations.AtomicsComplete : Prop :=
  ∀ (d a b : Reg) (aq rl w : Bool) (s : State),
    let n : Nat := if w then 8 else 4
    let va := (s.x a).toNat
    let y := (s.x b).toNat % 2 ^ (8 * n)
    let less (p q : Nat) : Bool := decide ((BitVec.ofNat (8 * n) p).toInt < (BitVec.ofNat (8 * n) q).toInt)
    let all : List Instr := [.amoAdd d a b aq rl w, .amoAnd d a b aq rl w, .amoOr d a b aq rl w, .amoXor d a b aq rl w,
      .amoMin d a b aq rl w, .amoMax d a b aq rl w, .amoSwp d a b aq rl w, .amoCas d a b aq rl w, .amoFadd d a b aq rl w,
      .redAdd a b aq rl w, .redFadd a b aq rl w, .redMax a b aq rl w]
    let reds : List (Instr × RedFn) := [(.redAdd a b aq rl w, .add), (.redFadd a b aq rl w, .fadd), (.redMax a b aq rl w, .max)]
    let combined (op : RedFn) (x y : Nat) : Nat := match op with
      | .add => (x + y) % 2 ^ (8 * n)
      | .fadd => floatSum w x y % 2 ^ (8 * n)
      | .max => (if less x y then y else x) % 2 ^ (8 * n)
    let met (u : State) : State := if rl then u.drain s.cur.core false else u
    (2 ^ 48 ≤ va → (∀ i ∈ all, Raises i s codeProt va) ∧ Raises (.cas2 d a b aq rl) s codeProt va) ∧
    (va < 2 ^ 48 → va % n ≠ 0 → ∀ i ∈ all, Raises i s codeAlign va) ∧
    (va < 2 ^ 48 → va % 16 ≠ 0 → Raises (.cas2 d a b aq rl) s codeAlign va) ∧
    (∀ code addr, va < 2 ^ 48 → va % n = 0 → checkRange s.who .atomic va n s = .error (.fault code addr false 0) →
      ∀ i ∈ all.take 9, Raises i s code addr) ∧
    (∀ code addr, va < 2 ^ 48 → va % 16 = 0 → checkRange s.who .atomic va 16 s = .error (.fault code addr false 0) →
      Raises (.cas2 d a b aq rl) s code addr) ∧
    (∀ ls u, va < 2 ^ 48 → va % n = 0 → checkRange s.who .atomic va n s = .ok (ls, u) → u.anyPoison ls = false →
      ls.any (fun p => p.1.discarded) = false →
      let s' := met u
      let old := bytesToNat (s'.readLocs ls)
      let stored (new : Nat) : State := (s'.writeLocs s.who ls (natToBytes n new)).countPort s.who ls
      let sign : Word := if w then BitVec.ofNat 64 old else (BitVec.ofNat 32 old).signExtend 64
      let does (i : Instr) (new : Nat) : Prop := exec i s = .next (((stored new).setX d sign).advance 4)
      does (.amoAdd d a b aq rl w) ((old + y) % 2 ^ (8 * n)) ∧ does (.amoAnd d a b aq rl w) (old &&& y) ∧
      does (.amoOr d a b aq rl w) (old ||| y) ∧ does (.amoXor d a b aq rl w) (old ^^^ y) ∧
      does (.amoMin d a b aq rl w) (if less y old then y else old) ∧
      does (.amoMax d a b aq rl w) (if less old y then y else old) ∧ does (.amoSwp d a b aq rl w) y ∧
      exec (.amoCas d a b aq rl w) s =
        .next ((((if old = (s.x d).toNat % 2 ^ (8 * n) then stored y else s').setX d sign)).advance 4) ∧
      exec (.amoFadd d a b aq rl w) s =
        .next (((stored (floatSum w old y)).setX d (BitVec.ofNat 64 old)).advance 4)) ∧
    (∀ ls u, va < 2 ^ 48 → va % n = 0 → checkRange s.who .atomic va n s = .ok (ls, u) → let s' := met u
      let counted := s'.countPoison s.act.ctx s.act.lcore
      let dropped := s'.countDropped s.who ls
      (s'.anyPoison ls = true →
        (s'.trapsPoison = true → ∀ i ∈ all.take 9, exec i s = .next (s.takeFault 4 codePois va true 0)) ∧
        (s'.trapsPoison = false → ∀ i ∈ all.take 9, exec i s = .next ((counted.setX d (BitVec.allOnes 64)).advance 4))) ∧
      (s'.anyPoison ls = false → ls.any (fun p => p.1.discarded) = true →
        ∀ i ∈ all.take 9, exec i s = .next ((dropped.setX d 0).advance 4))) ∧
    (∀ code addr, va < 2 ^ 48 → va % n = 0 → resolve s.who .atomic va s = .error (.fault code addr false 0) →
      ∀ i ∈ all.drop 9, Raises i s code addr) ∧
    (∀ loc u, va < 2 ^ 48 → va % n = 0 → resolve s.who .atomic va s = .ok (loc, u) → let s' := met u
      (s'.poisoned loc = true → ∀ i ∈ all.drop 9, exec i s = .next ((s'.countPoison s.act.ctx s.act.lcore).advance 4)) ∧
      (s'.poisoned loc = false → loc.discarded = true →
        ∀ i ∈ all.drop 9, exec i s = .next ((s'.countDropped s.who [(loc, n)]).advance 4)) ∧
      (s'.poisoned loc = false → loc.discarded = false →
        (∀ p ∈ reds, exec p.1 s = .next ((s'.reduce p.2 n y loc).advance 4)) ∧
        (∀ key op, loc = .stash key → s'.reduce op n y loc =
          (s'.writeLoc s.who loc (natToBytes n (combined op (bytesToNat (s'.readLoc loc n)) y))).countPort s.who [(loc, n)]) ∧
        (∀ pa dsc pte via key op, loc = .mem pa 0 dsc pte via key → s'.reduce op n y loc =
          s'.writeLoc s.who loc (natToBytes n (combined op (bytesToNat (s'.readLoc loc n)) y))))) ∧
    (∀ pa kind op x, kind ≠ 0 → pa % n = 0 → x < 2 ^ (8 * n) → pa / 64 ∉ s.poison → (∀ g ∈ s.gathers, g.line ≠ pa / 64) →
      let loc : Loc := .mem pa kind false none none none
      let old := bytesToNat (s.mem.readBytes pa n)
      let one := s.reduce op n x loc
      bytesToNat (one.mem.readBytes pa n) = combined op old x ∧
      bytesToNat ((one.reduce op n y loc).mem.readBytes pa n) = combined op old (combined op x y) ∧
      (∀ b, b < pa ∨ pa + n ≤ b → (one.reduce op n y loc).mem.read b = s.mem.read b)) ∧
    (∀ ls u, va < 2 ^ 48 → va % 16 = 0 → checkRange s.who .atomic va 16 s = .ok (ls, u) → u.anyPoison ls = false →
      ls.any (fun p => p.1.discarded) = false →
      let s' := met u
      let old := bytesToNat (s'.readLocs ls)
      let new := natToBytes 8 (s.x b).toNat ++ natToBytes 8 (s.x (pairOf b)).toNat
      let t := if old = (s.x d).toNat + 2 ^ 64 * (s.x (pairOf d)).toNat then (s'.writeLocs s.who ls new).countPort s.who ls else s'
      exec (.cas2 d a b aq rl) s =
        .next (((t.setX d (BitVec.ofNat 64 old)).setX (pairOf d) (BitVec.ofNat 64 (old / 2 ^ 64))).advance 4)) ∧
    (∀ ls u, va < 2 ^ 48 → va % 16 = 0 → checkRange s.who .atomic va 16 s = .ok (ls, u) → let s' := met u
      let two (t : State) (v : Word) : Host.Outcome State Fault Refusal := .next (((t.setX d v).setX (pairOf d) v).advance 4)
      (s'.anyPoison ls = true →
        (s'.trapsPoison = true → exec (.cas2 d a b aq rl) s = .next (s.takeFault 4 codePois va true 0)) ∧
        (s'.trapsPoison = false →
          exec (.cas2 d a b aq rl) s = two (s'.countPoison s.act.ctx s.act.lcore) (BitVec.allOnes 64))) ∧
      (s'.anyPoison ls = false → ls.any (fun p => p.1.discarded) = true →
        exec (.cas2 d a b aq rl) s = two (s'.countDropped s.who ls) 0))

/-- FENCE and PF (R134, R136, R160, R172): PF changes nothing but the program counter and the count, and neither does a FENCE
without a release, or at a scope within the core. Any other FENCE drains the partials of the running core, those of UN pages
only with kind SC (R129): no other state changes, memory changes only in lines that have partials, and what a RED of the core
made before it is a value that the next RED of the core adds to. All else is ordered in the model's one order (log 3). -/
def Obligations.FencesPass : Prop :=
  ∀ (s : State) (sc : Scope) (k : FenceKind) (a b : Reg),
    let drains := (sc = .clus ∨ sc = .die ∨ sc = .pkg ∨ sc = .sys) ∧ (k = .rel ∨ k = .ar ∨ k = .sc)
    let inLines := ∀ g ∈ s.gathers, ∀ e ∈ g.base, e.1 / 64 = g.line ∧ e.1 % 64 + g.n ≤ 64
    Passes (.pf a b) s ∧ (¬drains → Passes (.fence sc k) s) ∧
    (drains → ∃ t, exec (.fence sc k) s = .next t ∧ t = { s.advance 4 with mem := t.mem, gathers := t.gathers } ∧
      (∀ g ∈ t.gathers, ∃ h ∈ s.gathers, g.line = h.line ∧ ∀ p ∈ g.parts, p ∈ h.parts) ∧
      (∀ g ∈ t.gathers, (k = .sc ∨ g.kind ≠ 2) → (∀ h ∈ s.gathers, h.current s = true) → ∀ p ∈ g.parts, p.core ≠ s.cur.core) ∧
      (∀ h ∈ s.gathers, ∀ p ∈ h.parts, p.core ≠ s.cur.core → ∃ g ∈ t.gathers, g.line = h.line ∧ p ∈ g.parts) ∧
      (inLines → ∀ pa, (∀ g ∈ s.gathers, g.line ≠ pa / 64) → t.mem.read pa = s.mem.read pa)) ∧
    (∀ (w : Bool) (pa kind : Nat) (op : RedFn) (x y : Nat), let n : Nat := if w then 8 else 4
      drains → inLines → kind = 1 ∨ kind = 2 ∧ k = .sc → pa % n = 0 → x < 2 ^ (8 * n) → pa / 64 ∉ s.poison →
      (∀ g ∈ s.gathers, g.line ≠ pa / 64) →
      let loc : Loc := .mem pa kind false none none none
      let old := bytesToNat (s.mem.readBytes pa n)
      ∃ t, exec (.fence sc k) (s.reduce op n x loc) = .next t ∧ bytesToNat (t.mem.readBytes pa n) = op.combine n old x ∧
        bytesToNat ((t.reduce op n y loc).mem.readBytes pa n) = op.combine n (op.combine n old x) y)

/-- CFL and CINV (R163): no bytes is no effect and more than 65536 raises ILL; the lowest byte that may not be read, or
written for CINV, or that lies in the stash windows raises its fault, there PROT, before any line is touched (R157); else
after CFL every line of the range stands in its backing store, with its poison, and no value has changed, and after CINV every
line of the range holds what its backing store holds, with its poison, and every other line of memory is as it was. The
model's choices in it: logs 13, 37, and 63 for the permission that CFL demands. -/
def Obligations.CacheMaintenance : Prop :=
  ∀ (a b : Reg) (s : State), let ea := (s.x a).toNat; let n := (s.x b).toNat
    (n = 0 → Passes (.cfl a b) s ∧ Passes (.cinv a b) s) ∧
    (65536 < n → Raises (.cfl a b) s codeIll 0 ∧ Raises (.cinv a b) s codeIll 0) ∧
    (1 ≤ n → n ≤ 65536 →
      let m := min n (0xFFFE00000000 - ea)
      (∀ code addr, checkRange s.who .load ea m s = .error (.fault code addr false 0) → Raises (.cfl a b) s code addr) ∧
      (∀ code addr, checkRange s.who .store ea m s = .error (.fault code addr false 0) → Raises (.cinv a b) s code addr) ∧
      (∀ ls s', m < n → checkRange s.who .load ea m s = .ok (ls, s') → Raises (.cfl a b) s codeProt (ea + m)) ∧
      (∀ ls s', m < n → checkRange s.who .store ea m s = .ok (ls, s') → Raises (.cinv a b) s codeProt (ea + m)) ∧
      (∀ ls s', m = n → checkRange s.who .load ea n s = .ok (ls, s') →
        ∃ t, exec (.cfl a b) s = .next t ∧ s.sameRegisters t ∧ t.act.pc = s.act.pc + 4 ∧ t.mem = s'.mem ∧ t.stash = s.stash ∧
          t.poison = s.poison ∧
          (∀ at_ kind dsc pte via key k, (.mem at_ kind dsc pte via key, k) ∈ ls →
            (at_ / 64 ∈ t.backPoison ↔ at_ / 64 ∈ s.poison) ∧
            t.back.readBytes (at_ / 64 * 64) 64 = t.mem.readBytes (at_ / 64 * 64) 64)) ∧
      (∀ ls s', m = n → checkRange s.who .store ea n s = .ok (ls, s') →
        ∃ t, exec (.cinv a b) s = .next t ∧ s.sameRegisters t ∧ t.act.pc = s.act.pc + 4 ∧ t.back = s.back ∧
          t.backPoison = s.backPoison ∧ t.stash = s.stash ∧
          (∀ at_ kind dsc pte via key k, (.mem at_ kind dsc pte via key, k) ∈ ls →
            (at_ / 64 ∈ t.poison ↔ at_ / 64 ∈ s.backPoison) ∧
            t.mem.readBytes (at_ / 64 * 64) 64 = s.back.readBytes (at_ / 64 * 64) 64) ∧
          (∀ pa, (∀ at_ kind dsc pte via key k, (.mem at_ kind dsc pte via key, k) ∈ ls → pa / 64 ≠ at_ / 64) →
            t.mem.read pa = s'.mem.read pa ∧ (pa / 64 ∈ t.poison ↔ pa / 64 ∈ s.poison))))

/-- SMAP, SWB and SDROP (R161, R162): the checks in their order; a range mapped leaves every entry that does not meet it and
installs its own, with no more than eight; no memory changes, and no stash byte but those of the entries that go, each of
which holds zero, what stood in the stash beneath or what stands at the global line or may be fallen back to there,
unpoisoned; SWB and SDROP change no mapping and leave no dirty line in the range; SWB changes no value that anybody reads. In
a line that SDROP drops each byte keeps its value or is one that it may still fall back to, unless the front end may have read
it (R119), and every other byte of memory, of the backing store and of the stashes is as before. The model's choices in it:
logs 14, 37. -/
def Obligations.StashMaps : Prop :=
  ∀ (a b : Reg) (s : State) (c : Ctx), s.ctx? s.act.ctx = some c →
    let xa := (s.x a).toNat; let xb := (s.x b).toNat
    let off := bits xa 16 0; let nl := bits xa 31 17; let stop := off + 64 * nl
    let id := s.act.ctx; let l := s.act.lcore
    let k := c.core l
    let kept := k.maps.filter fun e => decide (nl = 0) || decide (stop ≤ e.off) || decide (e.off + 64 * e.nl ≤ off)
    let gone := k.maps.filter fun e => !(decide (nl = 0) || decide (stop ≤ e.off) || decide (e.off + 64 * e.nl ≤ off))
    let maps (t : State) : List MapEntry := (t.lcore id l).maps
    let at_ (e : MapEntry) : Nat := stashKey id l e.off
    let past (t : State) : Prop := t.act.pc = s.act.pc + 4
    let outside := xb + 64 * nl ≤ 0xFFFE00000000 ∨ 0xFFFF00020000 ≤ xb
    let rest (t : State) : Prop := t.mem = s.mem ∧ t.back = s.back ∧ t.poison = s.poison ∧
      (∀ n, (∀ e ∈ gone, n < at_ e ∨ at_ e + 64 * e.nl ≤ n) → t.stash.read n = s.stash.read n) ∧
      (∀ e ∈ gone, ∀ o, e.off ≤ o → o < e.off + 64 * e.nl →
        let n := stashKey id l o
        let v := t.stash.read n
        (e.off % 64 = 0 → n / 64 ∉ t.stashPoison) ∧
        (v = 0 ∨ v = s.stash.read n ∨
          (∃ g ∈ gone, g.off ≤ o ∧ o < g.off + 64 * g.nl ∧ ∃ pa,
            s.mappedLine id l (g.off + (o - g.off) / 64 * 64) = some (pa, none) ∧ s.mem.read (pa + (o - g.off) % 64) = v) ∨
          ∃ d ∈ s.dirtyMaps, d.ctx = id ∧ d.lcore = l ∧ d.off = o / 64 * 64 ∧ d.fall[o % 64]? = some (some v)))
    let hit (d : DirtyLine) : Prop := d.ctx = id ∧ d.lcore = l ∧ d.off < xa + xb ∧ xa < d.off + 64 ∧ 0 < xb
    let cleaned (t : State) : Prop := ∀ d, d ∈ t.dirtyMaps ↔ d ∈ s.dirtyMaps ∧ ¬hit d
    let line (d : DirtyLine) : Option (Nat × Option (BitVec 256)) := s.mappedLine d.ctx d.lcore d.off
    -- dirty lines are lines, and no table that translates one of them lies in another
    let settled := (∀ d ∈ s.dirtyMaps, d.pa % 64 = 0) ∧
      ∀ d, hit d → ∀ m n, State.mappedLine { s with mem := m, free := n } d.ctx d.lcore d.off = line d
    let dropped (t : State) : Prop :=
      (∀ pa, (∀ d ∈ s.dirtyMaps, hit d → ∀ key, line d = some (d.pa, key) → pa / 64 ≠ d.pa / 64) →
        t.mem.read pa = s.mem.read pa) ∧
      (∀ pa, (∀ m n, State.frontReads { s with mem := m, free := n } pa = true) → t.mem.read pa = s.mem.read pa) ∧
      (∀ d ∈ s.dirtyMaps, hit d → ∀ key, line d = some (d.pa, key) →
        (∀ e ∈ s.dirtyMaps, hit e → e.pa = d.pa → ∀ q, line e = some (e.pa, q) → q = key) →
        ∀ i < 64, ∀ v, (t.mem.readPlain key d.pa 64)[i]? = some v →
          (s.mem.readPlain key d.pa 64)[i]? = some v ∨
          ∃ e ∈ s.dirtyMaps, hit e ∧ e.pa = d.pa ∧ e.fall[i]? = some (some v))
    (2 ^ 32 ≤ xa ∨ 1536 < nl ∨ 98304 < stop → Raises (.smap a b) s codeProt 0) ∧
    (xa < 2 ^ 32 → nl ≤ 1536 → stop ≤ 98304 →
      (off % 64 ≠ 0 ∨ xb % 64 ≠ 0 → Raises (.smap a b) s codeAlign 0) ∧
      (off % 64 = 0 → xb % 64 = 0 →
        (xb ≠ 0 → 2 ^ 48 < xb + 64 * nl ∨ (1 ≤ nl ∧ ¬outside) → Raises (.smap a b) s codeProt 0) ∧
        (xb ≠ 0 → 1 ≤ nl → xb + 64 * nl ≤ 2 ^ 48 → outside → 8 ≤ kept.length → Raises (.smap a b) s codeProt 0) ∧
        (xb ≠ 0 → 1 ≤ nl → xb + 64 * nl ≤ 2 ^ 48 → outside → kept.length < 8 →
          ∃ t, exec (.smap a b) s = .next t ∧ s.sameRegisters t ∧ past t ∧ rest t ∧ maps t = kept ++ [⟨off, nl, xb⟩]) ∧
        (xb = 0 ∨ (nl = 0 ∧ xb ≤ 2 ^ 48) →
          ∃ t, exec (.smap a b) s = .next t ∧ s.sameRegisters t ∧ past t ∧ rest t ∧ maps t = kept))) ∧
    (1 ≤ xb → 98304 < xa + xb → Raises (.swb a b) s codeProt 0 ∧ Raises (.sdrop a b) s codeProt 0) ∧
    (xa + xb ≤ 98304 ∨ xb = 0 →
      (∃ t, exec (.swb a b) s = .next t ∧ s.sameRegisters t ∧ past t ∧ t.mem = s.mem ∧ t.stash = s.stash ∧ cleaned t ∧
        maps t = k.maps) ∧
      (∃ t, exec (.sdrop a b) s = .next t ∧ s.sameRegisters t ∧ past t ∧ t.stash = s.stash ∧ t.back = s.back ∧ t.poison = s.poison ∧
        t.stashPoison = s.stashPoison ∧ cleaned t ∧ maps t = k.maps ∧ (settled → dropped t)))

/-- The descriptor of a circular buffer (R164): it stands outside any mapped range of a stash, at an offset of the local
window or of a core's range of the remote one, aligned, within its limits and zero where it must be; else PROT, or ALIGN; a
poisoned one raises POIS under trap-on-poison, else PROT (R145); its fields are those of the rule's table. CBTAKE and CBGIVE
on a descriptor that can be used (R165, R166): the oldest filled entry is claimed and its address in the window of the
descriptor's address delivered, all ones when none is filled; space is returned or entries given by position, and more than
there is moves no counter, counts ovf and sets ERRS.cb; an n of 0 does nothing. The model's choices in it: logs 26, 37, 11
(firmware has no stash), and 63: an n of 4097 to 8191 is judged by the counters alone. -/
def Obligations.CircularBuffers : Prop :=
  ∀ (d a b : Reg) (s : State) (owner off : Nat) (c : CbDesc),
    let va := (s.x a).toNat; let xb := (s.x b).toNat; let n := bits xb 12 0
    let window := if 0xFFFF00000000 ≤ va then 0xFFFF00000000 else 0xFFFE00000000 + owner * 0x20000
    let filled := (c.put + 2 ^ 32 - c.take) % 2 ^ 32
    let room := (2 ^ c.lcnt + 2 ^ 32 - (c.put + 2 ^ 32 - c.give) % 2 ^ 32) % 2 ^ 32
    let at_ : Loc := .stash (stashKey s.act.ctx owner off + 8)
    let counters (t : State) (take put ovf give wrec : Nat) : State :=
      t.writeLoc (.core s.act.ctx owner) at_
        (natToBytes 4 take ++ natToBytes 4 put ++ natToBytes 4 (ovf * 2 ^ 16) ++ natToBytes 4 give ++ natToBytes 8 wrec)
    let refused : State :=
      (counters s c.take c.put (if c.ovf < 0xFFFF then c.ovf + 1 else 0xFFFF) c.give c.wrec).setErr s.act.ctx s.act.lcore errCb
    let named (o f : Nat) : Prop := f < 98304 ∧
      (va = 0xFFFF00000000 + f ∧ o = s.act.lcore ∨ va = 0xFFFE00000000 + o * 0x20000 + f ∧ o < 512)
    let opened : Except Trap ((Nat × Nat × CbDesc) × State) := cbOpen (.core s.act.ctx s.act.lcore) va s
    let bad (code : Nat) : Prop := opened = .error (.fault code va false 0)
    let both (code : Nat) : Prop :=
      Raises (.cbtake d a) s code va ∧ (bits xb 62 13 = 0 → n ≠ 0 → Raises (.cbgive a b) s code va)
    ((∀ o f, ¬named o f) → bad codeProt) ∧
    (∀ o f, named o f → let key := stashKey s.act.ctx o f
      (mapOf (s.lcore s.act.ctx o) f ≠ none → bad codeProt) ∧
      (mapOf (s.lcore s.act.ctx o) f = none → va % 32 ≠ 0 → bad codeAlign) ∧
      (mapOf (s.lcore s.act.ctx o) f = none → va % 32 = 0 → key / 64 ∈ s.stashPoison →
        opened = .error (.fault codePois va true 0)) ∧
      (mapOf (s.lcore s.act.ctx o) f = none → va % 32 = 0 → key / 64 ∉ s.stashPoison →
        let w (k : Nat) : Nat := s.stash.readNat (key + 8 * k) 8
        let lcnt := bits (w 0) 31 28
        let les := bits (w 0) 27 24
        let base := bits (w 0) 16 0
        let good := bits (w 0) 63 32 = 0 ∧ bits (w 0) 23 17 = 0 ∧ bits (w 2) 15 0 = 0 ∧ bits (w 3) 63 48 = 0 ∧ 1 ≤ lcnt ∧ lcnt ≤ 12 ∧
          4 ≤ les ∧ les ≤ 13 ∧ base % 2 ^ les = 0 ∧ base + 2 ^ (lcnt + les) ≤ 98304
        (¬good → bad codeProt) ∧
        (good → opened = .ok ((o, f, ⟨lcnt, les, base, bits (w 1) 63 32, bits (w 1) 31 0, bits (w 2) 63 32, bits (w 2) 31 16,
          bits (w 3) 47 0⟩), s)))) ∧
    (∀ code, s.act.priv = false → bad code → both code) ∧
    (s.act.priv = false → opened = .error (.fault codePois va true 0) →
      (s.trapsPoison = false → both codeProt) ∧
      (s.trapsPoison = true → exec (.cbtake d a) s = .next (s.takeFault 4 codePois va true 0) ∧
        (bits xb 62 13 = 0 → n ≠ 0 → exec (.cbgive a b) s = .next (s.takeFault 4 codePois va true 0)))) ∧
    (s.act.priv = true → both codeProt) ∧
    (bits xb 62 13 ≠ 0 → Raises (.cbgive a b) s codeIll 0) ∧
    (bits xb 62 13 = 0 → n = 0 → Passes (.cbgive a b) s) ∧
    (s.act.priv = false → cbOpen s.who va s = .ok ((owner, off, c), s) →
      (filled = 0 → Writes (.cbtake d a) s d (BitVec.allOnes 64)) ∧
      (1 ≤ filled → exec (.cbtake d a) s = .next (((counters s ((c.take + 1) % 2 ^ 32) c.put c.ovf c.give c.wrec).setX d
        (BitVec.ofNat 64 (window + c.base + c.take % 2 ^ c.lcnt * 2 ^ c.les))).advance 4)) ∧
      (bits xb 62 13 = 0 → n ≠ 0 → bits xb 63 63 = 0 →
        (n ≤ (c.take + 2 ^ 32 - c.give) % 2 ^ 32 →
          exec (.cbgive a b) s = .next ((counters s c.take c.put c.ovf ((c.give + n) % 2 ^ 32) c.wrec).advance 4)) ∧
        ((c.take + 2 ^ 32 - c.give) % 2 ^ 32 < n → exec (.cbgive a b) s = .next (refused.advance 4))) ∧
      (bits xb 62 13 = 0 → n ≠ 0 → bits xb 63 63 = 1 →
        (n ≤ room → c.wrec = 0 →
          exec (.cbgive a b) s = .next ((counters s c.take ((c.put + n) % 2 ^ 32) c.ovf c.give c.wrec).advance 4)) ∧
        (room < n → exec (.cbgive a b) s = .next (refused.advance 4)) ∧
        (n ≤ room → c.wrec ≠ 0 → (filled + n) % 2 ^ 32 ≠ 0 →
          let entry := natToBytes 8 (window + c.base + c.take % 2 ^ c.lcnt * 2 ^ c.les)
          let hand (w : Wait) : Wait := match w.kind with
            | .cb v => if stashOf w.lcore v = some (owner, off) ∧ w.got = none then { w with got := some (entry, []) } else w
            | _ => w
          exec (.cbgive a b) s =
            .next ((counters (s.modCtx s.act.ctx fun x => { x with waits := x.waits.map hand })
              ((c.take + 1) % 2 ^ 32) ((c.put + n) % 2 ^ 32) c.ovf c.give 0).advance 4))))

/-! ## The vector pipe -/

/-- VWID, PLB, the lane-wise predicate forms, PFST and PCNT (R202 to R205). -/
def Obligations.PredicateForms : Prop :=
  ∀ (d a b : Reg) (pd pa pb pg : PReg) (t : ElemType) (s : State),
    let lane (p : PReg) (k : Nat) : Bool := bitOf (s.preg p) k
    let hit (e : Nat) : Bool := activeAt (s.preg pg) (elemWidth t) e && activeAt (s.preg pa) (elemWidth t) e
    Writes (.vwid d) s d (BitVec.ofNat 64 s.vw) ∧
    PredicateGives (.plb pd a b pg t) s pd 0 (s.laneWhere t pg fun e => decide ((s.x a).toInt + (e : Int) < (s.x b).toInt)) ∧
    PredicateGives (.pand pd pa pb pg) s pd 0 (fun k => lane pg k && (lane pa k && lane pb k)) ∧
    PredicateGives (.por pd pa pb pg) s pd 0 (fun k => lane pg k && (lane pa k || lane pb k)) ∧
    PredicateGives (.pxor pd pa pb pg) s pd 0 (fun k => lane pg k && (lane pa k != lane pb k)) ∧
    PredicateGives (.pnot pd pa pg) s pd 0 (fun k => lane pg k && !lane pa k) ∧
    PredicateGives (.pfst pd pa pg t) s pd 0
      (s.laneWhere t pg fun e => hit e && decide (∀ j < e, hit j = false)) ∧
    Writes (.pcnt d pa pg t) s d (BitVec.ofNat 64 ((List.range (s.elems (elemWidth t))).filter hit).length)

/-- Integer arithmetic, logic, shifts, selection and movement by elements: results wrap modulo 2^w, counts are taken modulo
w, inactive elements keep their value and no flag is set (R149, R199, R201, R206, R209, R216). -/
def Obligations.VectorIntegerForms : Prop :=
  ∀ (d a b : Reg) (pg : PReg) (t : ElemType) (s : State),
    let w := elemWidth t
    let x (e : Nat) : BitVec (elemWidth t) := BitVec.ofNat (elemWidth t) (s.elem t a e)
    let y (e : Nat) : BitVec (elemWidth t) := BitVec.ofNat (elemWidth t) (s.elem t b e)
    let gives (i : Instr) (f : Nat → BitVec (elemWidth t)) : Prop := VectorGives i s t d pg fun e => (f e).toNat
    (t.isInt = true →
      gives (.vadd d a b pg t) (fun e => x e + y e) ∧ gives (.vsub d a b pg t) (fun e => x e - y e) ∧
      gives (.vmul d a b pg t) (fun e => x e * y e) ∧
      gives (.vdiv d a b pg t) (fun e => if y e = 0 then BitVec.allOnes _ else (x e).sdiv (y e)) ∧
      gives (.vdivUnsigned d a b pg t) (fun e => if y e = 0 then BitVec.allOnes _ else x e / y e) ∧
      gives (.vmax d a b pg t) (fun e => if (x e).toInt ≤ (y e).toInt then y e else x e) ∧
      gives (.vmin d a b pg t) (fun e => if (x e).toInt ≤ (y e).toInt then x e else y e) ∧
      gives (.vmaxUnsigned d a b pg t) (fun e => if (x e).toNat ≤ (y e).toNat then y e else x e) ∧
      gives (.vminUnsigned d a b pg t) (fun e => if (x e).toNat ≤ (y e).toNat then x e else y e) ∧
      gives (.vabs d a pg t) (fun e => if (x e).toInt < 0 then -(x e) else x e) ∧ gives (.vneg d a pg t) (fun e => -(x e))) ∧
    gives (.vand d a b pg t) (fun e => x e &&& y e) ∧ gives (.vor d a b pg t) (fun e => x e ||| y e) ∧
    gives (.vxor d a b pg t) (fun e => x e ^^^ y e) ∧ gives (.vnot d a pg t) (fun e => ~~~(x e)) ∧
    gives (.vshl d a b pg t) (fun e => x e <<< ((y e).toNat % w)) ∧
    gives (.vshr d a b pg t) (fun e => x e >>> ((y e).toNat % w)) ∧
    gives (.vsar d a b pg t) (fun e => (x e).sshiftRight ((y e).toNat % w)) ∧
    gives (.vperm d a b pg t) (fun e => if (y e).toNat < s.elems w then x (y e).toNat else 0) ∧
    gives (.vbcast d a pg t) (fun _ => (s.x a).setWidth _) ∧ gives (.vidx d pg t) (fun e => BitVec.ofNat _ e) ∧
    gives (.vmov d a pg t) x ∧
    (∃ u, exec (.vsel d a b pg t) s = .next u ∧ s.sameButV u ∧ u.act.frm = s.act.frm ∧ u.act.pc = s.act.pc + 4 ∧
      (∀ r, r ≠ d → u.vreg r = s.vreg r) ∧
      ∀ e < s.elems w, u.elem t d e = if activeAt (s.preg pg) w e then s.elem t a e else s.elem t b e)

/-- Floating arithmetic, VFMA and VFMS, and the special functions, by elements: one rounding under FRM.mode of the exact
result, or the selection in the order of R109, and the flags of the active elements (R201, R206 to R208). The exact results of
numbers are those of rational arithmetic; a quotient and a root are held to over 100 bits, with the last bit odd where something
was cut off, which no rounding tells from the exact value; of infinities and NaNs they are those of R105 and R207. A bounded
function gives the table's results at its special operands and where it is exact, and else, with nx, a free value within the
table's units in the last place of the model's reference value, which for VRSQ is within 2^-100 of the function; how close the
references of the other four are is not stated (log 8). The model's choices in it: log 21. -/
def Obligations.VectorFloatForms : Prop :=
  ∀ (d a b c : Reg) (pg : PReg) (t : ElemType) (ft : FloatType) (s : State),
    let x (e : Nat) : FVal := s.felem t a e
    let y (e : Nat) : FVal := s.felem t b e
    let z (r : Reg) (e : Nat) : FVal := s.felem (floatElem ft) r e
    let one (v : FVal) : Rounded := (⟨v, 0⟩ : Formed).round (elemFmt t) .rne 0
    let near (v : FVal) (q : ℝ) : Prop := ∃ neg m e, v = .fin neg m e ∧ 0 < m ∧
      ((((m : ℚ) * 2 ^ e : ℚ) : ℝ) = q ∨
        (m % 2 = 1 ∧ 2 ^ 100 ≤ m ∧ |(((m : ℚ) * 2 ^ e : ℚ) : ℝ) - q| < (((2 : ℚ) ^ e : ℚ) : ℝ)))
    -- the exact results
    (∀ (md : RMode) (na nb nc : Bool) (ma mb mc : Nat) (ea eb ec : Int),
      let p : FVal := .fin na ma ea; let q : FVal := .fin nb mb eb; let o : FVal := .fin nc mc ec;
      (∃ n m e, addF md p q = ⟨.fin n m e, 0⟩ ∧ (FVal.fin n m e).rat = p.rat + q.rat ∧
        (p.rat + q.rat = 0 → n = if na = nb then na else decide (md = .rdn))) ∧
      (∃ m e, mulF p q = ⟨.fin (na != nb) m e, 0⟩ ∧ (FVal.fin (na != nb) m e).rat = p.rat * q.rat) ∧
      (∃ n m e, fmaF md p q o = ⟨.fin n m e, 0⟩ ∧ (FVal.fin n m e).rat = p.rat * q.rat + o.rat ∧
        (p.rat * q.rat + o.rat = 0 → n = if (na != nb) = nc then nc else decide (md = .rdn))) ∧
      (mb ≠ 0 → ma ≠ 0 → (divF p q).flags = 0 ∧ (divF p q).val.neg = (na != nb) ∧
        near (divF p q).val ((p.mag / q.mag : ℚ) : ℝ)) ∧
      (mb ≠ 0 → ma = 0 → ∃ e, divF p q = ⟨.fin (na != nb) 0 e, 0⟩) ∧
      (mb = 0 → divF p q = if ma = 0 then ⟨.nan false, 16⟩ else ⟨.inf (na != nb), 8⟩) ∧
      (na = false → ma ≠ 0 → (sqrtF p).flags = 0 ∧ (sqrtF p).val.neg = false ∧
        near (sqrtF p).val (Real.sqrt ((p.mag : ℚ) : ℝ))) ∧
      (ma = 0 → sqrtF p = ⟨p, 0⟩) ∧ (na = true → ma ≠ 0 → sqrtF p = ⟨.nan false, 16⟩) ∧
      (∀ n, addF md (.inf n) (.inf n) = ⟨.inf n, 0⟩ ∧ addF md (.inf n) (.inf !n) = ⟨.nan false, 16⟩ ∧
        addF md (.inf n) p = ⟨.inf n, 0⟩ ∧ addF md p (.inf n) = ⟨.inf n, 0⟩ ∧
        mulF (.inf n) p = (if ma = 0 then ⟨.nan false, 16⟩ else ⟨.inf (n != na), 0⟩) ∧
        mulF p (.inf n) = (if ma = 0 then ⟨.nan false, 16⟩ else ⟨.inf (na != n), 0⟩) ∧
        divF (.inf n) p = ⟨.inf (n != na), 0⟩ ∧ (∃ e, divF p (.inf n) = ⟨.fin (na != n) 0 e, 0⟩) ∧
        (∀ n', mulF (.inf n) (.inf n') = ⟨.inf (n != n'), 0⟩ ∧ divF (.inf n) (.inf n') = ⟨.nan false, 16⟩) ∧
        sqrtF (.inf n) = if n then ⟨.nan false, 16⟩ else ⟨.inf false, 0⟩)) ∧
    (∀ (md : RMode) (p q : FVal), p.isNan = true ∨ q.isNan = true →
      let nan : Formed := ⟨.nan false, if p.isSig = true ∨ q.isSig = true then 16 else 0⟩
      addF md p q = nan ∧ mulF p q = nan ∧ divF p q = nan) ∧
    (∀ (n q : Bool) (m : Nat) (e : Int), (FVal.nan q).negate = .nan q ∧ (FVal.inf n).negate = .inf !n ∧
      (FVal.fin n m e).negate = .fin (!n) m e ∧ (FVal.inf n).abs = .inf false ∧ (FVal.fin n m e).abs = .fin false m e ∧
      sqrtF (.nan q) = ⟨.nan false, if q then 16 else 0⟩) ∧
    -- a product and a sum of which one is infinite or NaN
    (∀ (md : RMode) (p q o : FVal),
      let zeroInf := (p.isInf = true ∧ q.isZero = true) ∨ (p.isZero = true ∧ q.isInf = true)
      let nan := p.isNan = true ∨ q.isNan = true ∨ o.isNan = true
      let product := p.isInf = true ∨ q.isInf = true;
      (nan ∨ zeroInf →
        fmaF md p q o = ⟨.nan false, if p.isSig = true ∨ q.isSig = true ∨ o.isSig = true ∨ zeroInf then 16 else 0⟩) ∧
      (¬nan → ¬zeroInf → product → fmaF md p q o =
        if o = .inf !(p.neg != q.neg) then ⟨.nan false, 16⟩ else ⟨.inf (p.neg != q.neg), 0⟩) ∧
      (∀ n, ¬nan → ¬product → o = .inf n → fmaF md p q o = ⟨.inf n, 0⟩)) ∧
    -- the greater and the smaller of two patterns
    (∀ (f : Fmt) (p q : Nat), f ∈ [.f64, .f32, .f16, .bf16] → p < 2 ^ f.width → q < 2 ^ f.width →
      let u := decodeF f p; let v := decodeF f q; let half := 2 ^ (f.width - 1)
      let key (c : Nat) : Int := if c / half = 1 then -((c % half : Nat) : Int) - 1 else c;
      (∀ most, u.isNan = true ∨ v.isNan = true → exactBits f (selectF most u v) =
        ⟨if u.isNan = false then p else if v.isNan = false then q else f.nan,
          if u.isSig = true ∨ v.isSig = true then 16 else 0⟩) ∧
      (u.isNan = false → v.isNan = false →
        exactBits f (selectF true u v) = ⟨if key p < key q then q else p, 0⟩ ∧
        exactBits f (selectF false u v) = ⟨if key q < key p then q else p, 0⟩)) ∧
    -- the bounded functions
    (∀ (g : Special) (f : Fmt) (w : Nat), f ∈ [.bf16, .f16, .f32] → w < 2 ^ f.width →
      let r := specialF g f w; let nan : Rounded := ⟨f.nan, 16⟩; let inf := (2 ^ f.ebits - 1) * 2 ^ f.mbits
      let sign (n : Bool) : Nat := if n then 2 ^ (f.width - 1) else 0; let unity := f.bias * 2 ^ f.mbits;
      (∀ q, decodeF f w = .nan q → r = ⟨f.nan, if q then 16 else 0⟩) ∧
      (∀ n, decodeF f w = .inf n → r = match g with
        | .rsq => if n then nan else ⟨0, 0⟩ | .exp2 => if n then ⟨0, 0⟩ else ⟨inf, 0⟩ | .log2 => if n then nan else ⟨inf, 0⟩
        | .tanh => ⟨sign n + unity, 0⟩ | .sin => nan) ∧
      (∀ n e, decodeF f w = .fin n 0 e → r = match g with
        | .rsq => ⟨sign n + inf, 8⟩ | .exp2 => ⟨unity, 0⟩ | .log2 => ⟨sign true + inf, 8⟩
        | .tanh => ⟨sign n, 0⟩ | .sin => ⟨sign n, 0⟩) ∧
      (∀ n m e, decodeF f w = .fin n m e → m ≠ 0 →
        let v : ℚ := (FVal.fin n m e).rat
        let exact_ (i : Int) : Prop :=
          (g = .exp2 ∧ v = i ∧ f.emin - f.mbits ≤ i ∧ i ≤ f.emax) ∨ (g = .log2 ∧ v = (2 : ℚ) ^ i)
        (n = true → g = .rsq ∨ g = .log2 → r = nan) ∧
        (∀ i, exact_ i → r.flags = 0 ∧ (decodeF f r.bits).rat = if g = .exp2 then (2 : ℚ) ^ i else i) ∧
        (g = .exp2 → 2 ^ 13 ≤ |v| → r = if n then ⟨0, 3⟩ else ⟨inf, 5⟩) ∧
        (¬(n = true ∧ (g = .rsq ∨ g = .log2)) → (∀ i, ¬exact_ i) → ¬(g = .exp2 ∧ 2 ^ 13 ≤ |v|) →
          r.flags ∈ [1, 3, 5] ∧ ∀ n' m' e', g.ref n m e = .fin n' m' e' → m' ≠ 0 →
            let ulp : ℚ := (2 : ℚ) ^ (max ((Nat.log2 m' : Int) + e') f.emin - f.mbits)
            (r.flags = 5 → r.bits = sign n' + inf) ∧
            (r.flags ≠ 5 → (decodeF f r.bits).isInf = false ∧ (decodeF f r.bits).isNan = false ∧
              |(decodeF f r.bits).rat - (FVal.fin n' m' e').rat| ≤ (if g = .rsq ∨ f ≠ .f32 then 1 else 2) * ulp)) ∧
        (g = .rsq → n = false → ∃ m' e', g.ref n m e = .fin false m' e' ∧
          |(((m' : ℚ) * 2 ^ e' : ℚ) : ℝ) - 1 / Real.sqrt (v : ℝ)| ≤ 2 ^ (-100 : ℤ) * (1 / Real.sqrt (v : ℝ))))) ∧
    (t.isInt = false →
      VectorRounds (.vadd d a b pg t) s t d pg (fun e => addF s.mode (x e) (y e)) ∧
      VectorRounds (.vsub d a b pg t) s t d pg (fun e => addF s.mode (x e) (y e).negate) ∧
      VectorRounds (.vmul d a b pg t) s t d pg (fun e => mulF (x e) (y e)) ∧
      VectorRounds (.vdiv d a b pg t) s t d pg (fun e => divF (x e) (y e)) ∧
      VectorRaises (.vmax d a b pg t) s t d pg (fun e => exactBits (elemFmt t) (selectF true (x e) (y e))) ∧
      VectorRaises (.vmin d a b pg t) s t d pg (fun e => exactBits (elemFmt t) (selectF false (x e) (y e))) ∧
      VectorRaises (.vabs d a pg t) s t d pg
        (fun e => if (x e).isNan then exactBits (elemFmt t) (nanOf [x e]) else one (x e).abs) ∧
      VectorRaises (.vneg d a pg t) s t d pg
        (fun e => if (x e).isNan then exactBits (elemFmt t) (nanOf [x e]) else one (x e).negate)) ∧
    VectorRounds (.vsqrt d a pg t) s t d pg (fun e => sqrtF (x e)) ∧
    VectorRounds (.vrcp d a pg t) s t d pg (fun e => divF (.fin false 1 0) (x e)) ∧
    VectorRaises (.vrsq d a pg t) s t d pg (fun e => specialF .rsq (elemFmt t) (s.elem t a e)) ∧
    VectorRaises (.vexp2 d a pg t) s t d pg (fun e => specialF .exp2 (elemFmt t) (s.elem t a e)) ∧
    VectorRaises (.vlog2 d a pg t) s t d pg (fun e => specialF .log2 (elemFmt t) (s.elem t a e)) ∧
    VectorRaises (.vtanh d a pg t) s t d pg (fun e => specialF .tanh (elemFmt t) (s.elem t a e)) ∧
    VectorRaises (.vsin d a pg t) s t d pg (fun e => specialF .sin (elemFmt t) (s.elem t a e)) ∧
    VectorRounds (.vfma d a b c pg ft) s (floatElem ft) d pg (fun e => fmaF s.mode (z a e) (z b e) (z c e)) ∧
    VectorRounds (.vfms d a b c pg ft) s (floatElem ft) d pg (fun e => fmaF s.mode (z a e) (z b e) (z c e).negate)

/-- VCMP by elements: integers by their bits or their signed or unsigned reading; floats by IEEE value, where a NaN is unequal
and unordered and only a signalling one sets nv (R109, R199, R210). Equality and order of floats are those of the numbers, in
which the two zeros are one, with an infinity beyond every number. -/
def Obligations.VectorCompares : Prop :=
  (∀ (na nb m n : Bool) (ma mb : Nat) (ea eb : Int), let p : FVal := .fin na ma ea; let q : FVal := .fin nb mb eb
    (eqIeee p q = true ↔ p.rat = q.rat) ∧ (ltIeee p q = true ↔ p.rat < q.rat) ∧
    eqIeee (.inf m) (.inf n) = (m == n) ∧ eqIeee (.inf m) p = false ∧ eqIeee p (.inf m) = false ∧
    ltIeee (.inf m) (.inf n) = (m && !n) ∧ ltIeee (.inf m) p = m ∧ ltIeee p (.inf m) = !m) ∧
  (∀ p q : FVal, p.isNan = true ∨ q.isNan = true → eqIeee p q = false ∧ ltIeee p q = false) ∧
  ∀ (pd : PReg) (a b : Reg) (pg : PReg) (t : ElemType) (s : State),
    let x (e : Nat) : BitVec (elemWidth t) := BitVec.ofNat (elemWidth t) (s.elem t a e)
    let y (e : Nat) : BitVec (elemWidth t) := BitVec.ofNat (elemWidth t) (s.elem t b e)
    let p (e : Nat) : FVal := s.felem t a e
    let q (e : Nat) : FVal := s.felem t b e
    let sig : FFlags := activeFlags (s.preg pg) (elemWidth t) (s.elems (elemWidth t)) fun e =>
      if (p e).isSig || (q e).isSig then flagNv else 0
    let int (i : Instr) (f : Nat → Bool) : Prop := PredicateGives i s pd 0 (s.laneWhere t pg f)
    let flt (i : Instr) (f : Nat → Bool) : Prop := PredicateGives i s pd sig (s.laneWhere t pg f)
    (t.isInt = true →
      int (.vcmpEq pd a b pg t) (fun e => x e == y e) ∧ int (.vcmpNe pd a b pg t) (fun e => x e != y e) ∧
      int (.vcmpLt pd a b pg t) (fun e => decide ((x e).toInt < (y e).toInt)) ∧
      int (.vcmpLe pd a b pg t) (fun e => decide ((x e).toInt ≤ (y e).toInt)) ∧
      int (.vcmpLo pd a b pg t) (fun e => decide ((x e).toNat < (y e).toNat)) ∧
      int (.vcmpLs pd a b pg t) (fun e => decide ((x e).toNat ≤ (y e).toNat))) ∧
    (t.isInt = false →
      flt (.vcmpEq pd a b pg t) (fun e => eqIeee (p e) (q e)) ∧ flt (.vcmpNe pd a b pg t) (fun e => !eqIeee (p e) (q e)) ∧
      flt (.vcmpLt pd a b pg t) (fun e => ltIeee (p e) (q e)) ∧
      flt (.vcmpLe pd a b pg t) (fun e => ltIeee (p e) (q e) || eqIeee (p e) (q e)))

/-- VCVT, VQNT and VDQT: the positions converted, the saturation of integers, zero above a narrower result and above the
blocks, blocks by R213 and R214, and ILL for a floating group that is not aligned (R211 to R214). Underneath: the formats and
the value of a pattern (R93, R94), the rounding of an exact value by R101 to R104, a conversion to an integer (R103), and a
block with its scale and its codes (R106, R107, R213). That an infinite operand which saturates sets of alone is the model's
choice (log 60). -/
def Obligations.VectorConversions : Prop :=
  ∀ (d a : Reg) (cv : Fin 32) (pg : PReg) (t : ElemType) (s : State),
    let st := ElemType.ofCode (cv.val / 4)
    let ws := elemWidth st
    let wd := elemWidth t
    let n := s.vw / max ws wd
    let mode := s.cvMode cv.val
    let steps (m : Nat) : Nat := if mode = .sr then (m + 7) / 8 else 0
    let r (m e : Nat) : Nat := srBits (s.gen.draw (steps m)) e
    let k := if 32 * wd ≤ s.vw then 1 else 32 * wd / s.vw
    let nb := if 32 * wd ≤ s.vw then s.vw / (32 * wd) else 1
    let per := s.vw / wd
    let fmt := BlockFmt.ofCode (cv.val / 4)
    let x (e : Nat) : FVal := if activeAt (s.preg pg) wd (e % per) then s.felem t (regPlus a (e / per)) (e % per) else .zero
    let block (b : Nat) : Block :=
      qntBlock fmt mode (s.gen.draw (steps (32 * nb))) (s.vreg d) b ((List.range 32).map fun i => x (32 * b + i))
    let y (e : Nat) : Rounded := roundVal (elemFmt t) mode (r (32 * nb) e) false
      (fmt.decode (elemAt (s.vreg a) (8 * fmt.bytes) (e / 32)) (e % 32))
    let converts (i : Instr) (signed : Bool) : Prop :=
      let y (e : Nat) : Rounded := convertElem signed st t mode (r n e) (elemAt (s.vreg a) ws e)
      ∃ u, exec i s = .next u ∧ s.sameButVG u ∧ s.drew u (steps n) ∧ u.act.pc = s.act.pc + 4 ∧
        u.act.frm = frmRaise s.act.frm (activeFlags (s.preg pg) wd n fun e => (y e).flags) ∧
        (∀ q, q ≠ d → u.vreg q = s.vreg q) ∧
        ∀ e < per, u.elem t d e = if e < n then (if activeAt (s.preg pg) wd e then (y e).bits % 2 ^ wd else s.elem t d e) else 0
    let spread (f : Nat → FFlags) (m : Nat) : FFlags := (List.range m).foldl (fun acc i => acc ||| f i) 0
    -- the formats
    (∀ p ∈ [(Fmt.f64, 64, 52, 1023), (.f32, 32, 23, 127), (.f16, 16, 10, 15), (.bf16, 16, 7, 127), (.e4m3, 8, 3, 7),
        (.e5m2, 8, 2, 15), (.e3m2, 6, 2, 3), (.e2m3, 6, 3, 1), (.e2m1, 4, 1, 1)],
      p.1.width = p.2.1 ∧ p.1.mbits = p.2.2.1 ∧ p.1.bias = p.2.2.2) ∧
    (∀ (f : Fmt) (w : Nat), w < 2 ^ f.width →
      let M := w % 2 ^ f.mbits; let E := w / 2 ^ f.mbits % 2 ^ (f.width - 1 - f.mbits)
      let sg : Bool := decide (w / 2 ^ (f.width - 1) = 1); let full := 2 ^ (f.width - 1 - f.mbits) - 1
      let ieee := f ∈ [Fmt.f64, .f32, .f16, .bf16, .e5m2]
      (ieee → E = full → M = 0 → decodeF f w = .inf sg) ∧
      (ieee → E = full → M ≠ 0 → decodeF f w = .nan (decide (M < 2 ^ (f.mbits - 1)))) ∧
      (f = .e4m3 → E = 15 → M = 7 → decodeF f w = .nan false) ∧
      (¬(ieee ∧ E = full) → ¬(f = .e4m3 ∧ E = 15 ∧ M = 7) → ∃ m e, decodeF f w = .fin sg m e ∧
        (m : ℚ) * 2 ^ e = if E = 0 then (2 : ℚ) ^ (1 - (f.bias : ℤ)) * (M / 2 ^ f.mbits)
          else 2 ^ ((E : ℤ) - f.bias) * (1 + M / 2 ^ f.mbits))) ∧
    -- the rounding of a value
    (∀ (f : Fmt) (md : RMode) (ran : Nat) (quant neg sg : Bool) (m : Nat) (e : Int), ran < 2 ^ 16 →
      let sign := if neg then 2 ^ (f.width - 1) else 0;
      (m = 0 → roundVal f md ran quant (.fin neg m e) = ⟨sign, 0⟩) ∧
      (m ≠ 0 → RoundsTo f md ran quant neg (((m : ℚ) * 2 ^ e : ℚ) : ℝ) (roundVal f md ran quant (.fin neg m e))) ∧
      roundVal f md ran quant (.inf neg) = (if f ∈ [.e4m3, .e3m2, .e2m3, .e2m1] ∨ (f = .e5m2 ∧ quant = true)
        then ⟨sign + f.maxFinite, 4⟩ else ⟨sign + (2 ^ f.ebits - 1) * 2 ^ f.mbits, 0⟩) ∧
      roundVal f md ran quant (.nan sg) = ⟨f.nan, if sg then 16 else 0⟩ ∧
      (∀ (x : FVal) (fl : FFlags), (⟨x, fl⟩ : Formed).round f md ran =
        ⟨(roundVal f md ran false x).bits, (roundVal f md ran false x).flags ||| fl⟩)) ∧
    -- a conversion of an element
    (∀ (sg : Bool) (src dst : ElemType) (md : RMode) (ran v : Nat), v < 2 ^ elemWidth src → ran < 2 ^ 16 →
      let m := elemWidth dst
      let lo : Int := if sg then -2 ^ (m - 1) else 0; let hi : Int := if sg then 2 ^ (m - 1) - 1 else 2 ^ m - 1
      let pat (i : Int) : Nat := (i % 2 ^ m).toNat
      let i : Int := if sg then (BitVec.ofNat (elemWidth src) v).toInt else v
      let y := convertElem sg src dst md ran v;
      (src.isInt = true → dst.isInt = true → y = if i < lo then ⟨pat lo, 16⟩ else if hi < i then ⟨pat hi, 16⟩ else ⟨pat i, 0⟩) ∧
      (src.isInt = true → dst.isInt = false → y = roundVal (elemFmt dst) md ran false (.fin (decide (i < 0)) i.natAbs 0)) ∧
      (src.isInt = false → dst.isInt = false → y = roundVal (elemFmt dst) md ran false (decodeF (elemFmt src) v)) ∧
      (src.isInt = false → dst.isInt = true →
        (∀ q, decodeF (elemFmt src) v = .nan q → y = ⟨0, 16⟩) ∧
        (∀ neg, decodeF (elemFmt src) v = .inf neg → y = ⟨pat (if neg then lo else hi), 16⟩) ∧
        (∀ neg n e, decodeF (elemFmt src) v = .fin neg n e → ∃ k : Nat,
          let mag : ℝ := (((n : ℚ) * 2 ^ e : ℚ) : ℝ); let j : Int := if neg then -(k : Int) else k;
          RoundsUnits md ran neg mag k ∧ (j < lo → y = ⟨pat lo, 16⟩) ∧ (hi < j → y = ⟨pat hi, 16⟩) ∧
            (lo ≤ j → j ≤ hi → y.bits = pat j ∧ (mag = k → y.flags = 0) ∧ (mag ≠ k → y.flags = 1))))) ∧
    -- a quantized block
    (∀ (fmt : BlockFmt) (md : RMode) (run : List (BitVec 128)) (old b : Nat) (xs : List FVal), xs.length = 32 →
      let f := fmt.fmt; let B := qntBlock fmt md run old b xs; let x (i : Nat) : FVal := (xs[i]?).getD .zero
      let ran (i : Nat) : Nat := srBits run (32 * b + i)
      let vals := decodeF .f32 (old / 2 ^ (32 * b) % 2 ^ 32) :: xs
      let top := if fmt = .e2m1x then 128 else 192;
      ((fmt = .e4m3 ∨ fmt = .e5m2) → let y (i : Nat) : Rounded := roundVal f md (ran i) true (x i)
        (∀ i < 32, B.bits / 2 ^ (8 * i) % 2 ^ 8 = (y i).bits) ∧ B.flags = spread (fun i => (y i).flags) 32) ∧
      (fmt ≠ .e4m3 → fmt ≠ .e5m2 →
        ((∃ v ∈ vals, v.isNan = true ∨ v.isInf = true) → B = ⟨0xFF * 2 ^ top, 16⟩) ∧
        (∀ A : ℚ, (∀ v ∈ vals, v.isNan = false ∧ v.isInf = false ∧ v.mag ≤ A) → (∃ v ∈ vals, v.mag = A) →
          let first (i : Nat) : Bool := decide (fmt = .e2m1x ∧ A ≠ 0 ∧ (x i).mag = A) &&
            (List.range i).all fun j => decide ((x j).mag ≠ A)
          let any := (List.range 32).any first;
          ∃ (e : ℤ) (y : Nat → Rounded) (z : Rounded),
            ((A = 0 ∧ e = -127) ∨ ∃ t : ℤ, (2 : ℚ) ^ t ≤ A ∧ A < 2 ^ (t + 1) ∧
              e = max (-127) (min 127 (t - if fmt = .e3m2 then 4 else 2))) ∧
            (∀ i < 32, ∃ w : FVal, w.isNan = false ∧ w.isInf = false ∧ w.neg = (x i).neg ∧ w.mag = (x i).mag / 2 ^ e ∧
              y i = roundVal f md (ran i) true w) ∧
            (∃ (n : Nat) (c : Int), (n : ℚ) * 2 ^ c = A / 2 ^ e ∧ z = roundVal .e4m3 .rne 0 true (.fin false n c)) ∧
            (∀ i < 32, B.bits / 2 ^ (f.width * i) % 2 ^ f.width =
              if first i then 8 else if fmt = .e2m1x ∧ (y i).bits = 8 then 0 else (y i).bits) ∧
            ((B.bits / 2 ^ top % 256 : Nat) : ℤ) = e + 127 ∧
            (fmt = .e2m1x → B.bits / 2 ^ 136 =
              z.bits + if (List.range 32).any (fun i => first i && (x i).neg) then 128 else 0) ∧
            (fmt ≠ .e2m1x → B.bits < 2 ^ 200) ∧
            B.flags = spread (fun i => if first i then 0 else (y i).flags) 32 ||| if any then z.flags else 0))) ∧
    converts (.vcvt d a cv pg t) true ∧ converts (.vcvtUnsigned d a cv pg t) false ∧
    (∀ (src dst : ElemType) (v m ran : Nat) (md : RMode), m = elemWidth dst → src.isInt = true → dst.isInt = true →
      v < 2 ^ elemWidth src →
      convertElem false src dst md ran v = (if 2 ^ m ≤ v then ⟨2 ^ m - 1, flagNv⟩ else ⟨v, 0⟩)) ∧
    (a.val % k ≠ 0 → Raises (.vqnt d a cv pg t) s codeIll 0) ∧
    (a.val % k = 0 → ∃ u, exec (.vqnt d a cv pg t) s = .next u ∧ s.sameButVG u ∧ s.drew u (steps (32 * nb)) ∧
      u.act.pc = s.act.pc + 4 ∧
      u.act.frm = frmRaise s.act.frm ((List.range nb).foldl (fun f b => f ||| (block b).flags) 0) ∧
      (∀ q, q ≠ d → u.vreg q = s.vreg q) ∧
      (∀ b < nb, elemAt (u.vreg d) (8 * fmt.bytes) b = (block b).bits % 2 ^ (8 * fmt.bytes)) ∧
      u.vreg d / 2 ^ (8 * fmt.bytes * nb) = 0) ∧
    (d.val % k ≠ 0 → Raises (.vdqt d a cv pg t) s codeIll 0) ∧
    (d.val % k = 0 → ∃ u, exec (.vdqt d a cv pg t) s = .next u ∧ s.sameButVG u ∧ s.drew u (steps (32 * nb)) ∧
      u.act.pc = s.act.pc + 4 ∧ (∀ q, (∀ j < k, q ≠ regPlus d j) → u.vreg q = s.vreg q) ∧
      u.act.frm = frmRaise s.act.frm ((List.range (32 * nb)).foldl
        (fun f e => if activeAt (s.preg pg) wd (e % per) then f ||| (y e).flags else f) 0) ∧
      ∀ e < 32 * nb, u.elem t (regPlus d (e / per)) (e % per) =
        if activeAt (s.preg pg) wd (e % per) then (y e).bits % 2 ^ wd else s.elem t (regPlus d (e / per)) (e % per))

/-- The reductions, scans and VARGM (R111, R215): the pairwise tree, of which each level combines adjacent results, lower
index first, or the sequence, over the elements with the identity for an inactive one, placed as R215 says; of integers the
sum wraps, the extreme is one of the active elements and none lies beyond it, and VARGM names the lowest index of it, all ones
when no element is active. Two floating results are combined by one RNE rounding of their exact sum, or by the order of R109,
in which VARGM passes a NaN over for a number. The model's choices in it: log 43, and log 21, by which a sum of exactly zero
is +0 unless both are negative. -/
def Obligations.ReductionsAndScans : Prop :=
  ∀ (d a : Reg) (pg : PReg) (t : ElemType) (s : State),
    let w := elemWidth t
    let n := s.elems w
    let act (e : Nat) : Bool := activeAt (s.preg pg) w e
    let x (e : Nat) : BitVec (elemWidth t) := BitVec.ofNat (elemWidth t) (s.elem t a e)
    let sum (m : Nat) : BitVec (elemWidth t) := ((List.range m).map fun e => if act e then x e else 0).sum
    let tree (o : RedOp) (sg : Bool) : Rounded :=
      redTree (redCombine o sg t) 7 ((s.redElems o sg t a pg).map fun v => ⟨v, 0⟩)
    let reduces (i : Instr) (o : RedOp) (sg : Bool) : Prop :=
      exec i s = .next (((s.setX d (placeRed sg t (tree o sg).bits)).raiseFlags (tree o sg).flags).advance 4)
    let outs (o : RedOp) (sg : Bool) : List Rounded := match s.redElems o sg t a pg with
      | [] => []
      | v :: vs => ⟨v, 0⟩ :: scanFrom (redCombine o sg t) v vs
    let scans (i : Instr) (o : RedOp) (sg : Bool) : Prop :=
      ∃ u, exec i s = .next u ∧ s.sameButV u ∧ u.act.pc = s.act.pc + 4 ∧
        u.act.frm = frmRaise s.act.frm ((outs o sg).foldl (fun f y => f ||| y.flags) 0) ∧
        s.elementsAre u t d pg fun e => (((outs o sg)[e]?).getD ⟨0, 0⟩).bits % 2 ^ w
    let es := ((List.range n).filter act).map fun e => (e, s.elem t a e)
    let names (i : Instr) (most sg : Bool) : Prop :=
      exec i s = .next (((s.setX d (match argmFrom most sg t none es with
        | none => BitVec.allOnes 64
        | some p => BitVec.ofNat 64 p.1)).raiseFlags
          (if !t.isInt && es.any (fun p => (decodeF (elemFmt t) p.2).isSig) then flagNv else 0)).advance 4)
    let extreme (i : Instr) (le : BitVec (elemWidth t) → BitVec (elemWidth t) → Prop)
        (place : BitVec (elemWidth t) → Word) : Prop :=
      ∀ e, e < n → act e = true → ∃ m, m < n ∧ act m = true ∧ Writes i s d (place (x m)) ∧
        ∀ j, j < n → act j = true → le (x j) (x m)
    let index (i : Instr) (le : BitVec (elemWidth t) → BitVec (elemWidth t) → Prop) : Prop :=
      ((∀ e, e < n → act e = false) → Writes i s d (BitVec.allOnes 64)) ∧
      (∀ e, e < n → act e = true → ∃ m, m < n ∧ act m = true ∧ Writes i s d (BitVec.ofNat 64 m) ∧
        ∀ j, j < n → act j = true → le (x j) (x m) ∧ (j < m → ¬le (x m) (x j)))
    -- the levels of the tree, the sequence, and what enters them
    (∀ (f : Nat → Nat → Rounded) (k : Nat) (xs : List Rounded) (y : Rounded),
      redTree f 0 (y :: xs) = y ∧ redTree f (k + 1) xs = redTree f k (redLevel f xs) ∧ redLevel f [y] = [y] ∧
      (xs.length % 2 = 0 → (redLevel f xs).length = xs.length / 2 ∧
        ∀ i < xs.length / 2, ∃ p q, xs[2 * i]? = some p ∧ xs[2 * i + 1]? = some q ∧ (redLevel f xs)[i]? =
          some ⟨(f p.bits q.bits).bits, (f p.bits q.bits).flags ||| p.flags ||| q.flags⟩)) ∧
    (∀ (o : RedOp) (sg : Bool), let top := 2 ^ (w - 1); let inf := (2 ^ (elemFmt t).ebits - 1) * 2 ^ (elemFmt t).mbits
      let identity : Nat := match o with
        | .add => if t.isInt then 0 else top
        | .max => if t.isInt then (if sg then top else 0) else top + inf
        | .min => if t.isInt then (if sg then top - 1 else 2 ^ w - 1) else inf
      (s.redElems o sg t a pg).length = n ∧ (outs o sg).length = n ∧
      (∀ e < n, (s.redElems o sg t a pg)[e]? = some (if act e then s.elem t a e else identity)) ∧
      (∀ v, (s.redElems o sg t a pg)[0]? = some v → (outs o sg)[0]? = some ⟨v, 0⟩) ∧
      (∀ e v y, (s.redElems o sg t a pg)[e + 1]? = some v → (outs o sg)[e]? = some y →
        (outs o sg)[e + 1]? = some (redCombine o sg t y.bits v)) ∧
      (∀ v, t.isInt = false → placeRed sg t v = BitVec.ofNat 64 v)) ∧
    -- two floating results combined
    (t.isInt = false → ∀ (sg : Bool) (p q : Nat), p < 2 ^ w → q < 2 ^ w →
      let f := elemFmt t; let u := decodeF f p; let v := decodeF f q
      let nv : FFlags := if u.isSig = true ∨ v.isSig = true then 16 else 0
      let key (c : Nat) : Int := if c / 2 ^ (w - 1) = 1 then -((c % 2 ^ (w - 1) : Nat) : Int) - 1 else c;
      ((u.isNan = true ∨ v.isNan = true) → redCombine .add sg t p q = ⟨f.nan, nv⟩ ∧
        ∀ o, o = .max ∨ o = .min → redCombine o sg t p q =
          ⟨if u.isNan = false then p else if v.isNan = false then q else f.nan, nv⟩) ∧
      (u.isNan = false → v.isNan = false →
        redCombine .max sg t p q = ⟨if key p < key q then q else p, 0⟩ ∧
        redCombine .min sg t p q = ⟨if key q < key p then q else p, 0⟩ ∧
        (∀ n, u = .inf n → v ≠ .inf !n → redCombine .add sg t p q = ⟨p, 0⟩) ∧
        (∀ n, v = .inf n → u ≠ .inf !n → redCombine .add sg t p q = ⟨q, 0⟩) ∧
        (∀ n, u = .inf n → v = .inf !n → redCombine .add sg t p q = ⟨f.nan, 16⟩) ∧
        (u.isInf = false → v.isInf = false → let z := u.rat + v.rat
          (z = 0 → redCombine .add sg t p q = ⟨if u.neg = true ∧ v.neg = true then 2 ^ (w - 1) else 0, 0⟩) ∧
          (z ≠ 0 → RoundsTo f .rne 0 false (decide (z < 0)) ((|z| : ℚ) : ℝ) (redCombine .add sg t p q))))) ∧
    reduces (.vredAdd d a pg t) .add true ∧ reduces (.vredMax d a pg t) .max true ∧
    reduces (.vredMaxUnsigned d a pg t) .max false ∧ reduces (.vredMin d a pg t) .min true ∧
    reduces (.vredMinUnsigned d a pg t) .min false ∧
    scans (.vscanAdd d a pg t) .add true ∧ scans (.vscanMax d a pg t) .max true ∧ scans (.vscanMaxUnsigned d a pg t) .max false ∧
    names (.vargmMax d a pg t) true true ∧ names (.vargmMaxUnsigned d a pg t) true false ∧
    names (.vargmMin d a pg t) false true ∧ names (.vargmMinUnsigned d a pg t) false false ∧
    (t.isInt = false →
      let half := 2 ^ (w - 1)
      let key (e : Nat) : Int := let c := s.elem t a e; if c / half = 1 then -((c % half : Nat) : Int) - 1 else c
      let number (e : Nat) : Prop := (s.felem t a e).isNan = false
      ∀ e < n, act e = true →
        (∃ m < n, act m = true ∧ argmFrom true true t none es = some (m, s.elem t a m) ∧ ∀ j < n, act j = true →
          (number j → number m ∧ key j ≤ key m) ∧ (j < m → number m ∧ (number j → key j < key m))) ∧
        (∃ m < n, act m = true ∧ argmFrom false true t none es = some (m, s.elem t a m) ∧ ∀ j < n, act j = true →
          (number j → number m ∧ key m ≤ key j) ∧ (j < m → number m ∧ (number j → key m < key j)))) ∧
    (t.isInt = true →
      Writes (.vredAdd d a pg t) s d ((sum n).signExtend 64) ∧
      VectorGives (.vscanAdd d a pg t) s t d pg (fun e => (sum (e + 1)).toNat) ∧
      extreme (.vredMax d a pg t) (fun p q => p.toInt ≤ q.toInt) (BitVec.signExtend 64) ∧
      extreme (.vredMin d a pg t) (fun p q => q.toInt ≤ p.toInt) (BitVec.signExtend 64) ∧
      extreme (.vredMaxUnsigned d a pg t) (fun p q => p.toNat ≤ q.toNat) (BitVec.setWidth 64) ∧
      extreme (.vredMinUnsigned d a pg t) (fun p q => q.toNat ≤ p.toNat) (BitVec.setWidth 64) ∧
      index (.vargmMax d a pg t) (fun p q => p.toInt ≤ q.toInt) ∧ index (.vargmMin d a pg t) (fun p q => q.toInt ≤ p.toInt) ∧
      index (.vargmMaxUnsigned d a pg t) (fun p q => p.toNat ≤ q.toNat) ∧
      index (.vargmMinUnsigned d a pg t) (fun p q => q.toNat ≤ p.toNat))

/-- VEXT and VINS name one element by a scalar register; VRNG draws VW / 128 steps whatever pg holds; VRNGC is a function of
its keys and counters (R118, R216, R221, R222). Beneath them: a step of the generator of a core and the 128 bits that it
yields, which never meets the state zero, a run of steps and the 16 bits that it gives an element (R114, R116), the seed of a
launch (R115), and the counter function (R118). That a jump is 2^64 steps is not stated. -/
def Obligations.ElementAccessAndRandom : Prop :=
  (∀ (g : Gen) (n e : Nat) (j : Word) (l : Nat),
    let a := g.s0 ^^^ (g.s0 <<< 23)
    let b := a ^^^ (a >>> 17)
    let g' : Gen := ⟨g.s1, b ^^^ g.s1 ^^^ (g.s1 >>> 26)⟩
    let s0 : Word := j ^^^ 0x6A09E667F3BCC908
    let s1 : Word := (j * 0x9E3779B97F4A7C15) ^^^ 0xBB67AE8584CAA73B
    g.next = g' ∧ (g ≠ ⟨0, 0⟩ → g.next ≠ ⟨0, 0⟩) ∧ (g.output.setWidth 64 = g.s0 + g.s1) ∧
    (g.output >>> 64).setWidth 64 = (g.s0 ^^^ g.s1).rotateLeft 17 * 0xD1B54A32D192ED03 ∧
    g.draw 0 = [] ∧ g.draw (n + 1) = g'.output :: g'.draw n ∧ g.advance 0 = g ∧ g.advance (n + 1) = g'.advance n ∧
    (∀ v, (g.draw n)[e / 8]? = some v → srBits (g.draw n) e = ((v >>> (16 * (e % 8))).setWidth 16).toNat) ∧
    Gen.seed j 0 = (if s0 = 0 ∧ s1 = 0 then ⟨0, 1⟩ else ⟨s0, s1⟩) ∧ Gen.seed j (l + 1) = (Gen.seed j l).jump) ∧
  (∀ (key : Word) (ctr : BitVec 128) (c0 c1 c2 c3 k0 k1 : BitVec 32) (n : Nat),
    let p : Word := c0.setWidth 64 * 0xCA5A8263
    let q : Word := c2.setWidth 64 * 0xE5F23B5D
    let next : Crng := ⟨(q >>> 32).setWidth 32 ^^^ c1 ^^^ k0, q.setWidth 32, (p >>> 32).setWidth 32 ^^^ c3 ^^^ k1, p.setWidth 32,
      k0 + 0x9E3779B9, k1 + 0x7F4A7C15⟩
    let start : Crng := ⟨ctr.setWidth 32, (ctr >>> 32).setWidth 32, (ctr >>> 64).setWidth 32, (ctr >>> 96).setWidth 32,
      key.setWidth 32, (key >>> 32).setWidth 32⟩
    let c := Crng.rounds 10 start
    Crng.rounds 0 ⟨c0, c1, c2, c3, k0, k1⟩ = ⟨c0, c1, c2, c3, k0, k1⟩ ∧
    Crng.rounds (n + 1) ⟨c0, c1, c2, c3, k0, k1⟩ = Crng.rounds n next ∧ crng key ctr = c.c3 ++ c.c2 ++ c.c1 ++ c.c0) ∧
  ∀ (d a b : Reg) (pg : PReg) (t : ElemType) (s : State),
    let w := elemWidth t
    let i := (s.x b).toNat
    let named : Prop := i < s.elems w ∧ activeAt (s.preg pg) w i = true
    let keyed (j : Nat) : Nat :=
      (crng (BitVec.ofNat 64 (elemAt (s.vreg a) 128 j)) (BitVec.ofNat 128 (elemAt (s.vreg b) 128 j))).toNat
    let drawn (j : Nat) : Nat := (((s.gen.draw (s.vw / 128))[j]?).getD 0).toNat
    (named → Writes (.vext d a b pg t) s d (BitVec.ofNat 64 (s.elem t a i))) ∧
    (¬named → Writes (.vext d a b pg t) s d 0) ∧
    (¬named → Passes (.vins d a b pg t) s) ∧
    (named → ∃ u, exec (.vins d a b pg t) s = .next u ∧ s.sameButV u ∧ u.act.frm = s.act.frm ∧ u.act.pc = s.act.pc + 4 ∧
      (∀ r, r ≠ d → u.vreg r = s.vreg r) ∧
      ∀ e < s.elems w, u.elem t d e = if e = i then (s.x a).toNat % 2 ^ w else s.elem t d e) ∧
    (∃ u, exec (.vrng d pg t) s = .next u ∧ s.sameButVG u ∧ s.drew u (s.vw / 128) ∧ u.act.frm = s.act.frm ∧
      u.act.pc = s.act.pc + 4 ∧ s.elementsAre u t d pg fun e => elemAt (drawn (e * w / 128)) w (e % (128 / w))) ∧
    VectorGives (.vrngc d a b pg t) s t d pg fun e => elemAt (keyed (e * w / 128)) w (e % (128 / w))

/-- The 16-bit forms are the 32-bit forms under p0 with vd as their first source (R65). -/
def Obligations.ShortForms : Prop :=
  ∀ (d v : Reg) (t : Bool) (s : State),
    let f : ElemType := if t then .bf16 else .f32
    let i : ElemType := if t then .i16 else .i32
    ShortOf (.cVaddf d v t) (.vadd d d v 0 f) s ∧ ShortOf (.cVsubf d v t) (.vsub d d v 0 f) s ∧
    ShortOf (.cVmulf d v t) (.vmul d d v 0 f) s ∧ ShortOf (.cVmaxf d v t) (.vmax d d v 0 f) s ∧
    ShortOf (.cVminf d v t) (.vmin d d v 0 f) s ∧ ShortOf (.cVaddi d v t) (.vadd d d v 0 i) s ∧
    ShortOf (.cVsubi d v t) (.vsub d d v 0 i) s ∧ ShortOf (.cVmuli d v t) (.vmul d d v 0 i) s ∧
    ShortOf (.cVmaxi d v t) (.vmax d d v 0 i) s ∧ ShortOf (.cVmini d v t) (.vmin d d v 0 i) s ∧
    ShortOf (.cVand d v) (.vand d d v 0 .i8) s ∧ ShortOf (.cVor d v) (.vor d d v 0 .i8) s ∧
    ShortOf (.cVxor d v) (.vxor d d v 0 .i8) s ∧ ShortOf (.cVmov d v) (.vmov d v 0 .i8) s ∧
    ShortOf (.cVnegf d v t) (.vneg d v 0 f) s ∧ ShortOf (.cVabsf d v t) (.vabs d v 0 f) s

/-- The memory forms of the vector pipe: the address of each element, and the tensor forms on a defined tensor of exactly the
instruction's type; an unknown id or another type raises TENS, an id of more than 16 bits PROT (R217 to R220); TensorTable says
what a descriptor, its coordinates and its addresses are (R229, R230). The model's choices in it: log 39. -/
def Obligations.VectorMemory : Prop :=
  ∀ (d a b : Reg) (pg : PReg) (t : ElemType) (s : State),
    let n := elemWidth t / 8
    let xa := s.x a
    let xb := s.x b
    let plain (e : Nat) : Option Nat := some (xa + xb + BitVec.ofNat 64 (e * n)).toNat
    let strided (e : Nat) : Option Nat := some (xa + BitVec.ofNat 64 e * xb).toNat
    let indexed (e : Nat) : Option Nat :=
      some (xa + (BitVec.ofNat (elemWidth t) (s.elem t b e)).signExtend 64 * BitVec.ofNat 64 n).toNat
    let at_ (D : TDesc) (e : Nat) : Option Nat :=
      (D.coords (bits xb.toNat 31 0) (bits xb.toNat 63 32 + e)).map fun p => D.addr p.1 p.2
    VectorLoads (.vld d a b pg t) s t d pg plain ∧ VectorStores (.vst d a b pg t) s t d pg true plain ∧
    VectorLoads (.vlds d a b pg t) s t d pg strided ∧ VectorStores (.vsts d a b pg t) s t d pg false strided ∧
    VectorLoads (.vgth d a b pg t) s t d pg indexed ∧ VectorStores (.vsct d a b pg t) s t d pg false indexed ∧
    (2 ^ 16 ≤ xa.toNat → Raises (.vldt d a b pg t) s codeProt 0 ∧ Raises (.vstt d a b pg t) s codeProt 0) ∧
    (∀ c, xa.toNat < 2 ^ 16 → s.ctx? s.act.ctx = some c →
      (c.tensor xa.toNat = none → Raises (.vldt d a b pg t) s codeTens 0 ∧ Raises (.vstt d a b pg t) s codeTens 0) ∧
      (∀ T D, c.tensor xa.toNat = some T → parseTensor T = some D →
        (D.fmt ≠ .elem t → Raises (.vldt d a b pg t) s codeTens 0 ∧ Raises (.vstt d a b pg t) s codeTens 0) ∧
        (D.fmt = .elem t →
          VectorLoads (.vldt d a b pg t) s t d pg (at_ D) ∧ VectorStores (.vstt d a b pg t) s t d pg false (at_ D))))


/-! ## Tasks, records, waits, messages, barriers, lists -/

/-- SPAWN, SPAWNJ, JDEC, JADD and BIND (R177 to R181): the operand checks; the entry placed on the target's ready queue and
the count of its entries; the increment before the enqueue; join_update and bind as R40 gives them; and what is left of each
when poison lost the step. An entry is added behind the others of its core (R43); the entries beyond 64 are spilled, and take
places of the task arena, for one of which an arena without room raises PAGE. That 64 of them share a place is the model's
choice (log 7). -/
def Obligations.TasksAndRecords : Prop :=
  (∀ (r : TaskRecord) (delta : Int), let j := max (-2 ^ 31) (min (2 ^ 31 - 1) (r.join + delta))
    r.joined delta = { r with
      join := j
      state := if 0 < r.join ∧ j ≤ 0 then (if r.state = 2 then 4 else if r.state = 1 then 3 else r.state)
        else if r.join ≤ 0 ∧ 0 < j ∧ r.state = 7 then (if r.code = 0 then 1 else 2) else r.state } ∧
    (r.fires delta = true ↔ 0 < r.join ∧ j ≤ 0 ∧ r.state = 2) ∧
    (r.joinErr delta = true ↔ j < 0 ∨ j ≠ r.join + delta)) ∧
  (∀ (r : TaskRecord) (code frame : Nat), r.bound code frame = { r with
    code := code, frame := frame, bseq := (r.bseq + 1) % 2 ^ 16
    state := if r.state = 1 then 2 else if r.state = 3 then 4 else r.state }) ∧
  (∀ (s : State) (c : Ctx) (va : Nat) (r : TaskRecord), s.ctx? s.act.ctx = some c →
    let of (l : Nat) : Prop := (va, l) ∈ c.chainRecords
    ∃ chain kept, s.fire s.act.ctx va r = (s.setCtx s.act.ctx { c with chainRecords := kept }).enqueue s.act.ctx r.tgt
        ⟨.ready, r.lvl, .entry ⟨r.code, r.frame, va, chain, none⟩, 0⟩ ∧
      (∀ l, l ∈ chain ↔ of l) ∧ ∀ p, p ∈ kept ↔ p ∈ c.chainRecords ∧ p.1 ≠ va) ∧
  (∀ (s : State) (c : Ctx) (id l die : Nat) (e : QEntry), s.ctx? id = some c → let k := c.core l
    s.enqueue id l e = (State.setCtx { s with ticks := s.ticks + 1 } id
      (c.setCore l { k with queue := k.queue ++ [{ e with seq := s.ticks }] })).spillRoom id (coreDie (c.host l)) ∧
    (s.spilledOf c ≤ 64 * c.spill.length → s.spillRoom id die = s) ∧
    (64 * c.spill.length < s.spilledOf c → s.spilledOf c ≤ 64 * (c.spill.length + 1) → let at_ := c.freePlace
      (c.inArena at_ = true → s.reaches id at_ = true →
        s.spillRoom id die = s.setCtx id { c with spill := c.spill ++ [at_] }) ∧
      (c.inArena at_ = false ∨ s.reaches id at_ = false → (∀ p ∈ s.pages, p.ctx = id → ∀ a, p.who ≠ .spill a) →
        s.spillRoom id die = { s with pages := s.pages ++ [⟨id, at_, .spill at_, die, false⟩] })) ∧
    (s.ctxs = [(id, c)] → c.cores = [(l, k)] → c.bags = [] → k.work.length ≤ 128 → c.resident = true → c.dead = false →
      c.migrating = false → (∀ q ∈ k.queue, ∃ r, q.body = .entry r) → k.queue.Pairwise (fun p q => p.seq < q.seq) →
      s.spilledOf c = k.queue.length - 64)) ∧
  (∀ (d a b f : Reg) (s : State) (c : Ctx), s.ctx? s.act.ctx = some c →
    let xa := (s.x a).toNat; let xb := (s.x b).toNat; let xf := (s.x f).toNat
    let code := bits xa 47 0; let tgt := bits xa 56 48
    let entry (frame : Nat) : QEntry := ⟨.ready, bits xa 59 57, .entry ⟨code, frame, 0, [], none⟩, 0⟩
    let ready := ((c.core tgt).queue.filter fun e => decide (e.source = .ready)).length + 1
    (2 ^ 60 ≤ xa → Raises (.spawn d a b) s codeProt 0 ∧ Raises (.spawnj d a b) s codeProt 0) ∧
    (xa < 2 ^ 60 → code = 0 ∨ code % 2 = 1 → let fault := if code = 0 then codeProt else codeAlign
      Raises (.spawn d a b) s fault code ∧ Raises (.spawnj d a b) s fault code) ∧
    (xa < 2 ^ 60 → code ≠ 0 → code % 2 = 0 →
      (2 ^ 48 ≤ xb → Raises (.spawn d a b) s codeProt 0) ∧
      (xb < 2 ^ 48 → exec (.spawn d a b) s =
        .next (((s.enqueue s.act.ctx tgt (entry xb)).setX d (BitVec.ofNat 64 (min ready 65535))).advance 4)) ∧
      (∀ r ls s', s.recordAt xb r ls s' → exec (.spawnj d a b) s =
        .next ((((s'.joinedAt xb r ls 1 s.act.lcore).enqueue s.act.ctx tgt (entry xb)).setX d
          (BitVec.ofInt 64 (r.joined 1).join)).advance 4)) ∧
      (∀ s', s.recordLost xb s' → exec (.spawnj d a b) s = .next ((s'.countPoison s.act.ctx s.act.lcore).advance 4))) ∧
    (∀ r ls s', s.recordAt xa r ls s' →
      exec (.jdec a b) s = .next ((s'.joinedAt xa r ls (-((min xb (2 ^ 31 - 1) : Nat) : Int)) s.act.lcore).advance 4) ∧
      exec (.jadd a b) s =
        .next ((s'.joinedAt xa r ls (max (-2 ^ 31) (min (2 ^ 31 - 1) (s.x b).toInt)) s.act.lcore).advance 4) ∧
      (xb ≠ 0 → xb < 2 ^ 48 → xb % 2 = 0 → xf < 2 ^ 48 →
        exec (.bind a b f) s = .next ((s'.boundAt xa r ls xb xf).advance 4))) ∧
    (∀ s', s.recordLost xa s' → ∀ i ∈ [Instr.jdec a b, .jadd a b],
      exec i s = .next ((s'.countPoison s.act.ctx s.act.lcore).advance 4)) ∧
    (xa % 32 ≠ 0 → Raises (.jdec a b) s codeAlign xa ∧ Raises (.jadd a b) s codeAlign xa) ∧
    (xb = 0 ∨ 2 ^ 48 ≤ xb → Raises (.bind a b f) s codeProt xb) ∧
    (xb < 2 ^ 48 → xb % 2 = 1 → Raises (.bind a b f) s codeAlign xb) ∧
    (xb ≠ 0 → xb < 2 ^ 48 → xb % 2 = 0 → 2 ^ 48 ≤ xf → Raises (.bind a b f) s codeProt 0))

/-- END, ENDJ and YLD (R182, R183): the slot is free, the record of the task goes to DONE, or to SAVED for a yield; ENDJ
decrements another record, and its own only when that is DONE; a yielded task stands in a frame that resumes at the next
instruction, at the tail of its level as an entry of its own source. The frame's place, c.freePlace, is the model's choice
(log 7); an arena without room for it, or for spilled entries, asks firmware for a page (R43). Of ENDJ a poisoned record ends
the task alone, and a misaligned one raises ALIGN (R177). -/
def Obligations.TaskEnds : Prop :=
  (∀ (s : State) (cont : Option Nat), let t := s.endTask cont
    t.active = false ∧ t.act = Task.blank ∧ t.mem = s.mem ∧ t.stash = s.stash ∧ t.parked = s.parked ∧ t.cur = s.cur ∧
    t.trans = s.trans ++ (if s.act.record = 0 then [] else [⟨s.act.ctx, s.act.lcore, s.act.record, 7⟩]) ∧
    (∀ l ∈ s.act.chain, cont = none → (s.ctx? s.act.ctx).isSome = true → (t.lcore s.act.ctx l).ch1Closed = false) ∧
    (∀ va, cont = some va → (t.ctx? s.act.ctx).map Ctx.chainRecords =
      (s.ctx? s.act.ctx).map fun c => c.chainRecords ++ s.act.chain.map fun l => (va, l))) ∧
  (∀ s : State, exec .taskEnd s = .next (s.endTask none)) ∧
  (∀ (a : Reg) (s : State), let va := (s.x a).toNat
    (va % 32 ≠ 0 → s.act.record = 0 ∨ canonVa s.who va ≠ s.act.record → Raises (.endj a) s codeAlign va) ∧
    (∀ r ls s', s.recordAt va r ls s' → s.act.record = 0 ∨ canonVa s.who va ≠ s.act.record →
      exec (.endj a) s = .next ((s'.joinedAt va r ls (-1) s.act.lcore).endTask none)) ∧
    (∀ s', s.recordLost va s' → s.act.record = 0 ∨ canonVa s.who va ≠ s.act.record →
      exec (.endj a) s = .next ((s'.countPoison s.act.ctx s.act.lcore).endTask none)) ∧
    (∀ r ls, s.recordAt va r ls s → s.act.record ≠ 0 → canonVa s.who va = s.act.record →
      (∀ pa, inPieces ls pa → ¬s.inTableEntry pa) → ∃ t, exec (.endj a) s = .next t ∧ t.active = false ∧
        TaskRecord.ofNat (bytesToNat (t.readLocs ls)) = { r with state := 7 }.joined (-1) ∧
        (∀ l, (t.lcore s.act.ctx l).queue = (s.lcore s.act.ctx l).queue) ∧
        ∀ e ∈ t.trans, ¬(e.ctx = s.act.ctx ∧ e.record = s.act.record))) ∧
  (∀ (s : State) (c : Ctx), s.ctx? s.act.ctx = some c →
    ∃ t c', exec .yld s = .next t ∧ t.active = false ∧ t.parked = s.parked ∧ t.ctx? s.act.ctx = some c' ∧
      (∃ placed, c'.frames = c.frames ++ [⟨c.freePlace,
        { s.act with pc := s.act.pc + 4, retired := 0, savedSlot := s.cur.idx, pinned := [] }, s.vw, 0, .queued, 0, placed⟩] ∧
        (c.inArena c.freePlace = false → placed = false ∧ t.mem = s.mem ∧
          ∃ more, t.pages = s.pages ++ [⟨s.act.ctx, c.freePlace, .arena c.freePlace, coreDie s.cur.core, false⟩] ++ more ∧
            ∀ p ∈ more, p.ctx = s.act.ctx ∧ ∃ a, p.who = .spill a)) ∧
      (c'.core s.act.lcore).queue = (c.core s.act.lcore).queue ++ [⟨s.act.source, s.act.level, .saved c.freePlace, s.ticks⟩] ∧
      t.trans = s.trans ++ (if s.act.record = 0 then [] else [⟨s.act.ctx, s.act.lcore, s.act.record, 6⟩]))

/-- ENDW of every kind (R184 to R187): with a continuation record that passes its checks the task ends and its wait is
registered; what is there already is taken for it at once; a second reader of a circular buffer, a record that is neither
UNBOUND nor ARMED, and an operand outside its range raise PROT, and an unaligned frame ALIGN. ENDW.JOIN binds record R to the
handler and x29 as the task ends. The model's choices in it: log 41, and log 23 for the feed's ring at its address in the
context. -/
def Obligations.Waits : Prop :=
  ∀ (a b : Reg) (s s' : State) (c : Ctx) (r : TaskRecord) (ls : List (Loc × Nat)), s.ctx? s.act.ctx = some c →
    let xa := (s.x a).toNat; let xb := (s.x b).toNat; let x29 := (s.x 29).toNat
    (s.recordAt xa r ls s' → 1 ≤ r.state → r.state ≤ 3 → xb ≠ 0 → xb < 2 ^ 48 → xb % 2 = 0 → x29 < 2 ^ 48 →
      exec (.endwJoin a b) s = .next ((s'.endTask (some (canonVa s.who xa))).boundOf s.who s.act.ctx xa r ls xb x29)) ∧
    (s.recordAt xa r ls s' → 4 ≤ r.state → xb ≠ 0 → xb < 2 ^ 48 → xb % 2 = 0 → x29 < 2 ^ 48 →
      Raises (.endwJoin a b) s codeProt xa) ∧
    (s.recordAt xb r ls s' → (3 ≤ r.state ∨ r.join < 1) →
      ∀ i ∈ [Instr.endwJob a b, .endwCb a b, .endwBar a b, .endwFeed a b, .endwRoom a b, .endwDq a b],
        Raises i s codeProt xb) ∧
    (s.recordAt xb r ls s' → r.state = 1 ∨ r.state = 2 → 1 ≤ r.join →
      (xa ≤ 2 → ¬(xa = 1 ∧ coreDie s.cur.core = 0) →
        exec (.endwRoom a b) s = .next (s'.waiting (.room xa (coreDie s.cur.core)) xb none)) ∧
      (3 ≤ xa ∨ xa = 1 ∧ coreDie s.cur.core = 0 → Raises (.endwRoom a b) s codeProt 0) ∧
      (r.frame % 8 = 0 → r.tgt = s.act.lcore → 16 ≤ xa → Raises (.endwBar a b) s codeProt 0) ∧
      (r.frame % 64 = 0 → 16 ≤ xa → Raises (.endwFeed a b) s codeProt 0) ∧
      (r.frame % 8 = 0 → 2 ^ 48 ≤ xa ∨ bits xa 5 1 ≠ 0 → Raises (.endwDq a b) s codeProt 0) ∧
      (r.frame % 8 ≠ 0 → ∀ i ∈ [Instr.endwJob a b, .endwCb a b, .endwBar a b, .endwDq a b],
        Raises i s codeAlign r.frame) ∧
      (r.frame % 64 ≠ 0 → Raises (.endwFeed a b) s codeAlign r.frame) ∧
      (r.frame % 8 = 0 →
        (badHandle xa = false → exec (.endwJob a b) s = .next (s'.waiting (.job xa) xb none)) ∧
        (badHandle xa = true → Raises (.endwJob a b) s codeProt 0) ∧
        (∀ owner off d, s.act.priv = false → cbOpen s.who xa s' = .ok ((owner, off, d), s') →
          let at_ : Loc := .stash (stashKey s.act.ctx owner off + 8)
          let window := if 0xFFFF00000000 ≤ xa then 0xFFFF00000000 else 0xFFFE00000000 + owner * 0x20000
          let filled := (d.put + 2 ^ 32 - d.take) % 2 ^ 32
          (1 ≤ filled → exec (.endwCb a b) s =
            .next ((s'.writeLoc (.core s.act.ctx owner) at_ { d with take := (d.take + 1) % 2 ^ 32 }.tail).waiting (.cb xa) xb
              (some (natToBytes 8 (window + d.base + d.take % 2 ^ d.lcnt * 2 ^ d.les), [])))) ∧
          (filled = 0 → d.wrec = 0 → exec (.endwCb a b) s =
            .next ((s'.writeLoc (.core s.act.ctx owner) at_ { d with wrec := xb }.tail).waiting (.cb xa) xb none)) ∧
          (filled = 0 → d.wrec ≠ 0 → Raises (.endwCb a b) s codeProt xa)) ∧
        (r.tgt ≠ s.act.lcore → Raises (.endwBar a b) s codeProt xb) ∧
        (r.tgt = s.act.lcore → xa < 16 →
          (∀ bar, assocGet c.bars xa = some bar → s.act.lcore ∈ bar.arrived → exec (.endwBar a b) s =
            .next (s'.waiting (.bar xa (bar.episode + (bar.held.filter fun h => decide (h.1 = s.act.lcore)).length)) xb none)) ∧
          ((∀ bar, assocGet c.bars xa = some bar → s.act.lcore ∉ bar.arrived) → exec (.endwBar a b) s =
            .next (s'.waiting (.bar xa 0) xb (some (List.replicate 8 0, []))))) ∧
        (∀ pieces s'', xa < 2 ^ 48 → bits xa 5 1 = 0 →
          let buf := bits xa 47 6 * 64; let die := coreDie s.cur.core
          let waits (kind : WaitKind) (got : Option (List Byte × List Byte)) : Option (List Wait) :=
            some (c.waits ++ [⟨kind, canonVa s.who xb, s.act.lcore, got⟩])
          let dir := dieIn die
          (xa % 2 = 0 → die = 0 → Raises (.endwDq a b) s codeProt 0) ∧
          (xa % 2 = 0 → die ≠ 0 → checkRange s.who .store buf 256 s' = .ok (pieces, s'') → c.waiting (onDie dir) = false →
            (∀ e ∈ s''.dieQ, dieMine s.act.ctx dir e = true → staleSeq e.seq (tableGet c.floors dir) = false) →
            ∃ t, exec (.endwDq a b) s = .next t ∧ t.active = false ∧ t.mem = s''.mem ∧
              (s''.dieQ.find? (dieMine s.act.ctx dir) = none →
                (t.ctx? s.act.ctx).map Ctx.waits = waits (.die (canonVa s.who buf) dir) none ∧ t.dieQ = s''.dieQ) ∧
              (∀ e, s''.dieQ.find? (dieMine s.act.ctx dir) = some e →
                let v : Word := BitVec.ofNat 64 (e.seq * 2 ^ 32 + min 0xFFFF (tableGet c.dropped dir) * 2 ^ 16)
                (t.ctx? s.act.ctx).map Ctx.waits =
                  waits (.die (canonVa s.who buf) dir) (some (natToBytes 8 v.toNat, e.bytes)) ∧
                t.dieQ = s''.dieQ.erase e)) ∧
          (xa % 2 = 1 → checkRange s.who .store buf 64 s' = .ok (pieces, s'') → c.waiting (onLogit die) = false →
            (s''.logits.find? (rowMine s.act.ctx die) = none →
              exec (.endwDq a b) s = .next (s''.waiting (.logit (canonVa s.who buf) die) xb none)) ∧
            (∀ row, s''.logits.find? (rowMine s.act.ctx die) = some row → exec (.endwDq a b) s =
              .next ({ s'' with logits := s''.logits.erase row }.waiting (.logit (canonVa s.who buf) die) xb
                (some (natToBytes 8 (BitVec.ofNat 64 row.k).toNat, row.bytes))))))) ∧
      (r.frame % 64 = 0 → xa < 16 → let f := s'.feed c xa
        (f.lcap = 0 → Raises (.endwFeed a b) s codeProt 0) ∧
        (f.lcap ≠ 0 → f.count = 0 → exec (.endwFeed a b) s = .next (s'.waiting (.feed xa) xb none)) ∧
        (∀ ring u, let w := s'.waiting (.feed xa) xb none
          f.lcap ≠ 0 → f.count ≠ 0 → c.waiting (onFeed xa) = false →
          checkRange (.core s.act.ctx 0) .load (f.slot f.take) 64 w = .ok (ring, u) →
          let v := u.setFeed s.act.ctx c xa { f with take := (f.take + 1) % 2 ^ 32 }
          let v' := if u.anyPoison ring then v.countPoison s.act.ctx s.act.lcore else v
          exec (.endwFeed a b) s = .next (v'.modCtx s.act.ctx
            fun x => { x with waits := giveOldest (onFeed xa) (fun _ => (u.readLocs ring, [])) x.waits }))))

/-- SEND and SENDR put a message under way with the payload of four registers, after their checks (R189); BARI sets up a
barrier that nobody waits at, and BARA and BARM arrive at one: the running maximum, the release by the last participant, a
second arrival of one core held, and the held arrivals taken in the next episode, which they may release too (R191, R192); the
context of a message that firmware sends is the model's choice (log 57); the work list is a stack of pairs (R193), of which
the entries beyond 128 are spilled to the task arena (R43, R55). -/
def Obligations.MessagesBarriersLists : Prop :=
  ∀ (d a b f : Reg) (s : State) (c : Ctx), s.ctx? s.act.ctx = some c →
    let xa := (s.x a).toNat; let xb := (s.x b).toNat; let xf := (s.x f).toNat; let k := c.core s.act.lcore
    let good (v : Nat) : Prop := v ≠ 0 ∧ v < 2 ^ 48 ∧ v % 2 = 0
    let sends (refusal : Nat) : State := { s with msgs := s.msgs ++ [⟨s.sendCtx, bits xb 8 0, some s.cur,
      ⟨bits xb 11 9, s.act.lcore, xa, refusal, [s.x d, s.x (regPlus d 1), s.x (regPlus d 2), s.x (regPlus d 3)], none⟩⟩] }
    (xa = 0 ∨ 2 ^ 48 ≤ xa → Raises (.send d a b) s codeProt xa ∧ Raises (.sendr d a b f) s codeProt xa) ∧
    (xa < 2 ^ 48 → xa % 2 = 1 → Raises (.send d a b) s codeAlign xa ∧ Raises (.sendr d a b f) s codeAlign xa) ∧
    (good xa →
      (2 ^ 12 ≤ xb → Raises (.send d a b) s codeProt 0 ∧ Raises (.sendr d a b f) s codeProt 0) ∧
      (s.act.priv = false → s.sendCtx = s.act.ctx ∧
        (xb < 2 ^ 9 → Raises (.send d a b) s codePriv 0 ∧ Raises (.sendr d a b f) s codePriv 0)) ∧
      (xb < 2 ^ 12 → bits xb 11 9 = 7 → Raises (.send d a b) s codeIll 0 ∧ Raises (.sendr d a b f) s codeIll 0) ∧
      (xb < 2 ^ 12 → 1 ≤ bits xb 11 9 ∨ s.act.priv = true → bits xb 11 9 ≤ 6 →
        exec (.send d a b) s = .next ((sends 0).advance 4) ∧
        (xf = 0 ∨ good xf → exec (.sendr d a b f) s = .next ((sends xf).advance 4)) ∧
        (2 ^ 48 ≤ xf → Raises (.sendr d a b f) s codeProt xf) ∧
        (xf < 2 ^ 48 → xf % 2 = 1 → Raises (.sendr d a b f) s codeAlign xf))) ∧
    (let row := bits xb 3 0; let col := bits xb 8 4; let h := 2 ^ bits xb 11 9; let w := 2 ^ bits xb 14 12
      let n := bits xb 24 15
      let r0 := bits k.orgn.toNat 8 5; let c0 := bits k.orgn.toNat 4 0
      let rh := bits k.rsz.toNat 15 8; let rw := bits k.rsz.toNat 7 0
      (16 ≤ xa ∨ 2 ^ 25 ≤ xb ∨ n = 0 ∨ h * w < n → Raises (.bari a b) s codeProt 0) ∧
      (xa < 16 → xb < 2 ^ 25 → 1 ≤ n → n ≤ h * w →
        (h ≤ 16 ∧ w ≤ 32 ∧ rh % h = 0 ∧ rw % w = 0 ∧ row % h = 0 ∧ col % w = 0 ∧ r0 ≤ row ∧ row + h ≤ r0 + rh ∧
            c0 ≤ col ∧ col + w ≤ c0 + rw →
          (∀ bar, assocGet c.bars xa = some bar → bar.arrived ≠ [] ∨ bar.held ≠ [] → Raises (.bari a b) s codeProt 0) ∧
          ((∀ bar, assocGet c.bars xa = some bar → bar.arrived = [] ∧ bar.held = []) → exec (.bari a b) s =
            .next ((s.setCtx s.act.ctx { c with
              bars := assocPut c.bars xa ⟨row, col, h, w, n, 0, [], 0, []⟩ }).advance 4))) ∧
        (16 < h ∨ 32 < w ∨ ¬(rh % h = 0 ∧ rw % w = 0 ∧ row % h = 0 ∧ col % w = 0 ∧ r0 ≤ row ∧ row + h ≤ r0 + rh ∧
            c0 ≤ col ∧ col + w ≤ c0 + rw) → Raises (.bari a b) s codeIll 0))) ∧
    (16 ≤ xa ∨ assocGet c.bars xa = none → Raises (.bara a) s codeProt 0 ∧ Raises (.barm a b) s codeProt 0) ∧
    (∀ bar, xa < 16 → assocGet c.bars xa = some bar → let l := s.act.lcore
      let arrives (i : Instr) (v : Word) : Prop :=
        let now (new : Barrier) (waits : List Wait) : State :=
          (s.setCtx s.act.ctx { c with bars := assocPut c.bars xa new, waits := waits }).advance 4
        (l ∈ bar.arrived → exec i s = .next (now { bar with held := bar.held ++ [(l, v)] } c.waits)) ∧
        (l ∉ bar.arrived → bar.arrived.length + 1 ≠ bar.n → exec i s = .next (now { bar with
          arrived := bar.arrived ++ [l], max := if bar.max.toNat < v.toNat then v else bar.max } c.waits)) ∧
        (l ∉ bar.arrived → bar.arrived.length + 1 = bar.n → bar.held = [] → exec i s =
          .next (now { bar with episode := bar.episode + 1, arrived := [], max := 0, held := [] }
            (releaseWaits xa c.waits bar.episode (if bar.max.toNat < v.toNat then v else bar.max)))) ∧
        (l ∉ bar.arrived → bar.arrived.length + 1 = bar.n → (bar.held.map Prod.fst).Nodup →
          let top := bar.held.foldl (fun (m : Word) h => if m.toNat < h.2.toNat then h.2 else m) 0
          let waits := releaseWaits xa c.waits bar.episode (if bar.max.toNat < v.toNat then v else bar.max)
          (bar.held.length < bar.n → exec i s = .next (now { bar with
            episode := bar.episode + 1, arrived := bar.held.map Prod.fst, max := top, held := [] } waits)) ∧
          (bar.held.length = bar.n → exec i s = .next (now { bar with
            episode := bar.episode + 2, arrived := [], max := 0, held := [] }
            (releaseWaits xa waits (bar.episode + 1) top))))
      (bar.covers l = false → Raises (.bara a) s codeProt 0 ∧ Raises (.barm a b) s codeProt 0) ∧
      (bar.covers l = true → arrives (.bara a) 0 ∧ arrives (.barm a b) (s.x b))) ∧
    (s.x a = 0 → exec (.wlpush a b) s = .next ((s.setErr s.act.ctx s.act.lcore errWl).advance 4)) ∧
    (s.x a ≠ 0 → exec (.wlpush a b) s =
      .next (((s.setCtx s.act.ctx (c.setCore s.act.lcore { k with work := (s.x a, s.x b) :: k.work })).spillRoom s.act.ctx
        (coreDie (c.host s.act.lcore))).advance 4)) ∧
    (k.work = [] → exec (.wlpop d) s = .next (((s.setX d 0).setX (pairOf d) 0).advance 4)) ∧
    (∀ x y rest, k.work = (x, y) :: rest → exec (.wlpop d) s =
      .next ((((s.setCtx s.act.ctx (c.setCore s.act.lcore { k with work := rest })).setX d x).setX (pairOf d) y).advance 4)) ∧
    Writes (.wlcnt d) s d (BitVec.ofNat 64 (min k.work.length (2 ^ 32 - 1)))

/-- LAUNCH reads its block and posts it, or answers FULL, RECT or BLOCK, BLOCK first (R195); FPOP takes the oldest record of
a feed that nobody waits on into its buffer and answers how many are left, or all ones (R188, R196). The model's choices in
it: log 23. -/
def Obligations.LaunchAndFeeds : Prop :=
  ∀ (d a : Reg) (s : State) (c : Ctx), s.ctx? s.act.ctx = some c → let xa := (s.x a).toNat
    (xa % 64 ≠ 0 → Raises (.launch d a) s codeAlign xa) ∧
    (∀ ls s', xa % 64 = 0 → checkRange s.who .load xa 64 s = .ok (ls, s') → s'.anyPoison ls = false →
      let bs := s'.readLocs ls
      let w (i : Nat) : Nat := bytesToNat ((bs.drop (8 * i)).take 8)
      let row := bits (w 3) 3 0; let col := bits (w 3) 8 4; let h := 2 ^ bits (w 3) 11 9; let wd := 2 ^ bits (w 3) 14 12
      let good := w 0 < 2 ^ 48 ∧ w 0 % 2 = 0 ∧ w 1 < 2 ^ 48 ∧ w 3 < 2 ^ 15 ∧ w 4 < 2 ^ 48 ∧ w 4 % 32 = 0 ∧ w 5 = 0 ∧
        w 6 = 0 ∧ w 7 = 0
      let fits := h ≤ 16 ∧ wd ≤ 32 ∧ row % h = 0 ∧ col % wd = 0
      let answers (u : State) (n : Word) : Prop := exec (.launch d a) s = .next ((u.setX d n).advance 4)
      (¬good → answers s' 3) ∧ (good → ¬fits → answers s' 2) ∧ (good → fits → 32 ≤ c.launchQ.length → answers s' 1) ∧
      (good → fits → c.launchQ.length < 32 → answers (s'.setCtx s.act.ctx { c with launchQ := c.launchQ ++
        [⟨w 0, w 1, BitVec.ofNat 64 (w 2), row, col, h, wd, canonVa s.who (w 4), some s.act.lcore, none⟩] }) 0)) ∧
    (2 ^ 48 ≤ xa ∨ bits xa 5 4 ≠ 0 → Raises (.fpop d a) s codeProt 0) ∧
    (∀ ls s', xa < 2 ^ 48 → bits xa 5 4 = 0 → let buf := bits xa 47 6 * 64
      checkRange s.who .store buf 64 s = .ok (ls, s') → let f := s'.feed c (xa % 16)
      (c.waiting (onFeed (xa % 16)) = true ∨ f.lcap = 0 ∨ f.count = 0 →
        exec (.fpop d a) s = .next ((s'.setX d (BitVec.allOnes 64)).advance 4)) ∧
      (∀ ring u ls' u', c.waiting (onFeed (xa % 16)) = false → f.lcap ≠ 0 → f.count ≠ 0 →
        checkRange (.core s.act.ctx 0) .load (f.slot f.take) 64 s' = .ok (ring, u) →
        let bs := u.readLocs ring
        let v0 := u.setFeed s.act.ctx c (xa % 16) { f with take := (f.take + 1) % 2 ^ 32 }
        let v := if u.anyPoison ring then v0.countPoison s.act.ctx s.act.lcore else v0
        (∀ at_, u.poisonVa (f.slot f.take) ring = some at_ → s.trapsPoison = true →
          exec (.fpop d a) s = .next (s.takeFault 4 codePois at_ true 0)) ∧
        (u.anyPoison ring = false ∨ s.trapsPoison = false → checkRange s.who .store buf 64 v = .ok (ls', u') →
        exec (.fpop d a) s =
          .next (((u'.stored buf bs ls').setX d (BitVec.ofNat 64 ((f.put + 2 ^ 32 - (f.take + 1) % 2 ^ 32) % 2 ^ 32))).advance 4))))

/-! ## System registers, faults, firmware instructions, tensor table -/

/-- MFS and MTS for every register of R326: what a read delivers, which bits a write stores, PRIV from user mode for a
register that it may not name, ILL for a number outside the table, and a write to an RO register ignored (R6, R9, R47, R51,
R105, R310, R321, R322, R327, R328). CYC reads later than at its last reading by an amount that is not fixed (log 6); THR and
ISL of the firmware cores, and registers that reset gives no value, follow logs 54 and 10. -/
def Obligations.SystemRegisters : Prop :=
  ∀ (d a : Reg) (n : Fin 1024) (s : State) (c : Ctx), s.ctx? s.act.ctx = some c →
    let v := s.x a; let k := c.core s.act.lcore; let l := s.act.lcore
    let fw := (assocGet s.fw s.cur).getD ⟨0, 0, 0, 0, 0, 0⟩
    let cl := coreCluster s.cur.core; let thr := (assocGet s.power.thr cl).getD 0
    let reads (num : Nat) (w : Word) : Prop := n.val = num → Writes (.mfs d n) s d w
    let readsPriv (num : Nat) (w : Word) : Prop := n.val = num →
      (s.act.priv = true → Writes (.mfs d n) s d w) ∧ (s.act.priv = false → Raises (.mfs d n) s codePriv 0)
    let writes (num : Nat) (t : State) : Prop := n.val = num → exec (.mts n a) s = .next (t.advance 4)
    let writesPriv (num : Nat) (t : State) : Prop := n.val = num →
      (s.act.priv = true → exec (.mts n a) s = .next (t.advance 4)) ∧ (s.act.priv = false → Raises (.mts n a) s codePriv 0)
    let num (m : Nat) : Word := BitVec.ofNat 64 m
    let ctx (c' : Ctx) : State := s.setCtx s.act.ctx c'
    let level (lo : Nat) : Nat := max 2 (bits v.toNat (lo + 2) lo) * 2 ^ lo
    reads 0x000 (num l) ∧ reads 0x001 k.orgn ∧ reads 0x002 k.rsz ∧
    reads 0x003 (num (l / 64 * 8 + l % 32 / 4)) ∧ reads 0x004 (num (coreDie s.cur.core)) ∧
    reads 0x005 (num (match s.cur.core with | .si _ => 1 | _ => 0)) ∧ reads 0x006 (num s.vw) ∧
    reads 0x007 (num s.cur.idx) ∧ reads 0x008 (num s.act.ctx) ∧ reads 0x009 k.jseed ∧
    reads 0x00A (num (l * 2 ^ 39 + s.cur.idx * 2 ^ 36 + ((assocGet k.jobs s.cur.idx).getD ⟨0, []⟩).next)) ∧
    reads 0x00B c.ebud ∧ reads 0x00C thr ∧
    (∀ die : Fin 3, die.val = coreDie s.cur.core → n.val = 0x00D → let now := s.cyc[die] + Config.cycGap s.free
      exec (.mfs d n) s = .next (({ s with cyc := s.cyc.set die now, free := s.free + 1 }.setX d now).advance 4)) ∧
    reads 0x00E s.act.frm ∧ reads 0x00F c.hbase ∧ reads 0x010 c.hlim ∧ reads 0x011 c.hoff ∧ reads 0x012 c.mbox ∧
    reads 0x013 c.lvl ∧ reads 0x014 k.errs ∧ reads 0x015 c.flt ∧ reads 0x016 0xF ∧ reads 0x017 0 ∧
    reads 0x018 (0xF &&& s.featAcc[0]) ∧ reads 0x019 0 ∧
    readsPriv 0x200 fw.epc ∧ readsPriv 0x201 fw.ecause ∧ readsPriv 0x202 fw.eaddr ∧ readsPriv 0x203 fw.ptroot ∧
    readsPriv 0x204 fw.ctxd ∧ readsPriv 0x205 fw.fwscr ∧
    (0x01A ≤ n.val → n.val < 0x200 ∨ 0x206 ≤ n.val → Raises (.mfs d n) s codeIll 0 ∧ Raises (.mts n a) s codeIll 0) ∧
    (∀ m ∈ [0x000, 0x001, 0x002, 0x003, 0x004, 0x005, 0x006, 0x007, 0x008, 0x009, 0x00A, 0x00B, 0x00D, 0x016, 0x017, 0x018,
      0x019], writesPriv m s) ∧
    writes 0x00E { s with act := { s.act with
      frm := (s.act.frm &&& 0x1F00 &&& ~~~v) ||| (if v.toNat % 8 ≤ 4 then v &&& 7 else s.act.frm &&& 7) } } ∧
    writes 0x012 (ctx { c with mbox := (c.mbox &&& ~~~0x00FFFFF0) ||| (v &&& 0x00FFFFF0) }) ∧
    writes 0x013 (ctx { c with lvl := num (level 0 + level 3 + level 6 + level 9 + level 12 + level 15 +
      max 8 (bits v.toNat 31 28) * 2 ^ 28) }) ∧
    writes 0x014 (ctx (c.setCore l { k with errs := k.errs &&& ~~~v })) ∧
    writes 0x015 (ctx { c with flt := (c.flt &&& ~~~1) ||| (v &&& 1) }) ∧
    writesPriv 0x00C (let p := { s.power with thr := assocPut s.power.thr cl (thr &&& ~~~v) }; { s with power := p }) ∧
    writesPriv 0x00F (ctx { c with hbase := if bits v.toNat 5 4 = 3 then (v &&& 0x0000FFFFFFE0000F) ||| (c.hbase &&& 0x30)
      else v &&& 0x0000FFFFFFE0003F }) ∧
    writesPriv 0x010 (ctx { c with hlim := v &&& 0x0000FFFFFFE00000 }) ∧
    writesPriv 0x011 (ctx { c with hoff := v &&& 0x0000FFFFFFFF0000 }) ∧
    writesPriv 0x200 { s with fw := assocPut s.fw s.cur { fw with epc := v } } ∧
    writesPriv 0x201 { s with fw := assocPut s.fw s.cur { fw with ecause := v } } ∧
    writesPriv 0x202 { s with fw := assocPut s.fw s.cur { fw with eaddr := v } } ∧
    writesPriv 0x203 { s with fw := assocPut s.fw s.cur { fw with ptroot := v } } ∧
    writesPriv 0x204 { s with fw := assocPut s.fw s.cur { fw with ctxd := v } } ∧
    writesPriv 0x205 { s with fw := assocPut s.fw s.cur { fw with fwscr := v } }

/-- What taking a fault does to a user task: its slot is free, it stands in a frame with its registers, the fault code and the
pc of the faulting instruction, its record goes to SAVED; PAGE and RES wait for firmware, RES with the DRAM called back; every
other code posts a fault record of source 0 that names code, pc, address, frame and TRAP number; poison is counted first
(R145); of a firmware task EPC, ECAUSE and EADDR take pc, code and address (R316, R317, R320, R326). A frame whose bytes the
arena has no room or no page for asks firmware for it (R43); the pages resolved for an instruction stay with it over a PAGE
alone (R318). TRAP raises fault 9 with its number; SYSC is saved for the next instruction, its request with n and x1 to x4
posted; BRK does so under an armed break alone (R329). The model's choices in it: the frame's place, c.freePlace (log 7), and
logs 11, 46. -/
def Obligations.FaultsAndTraps : Prop :=
  (∀ (s : State) (c : Ctx) (len code addr num : Nat), s.ctx? s.act.ctx = some c → s.act.priv = false →
    let t := s.takeFault len code addr false num
    let status : FrameStatus := if code = codePage then .page else if code = codeRes then .res else .host
    let u := (s.save status code len s.act.pc).1
    t.active = false ∧ t.parked = s.parked ∧ t.cur = s.cur ∧
    (∃ placed asks waits, (u.ctx? s.act.ctx).map Ctx.frames = some (c.frames ++ [⟨c.freePlace,
        { s.act with retired := 0, savedSlot := s.cur.idx, pinned := if code = 0 ∨ code = codePage then s.act.pinned else [] },
        s.vw, code, status, len, placed⟩]) ∧
      u.pages = s.pages ++ asks ∧ u.pendRes = s.pendRes ++ waits ∧
      (∀ p ∈ asks ++ waits, p.ctx = s.act.ctx ∧ p.who = .arena c.freePlace) ∧ (placed = true ↔ asks ++ waits = [])) ∧
    u.active = false ∧
    t.trans = s.trans ++ (if s.act.record = 0 then [] else [⟨s.act.ctx, s.act.lcore, s.act.record, 6⟩]) ∧
    (let asked : PageFault := ⟨s.act.ctx, addr, .frame c.freePlace, coreDie s.cur.core, false⟩;
      (code = codePage → t = { u with pages := u.pages ++ [asked] }) ∧
      (code = codeRes → t = State.wake { u with pendRes := u.pendRes ++ [asked] } ⟨.dram, 0, s.act.ctx, s.act.lcore⟩)) ∧
    (code ≠ codePage → code ≠ codeRes → t = u.postFault s.act.ctx s.act.lcore s.cur.idx 0 code
      s.act.pc.toNat addr c.freePlace (if code = codeTrap then num else 0)) ∧
    s.takeFault len code addr true num = (s.countPoison s.act.ctx s.act.lcore).takeFault len code addr false num) ∧
  (∀ (s : State) (len code addr num : Nat) (pois : Bool), s.act.priv = true →
    ∃ t fw, s.takeFault len code addr pois num = t ∧ assocGet t.fw s.cur = some fw ∧ fw.epc = s.act.pc ∧
      fw.ecause = BitVec.ofNat 64 code ∧ fw.eaddr = BitVec.ofNat 64 addr ∧ t.act = { s.act with pc := t.act.pc } ∧
      t.mem = s.mem ∧ t.ctxs = (if pois then (s.countPoison s.act.ctx s.act.lcore).ctxs else s.ctxs)) ∧
  (∀ (n : Fin 1024) (s : State), exec (.trap n) s = .next (s.takeFault 4 9 0 false n.val)) ∧
  (∀ (n : Fin 1024) (s : State) (c : Ctx), s.ctx? s.act.ctx = some c →
    let frame (status : FrameStatus) (placed : Bool) : Frame := ⟨c.freePlace,
      { s.act with pc := s.act.pc + 4, retired := 0, savedSlot := s.cur.idx, pinned := [] }, s.vw, 0, status, 4, placed⟩
    (∃ t placed, exec (.sysc n) s = .next t ∧ t.active = false ∧ t.parked = s.parked ∧
      (t.ctx? s.act.ctx).map Ctx.frames = some (c.frames ++ [frame .sysc placed]) ∧
      t.sysc = s.sysc ++ [⟨s.act.ctx, c.freePlace, n.val, [s.x 1, s.x 2, s.x 3, s.x 4]⟩]) ∧
    (c.breakArmed = false → Passes (.brk n) s) ∧
    (c.breakArmed = true → ∃ t placed, exec (.brk n) s = .next t ∧ t.active = false ∧ t.parked = s.parked ∧
      (t.ctx? s.act.ctx).map Ctx.frames = some (c.frames ++ [frame .debug placed]) ∧
      t.halted = s.halted ++ [(s.act.ctx, c.freePlace, n.val)]))

/-- Posting a fault record to a ring that can be read and written: the record of 64 bytes stands at put, put counts up and FLT
counts it and keeps its code; a full ring drops it and counts FLT.lost, saturating (R320, R321). While firmware resolves a page
of the ring (R316), or the DRAM that holds it wakes (R332, R340), the record is held, and those that come after it behind it. A
ring that has no mapping, fails its check or is poisoned loses the record. An entry of the stash trace ring, of 16 bytes, goes
the same way; only a store through the remote window of another core makes one, with the ring enabled and strace accepted (R9,
R146). The model's choices in it: logs 22, 55, and 59: a PAGE of a ring goes to the firmware of die 0. -/
def Obligations.FaultRecords : Prop :=
  let lost (f : Word) : Word := if 2 ^ 16 ≤ f.toNat / 2 ^ 48 + 1 then f else f + (1 <<< 48)
  (∀ (s : State) (c : Ctx) (id l slot source code w1 w2 w3 w4 : Nat), s.ctx? id = some c →
    let bytes := natToBytes 8 (id * 2 ^ 52 + slot % 8 * 2 ^ 21 + l * 2 ^ 12 + source * 2 ^ 8 + code) ++ natToBytes 8 w1 ++
      natToBytes 8 w2 ++ natToBytes 8 w3 ++ natToBytes 8 w4 ++ List.replicate 24 0
    let r : RingEntry := ⟨id, l, false, code, bytes⟩
    let t := s.postFault id l slot source code w1 w2 w3 w4
    let behind := ∃ q ∈ s.heldEntries, q.ctx = id ∧ q.trace = false
    let held (u : State) : State := { u with heldEntries := u.heldEntries ++ [r] }
    (behind → t = held s) ∧
    (∀ k a num pois, ¬behind → readRange (.core id l) c.faultRing 16 s = .error (.fault k a pois num) →
      let gone : PageFault := ⟨id, a / 2 ^ 16, .noMap, 0, false⟩
      (k = codePage → gone ∈ s.pages →
        t = State.setCtx { s with pages := s.pages.erase gone } id { c with flt := lost c.flt }) ∧
      (k = codePage → gone ∉ s.pages → (∀ p ∈ s.pages, ¬(p.ctx = id ∧ p.va = a ∧ p.who = .device)) →
        t = held { s with pages := s.pages ++ [⟨id, a, .device, 0, false⟩] }) ∧
      (k = codePage → gone ∉ s.pages → (∃ p ∈ s.pages, p.ctx = id ∧ p.va = a ∧ p.who = .device) → t = held s) ∧
      (k = codeRes → t = held (s.wake ⟨.dram, 0, id, 0⟩)) ∧
      (k ≠ codePage → k ≠ codeRes → k ≠ codePois → t = s.setCtx id { c with flt := lost c.flt })) ∧
    (∀ hdr s1, ¬behind → readRange (.core id l) c.faultRing 16 s = .ok ((hdr, true), s1) →
      t = (s.countPoison id l).modCtx id fun x => { x with flt := lost x.flt }) ∧
    (∀ hdr s1, ¬behind → c.faultLcap ≠ 0 → readRange (.core id l) c.faultRing 16 s = .ok ((hdr, false), s1) →
      let put := bytesToNat (hdr.take 8); let take := bytesToNat (hdr.drop 8)
      let flt (t : State) : Word := ((t.ctx? id).map Ctx.flt).getD 0
      ((put + 2 ^ 64 - take) % 2 ^ 64 = 2 ^ c.faultLcap → t = s.setCtx id { c with flt := lost c.flt }) ∧
      (∀ s2 s3, (put + 2 ^ 64 - take) % 2 ^ 64 ≠ 2 ^ c.faultLcap →
        writeRange (.core id l) (c.faultRing + 64 + 64 * (put % 2 ^ c.faultLcap)) bytes s1 = .ok ((), s2) →
        writeRange (.core id l) c.faultRing (natToBytes 8 ((put + 1) % 2 ^ 64)) s2 = .ok ((), s3) →
        t.mem = s3.mem ∧ t.stash = s3.stash ∧ t.poison = s3.poison ∧ t.heldEntries = s.heldEntries ∧
        (flt t).toNat % 2 = c.flt.toNat % 2 ∧ bits (flt t).toNat 15 8 = code % 256 ∧
        bits (flt t).toNat 47 32 = (bits c.flt.toNat 47 32 + 1) % 2 ^ 16 ∧
        bits (flt t).toNat 63 48 = bits c.flt.toNat 63 48))) ∧
  ∀ (s : State) (c : Ctx) (id l slot owner off seq : Nat) (remote : Bool), s.ctx? id = some c →
    let t := s.tracePort id l slot owner off seq remote
    let entry := natToBytes 8 (id * 2 ^ 52 + l * 2 ^ 43 + slot % 8 * 2 ^ 40 + off) ++ natToBytes 8 seq
    (remote = false ∨ c.traceOn = false ∨ bitOf (Config.featOffered &&& s.featAcc[0]).toNat 3 = false ∨ l = owner → t = s) ∧
    (remote = true → c.traceOn = true → bitOf (Config.featOffered &&& s.featAcc[0]).toNat 3 = true → l ≠ owner →
      ((∃ q ∈ s.heldEntries, q.ctx = id ∧ q.trace = true) →
        t = { s with heldEntries := s.heldEntries ++ [⟨id, l, true, 0, entry⟩] }) ∧
      (∀ hdr s1, (∀ q ∈ s.heldEntries, ¬(q.ctx = id ∧ q.trace = true)) → c.traceLcap ≠ 0 →
        readRange (.core id l) c.traceRing 16 s = .ok ((hdr, false), s1) →
        let put := bytesToNat (hdr.take 8); let take := bytesToNat (hdr.drop 8)
        ((put + 2 ^ 64 - take) % 2 ^ 64 = 2 ^ c.traceLcap → t = s.setCtx id { c with traceLost := c.traceLost + 1 }) ∧
        (∀ s2 s3, (put + 2 ^ 64 - take) % 2 ^ 64 ≠ 2 ^ c.traceLcap →
          writeRange (.core id l) (c.traceRing + 64 + 16 * (put % 2 ^ c.traceLcap)) entry s1 = .ok ((), s2) →
          writeRange (.core id l) c.traceRing (natToBytes 8 ((put + 1) % 2 ^ 64)) s2 = .ok ((), s3) →
          t.mem = s3.mem ∧ t.stash = s3.stash ∧ t.poison = s3.poison ∧ t.heldEntries = s.heldEntries)))

/-- The privileged instructions raise PRIV in user mode (R64, R330). ERET returns to EPC in the mode that ECAUSE gives, and
raises ALIGN on an odd EPC; TLBI drops the translations that its form names, its harvest with the dirty log of every core of
both islands merged into the tables first (R314); CTXS writes the frame of a running slot, whose KVA that copies completes
first, so that CTXS waits for it (R324), and which is free after it, and leaves an idle one alone; CTXR resumes the task of a
frame in a free slot of the frame's VW, FRM without its reserved bits (R6, R105), and raises PROT else. The model's choices in
it: logs 11, 31. -/
def Obligations.FirmwareInstructions : Prop :=
  ∀ (a b : Reg) (s : State),
    let xa := (s.x a).toNat; let xb := (s.x b).toNat; let id := bits xb 63 52; let form := bits xb 1 0
    let fw := (assocGet s.fw s.cur).getD ⟨0, 0, 0, 0, 0, 0⟩
    let at_ := namedSlot s xb
    let kept (u : State) : Prop := ∀ k < 128, u.discardedOf (xa + 64 * k) = none
    (s.act.priv = false → ∀ i ∈ [Instr.eret, .tlbi a b, .ctxs a b, .ctxr a b], Raises i s codePriv 0) ∧
    (s.act.priv = true →
      (fw.epc.toNat % 2 = 1 → Raises .eret s codeAlign 0) ∧
      (fw.epc.toNat % 2 = 0 → exec .eret s = .next { s with act := { s.act with
        pc := fw.epc, priv := Config.eretMode fw.ecause, retired := s.act.retired + 1, pinned := [] } }) ∧
      (bits xb 51 2 ≠ 0 → Raises (.tlbi a b) s codeProt 0) ∧
      (bits xb 51 2 = 0 →
        let drops (gone : TlbEntry → Prop) [DecidablePred gone] : Prop :=
          exec (.tlbi a b) s = .next ({ s with tlb := s.tlb.filter fun e => decide (¬gone e) }.advance 4)
        (form = 0 → drops fun e => e.ctx = id ∧ (e.page = xa / 2 ^ 16 ∨ (e.big = true ∧ e.page / 32 = xa / 2 ^ 21))) ∧
        (form = 1 → drops fun e => e.ctx = id) ∧ (form = 3 → drops fun _ => True) ∧
        (form = 2 → ∃ t, exec (.tlbi a b) s = .next t ∧ s.sameRegisters t ∧ t.act.pc = s.act.pc + 4 ∧
          t.tlb = s.tlb.filter (fun e => decide (e.ctx ≠ id)) ∧ t.ctxs = s.ctxs ∧
          ∀ core k, runsContexts core = true → assocGet s.cores core = some k →
            (assocGet t.cores core).map PhysCore.dirty = some [] ∧
            ∀ pte ∈ k.dirty, bitOf (t.mem.readNat pte 8) 6 = true ∧ bitOf (t.mem.readNat pte 8) 7 = true)) ∧
      (xa % 64 ≠ 0 → Raises (.ctxs a b) s codeAlign xa) ∧
      (xa % 64 = 0 → xa + 8192 ≤ 2 ^ 35 →
        (at_ = none → Passes (.ctxs a b) s) ∧
        (∀ slot u, at_ = some slot → u = (if s.copyOf slot = none then s else s.endCopies) → u.copyOf slot ≠ none →
          exec (.ctxs a b) s = .next s) ∧
        (∀ slot u, at_ = some slot → u = (if s.copyOf slot = none then s else s.endCopies) → u.copyOf slot = none →
          assocGet u.parked slot = none → exec (.ctxs a b) s = .next (u.advance 4)) ∧
        (∀ slot task u, at_ = some slot → u = (if s.copyOf slot = none then s else s.endCopies) → u.copyOf slot = none →
          assocGet u.parked slot = some task → kept u →
          let frame := frameBytes { task with savedSlot := slot.idx } (coreVw slot.core) 0 slot.idx
          ∃ t, exec (.ctxs a b) s = .next t ∧ u.sameRegisters t ∧ t.act.pc = u.act.pc + 4 ∧
            t.parked = assocDel u.parked slot ∧ t.mem.readBytes xa frame.length = frame ∧
            (∀ pa, pa < xa ∨ xa + frame.length ≤ pa → t.mem.read pa = u.mem.read pa) ∧
            t.trans = u.trans ++ (if task.record = 0 then [] else [⟨task.ctx, task.lcore, task.record, 6⟩]))) ∧
      (at_ = none → Raises (.ctxr a b) s codeProt 0) ∧
      (∀ slot, at_ = some slot →
        let vw := coreVw slot.core; let bs := s.mem.readBytes xa (320 + vw / 8 + 4 * vw)
        let word (i : Nat) : Nat := bytesToNat ((bs.drop (8 * i)).take 8)
        ((assocGet s.parked slot).isSome = true → Raises (.ctxr a b) s codeProt 0) ∧
        (assocGet s.parked slot = none → xa % 64 = 0 → xa + 8192 ≤ 2 ^ 35 → (∀ k < 128, xa / 64 + k ∉ s.poison) → kept s →
          (bits (word 3) 31 16 ≠ vw → Raises (.ctxr a b) s codeProt 0) ∧
          (bits (word 3) 31 16 = vw → ∃ t task, exec (.ctxr a b) s = .next t ∧ s.sameRegisters t ∧ t.mem = s.mem ∧
            assocGet t.parked slot = some task ∧ (∀ other, other ≠ slot → assocGet t.parked other = assocGet s.parked other) ∧
            task.pc.toNat = word 0 / 2 * 2 ∧ task.frm.toNat = bits (word 1) 12 8 * 2 ^ 8 + (if word 1 % 8 ≤ 4 then word 1 % 8
              else ((assocGet s.held xa).map fun h => h.frm.toNat % 8).getD 0) ∧ task.record = word 2 ∧
            (∀ r : Fin 32, r ≠ 0 → r ≠ 31 → (task.x[r]).toNat = word (7 + r.val)) ∧
            task.x[31] = BitVec.ofNat 64 (word 38) - stackTop (bits (word 3) 42 40) + stackTop slot.idx ∧
            task.level = bits (word 3) 5 3 ∧ task.source = Source.ofCode (word 3 % 8) ∧ task.retired = 0 ∧
            (∀ r : Fin 32, (task.v[r]).toNat =
              bytesToNat ((bs.drop (320 + vw / 8 + vw / 8 * r.val)).take (vw / 8))) ∧
            (∀ p : Fin 8, p ≠ 0 → (task.p[p]).toNat = bytesToNat ((bs.drop (320 + vw / 64 * p.val)).take (vw / 64)))))))

/-- TDEF, TUND and TQRY (R229, R231): a descriptor of 64 bytes is checked and replaces the entry whole, an entry is emptied,
and a word of an entry is read, all ones for an empty one. And how an element of a tensor is found (R230): the limits and
fields of its descriptor (R229); its coordinates, which go round a ring or fall outside, where it is zero; its address, exact,
or that of its block; the bytes read there, with the poison of their lines (R145); and its value, of a block with the block's
scale and e2m1x's extra byte (R96 to R99), of e4m3 and e5m2 under the tensor's scale (R100). The model's choices in it: log
40, 67 (a base outside both windows), and 63 for an address below zero. -/
def Obligations.TensorTable : Prop :=
  (∀ (T : Tensor),
    let w (i : Nat) : Nat := ((T[i]?).getD 0).toNat
    let code := bits (w 3) 3 0
    let rows := bits (w 1) 31 0
    let cols := bits (w 1) 63 32
    let stride : Int := (BitVec.ofNat 64 (w 2)).toInt
    let ring := bits (w 3) 63 32
    let rdim := bits (w 3) 31 30
    let scale := bits (w 3) 15 8
    let good := code ≤ 12 ∧ bits (w 0) 63 48 = 0 ∧ 1 ≤ rows ∧ 1 ≤ cols ∧ stride.natAbs < 2 ^ 47 ∧ rdim ≤ 1 ∧
      bits (w 3) 29 16 = 0 ∧ bits (w 3) 7 4 = 0 ∧ (∀ k, 4 ≤ k → k ≤ 7 → w k = 0) ∧ ring ≤ (if rdim = 0 then rows else cols) ∧
      (code = 8 ∨ code = 9 ∨ scale = 0x7F) ∧ (10 ≤ code → cols % 32 = 0);
    (¬good → parseTensor T = none) ∧
    (good → ∃ D, parseTensor T = some D ∧ D.base = bits (w 0) 47 0 ∧ D.rows = rows ∧ D.cols = cols ∧ D.stride = stride ∧
      D.rlen = ring ∧ D.rdim = rdim ∧ D.scale = scale ∧
      D.fmt = (if code < 8 then .elem (ElemType.ofCode code) else .block (BlockFmt.ofCode (code - 8))))) ∧
  (∀ (D : TDesc) (r c : Nat),
    let r' := if D.rlen ≠ 0 ∧ D.rdim = 0 then r % D.rlen else r
    let c' := if D.rlen ≠ 0 ∧ D.rdim = 1 then c % D.rlen else c
    let at_ : Int := D.base + (r : Int) * D.stride + (match D.fmt with
      | .elem e => c * (elemWidth e / 8) | .block .e4m3 => c | .block .e5m2 => c | .block .e2m1x => c / 32 * 18
      | .block .e3m2 => c / 32 * 25 | .block .e2m3 => c / 32 * 25 : Nat)
    (D.coords r c = if r' < D.rows ∧ c' < D.cols then some (r', c') else none) ∧
    (0 ≤ at_ → (D.addr r c : Int) = at_) ∧ (at_ < 0 → 2 ^ 48 ≤ D.addr r c)) ∧
  (∀ (w : Who) (va n : Nat) (s u : State) (ls : List (Loc × Nat)), 1 ≤ n → checkRange w .load va n s = .ok (ls, u) →
    ∃ bs, EngMeets (engRead w va n) s bs (bs.any Prod.snd) u ∧ bs.map Prod.fst = u.readLocs ls ∧
      bs.any Prod.snd = u.anyPoison ls) ∧
  (∀ (w : Who) (D : TDesc) (r c r' c' : Nat) (s u : State) (bs : List (Byte × Bool)),
    let n : Nat := match D.fmt with
      | .elem t => elemWidth t / 8 | .block .e4m3 => 1 | .block .e5m2 => 1 | .block .e2m1x => 18 | .block .e3m2 => 25
      | .block .e2m3 => 25
    let v := bytesToNat (bs.map Prod.fst)
    let bad := bs.any Prod.snd
    let i := c' % 32
    let scaled (code : Nat) (x : FVal) : FVal := if code = 0xFF then .nan false else x.scale ((code : Int) - 127)
    (D.coords r c = none → EngMeets (readElem w D r c) s Elem.zero false s) ∧
    (D.coords r c = some (r', c') → EngMeets (engRead w (D.addr r' c') n) s bs bad u →
      ∃ e, EngMeets (readElem w D r c) s e bad u ∧ e.raw = v ∧ e.pois = bad ∧ e.val = match D.fmt with
        | .elem .i8 => ofInt (signedAt 8 v) | .elem .i16 => ofInt (signedAt 16 v) | .elem .i32 => ofInt (signedAt 32 v)
        | .elem .i64 => ofInt (signedAt 64 v) | .elem .bf16 => decodeF .bf16 v | .elem .f16 => decodeF .f16 v
        | .elem .f32 => decodeF .f32 v | .elem .f64 => decodeF .f64 v
        | .block .e4m3 => scaled D.scale (decodeF .e4m3 (v % 256)) | .block .e5m2 => scaled D.scale (decodeF .e5m2 (v % 256))
        | .block .e3m2 => scaled (v / 2 ^ 192 % 256) (decodeF .e3m2 (v / 2 ^ (6 * i) % 64))
        | .block .e2m3 => scaled (v / 2 ^ 192 % 256) (decodeF .e2m3 (v / 2 ^ (6 * i) % 64))
        | .block .e2m1x => scaled (v / 2 ^ 128 % 256) (if v / 2 ^ (4 * i) % 16 = 8 then decodeF .e4m3 (v / 2 ^ 136 % 256)
            else decodeF .e2m1 (v / 2 ^ (4 * i) % 16)))) ∧
  ∀ (d a b : Reg) (s : State) (c : Ctx), s.ctx? s.act.ctx = some c →
    let xa := (s.x a).toNat; let xb := (s.x b).toNat
    (2 ^ 16 ≤ xa → Raises (.tdef a b) s codeProt 0 ∧ Raises (.tund a) s codeProt 0) ∧
    (xa < 2 ^ 16 → exec (.tund a) s = .next ((s.setCtx s.act.ctx { c with tensors := assocDel c.tensors xa }).advance 4)) ∧
    (xa < 2 ^ 16 → xb % 64 ≠ 0 → Raises (.tdef a b) s codeAlign xb) ∧
    (∀ ls s', xa < 2 ^ 16 → xb % 64 = 0 → checkRange s.who .load xb 64 s = .ok (ls, s') → s'.anyPoison ls = false →
      let w (i : Nat) : Nat := bytesToNat (((s'.readLocs ls).drop (8 * i)).take 8)
      let fmt := bits (w 3) 3 0; let rows := bits (w 1) 31 0; let cols := bits (w 1) 63 32
      let rlen := bits (w 3) 63 32; let rdim := bits (w 3) 31 30
      let good := w 0 < 2 ^ 48 ∧ rows ≠ 0 ∧ cols ≠ 0 ∧ (w 2 < 2 ^ 47 ∨ 2 ^ 64 - 2 ^ 47 < w 2) ∧ fmt ≤ 12 ∧ rdim ≤ 1 ∧
        bits (w 3) 29 16 = 0 ∧ bits (w 3) 7 4 = 0 ∧ w 4 = 0 ∧ w 5 = 0 ∧ w 6 = 0 ∧ w 7 = 0 ∧
        rlen ≤ (if rdim = 0 then rows else cols) ∧ (fmt = 8 ∨ fmt = 9 ∨ bits (w 3) 15 8 = 0x7F) ∧
        (10 ≤ fmt → cols % 32 = 0)
      (¬good ∨ 1024 ≤ xa → Raises (.tdef a b) s codeTens 0) ∧
      (good → xa < 1024 → exec (.tdef a b) s = .next ((s'.setCtx s.act.ctx { c with
        tensors := assocPut c.tensors xa ((List.range 8).map fun i => BitVec.ofNat 64 (w i)) }).advance 4))) ∧
    (2 ^ 19 ≤ xa → Raises (.tqry d a) s codeProt 0) ∧
    (xa < 2 ^ 19 →
      (1024 ≤ bits xa 15 0 ∨ assocGet c.tensors (bits xa 15 0) = none → Writes (.tqry d a) s d (BitVec.allOnes 64)) ∧
      (∀ t, bits xa 15 0 < 1024 → assocGet c.tensors (bits xa 15 0) = some t →
        Writes (.tqry d a) s d ((t[bits xa 18 16]?).getD 0)))

/-! ## Engines -/

/-- The engine commands (R225, R226, R233 to R248): operand checks, what is captured, the queue entered, the split of a tile
that overflows, the number, the debit and the handle; what JPOLL reads; QFEN's queues; MSEND, whose command goes to its target
with everything it names. The model's choices in it: logs 26, 42, and 63 for the order of TENS and PROT of MMAG, MLDT and MSTT
and of R164's faults and PROT of CPY. -/
def Obligations.EngineIssue : Prop :=
  ∀ (d a b f : Reg) (mc : Fin 4) (nc : Fin 64) (ec : Fin 4) (s : State) (c : Ctx), s.ctx? s.act.ctx = some c →
    let xa := (s.x a).toNat; let xb := (s.x b).toNat; let xk := (s.x f).toNat; let it := s.issuer
    let bi := coreIsBi s.cur.core
    let enters (jobs : List (EngineQueue × Job)) (n : Nat) (u : State) : State := u.enterJobs n jobs
    let split (halves : Bool) (kind : JobKind) (cls u : Nat) : List (EngineQueue × Job) :=
      if halves then [(c.matrixQueue it.clus, mkJob it it.clus .own kind cls (u / 2)),
        (c.matrixQueue (Config.partner it.clus), mkJob it (Config.partner it.clus) .mate kind cls (u / 2))]
      else [(c.matrixQueue it.clus, mkJob it it.clus .whole kind cls u)]
    -- MMA and MMAG
    (let m := 64 * 2 ^ mc.val; let n := 16 * (nc.val + 1); let u := m / 64 * ((n + 63) / 64); let k0 := xk / 2 ^ 20
      let slot := bits xk 18 16; let col0 := bits xb 47 16
      let cost := (u * classCost ec.val * (if bi then pointFactor s.power.mx else 2) + 15) / 16
      let products (i : Instr) (rows : Option (List Nat)) (row0 : Nat) (local_ : TDesc → Bool) : Prop :=
        (2 ^ 48 ≤ xb → Raises i s codeProt 0) ∧
        (xb < 2 ^ 48 →
          (k0 % 32 ≠ 0 → Raises i s codeTens 0) ∧
          (k0 % 32 = 0 → c.tensor (bits xk 15 0) = none ∨ c.tensor (bits xb 15 0) = none → Raises i s codeTens 0) ∧
          (∀ ta da tb db, k0 % 32 = 0 → c.tensor (bits xk 15 0) = some ta → parseTensor ta = some da →
            c.tensor (bits xb 15 0) = some tb → parseTensor tb = some db →
            ((operandGroup da.fmt = none ∨ (operandGroup da.fmt).map Prod.fst ≠ (operandGroup db.fmt).map Prod.fst ∨
              local_ da = false) → Raises i s codeTens 0) ∧
            (∀ g kk, operandGroup da.fmt = some (g, kk) → (operandGroup db.fmt).map Prod.fst = some g → local_ da = true →
              (8 < slot + u → ¬(m = 256 ∧ 128 < n ∧ slot = 0) → Raises i s codeProt 0) ∧
              (slot + u ≤ 8 ∨ (m = 256 ∧ 128 < n ∧ slot = 0) →
                Issues i s s none (enters (split (decide (8 < slot + u))
                  (.mma ta tb rows row0 col0 k0 slot m n kk (bitOf xk 19)) ec.val u)) (some cost)))))
      (2 ^ 32 ≤ xa → Raises (.mma a b f mc nc ec) s codeProt 0) ∧
      (xa < 2 ^ 32 → products (.mma a b f mc nc ec) none xa fun _ => true) ∧
      (a.val % (32 * m / s.vw) ≠ 0 → Raises (.mmag a b f mc nc ec) s codeIll 0) ∧
      (a.val % (32 * m / s.vw) = 0 → products (.mmag a b f mc nc ec)
        (some ((List.range m).map fun i => s.elem .i32 (regPlus a (i / (s.vw / 32))) (i % (s.vw / 32)))) 0
        fun da => da.inStash s.act.lcore it.clus)) ∧
    -- MZERO, MLDT, MSTT
    (let id := bits xa 15 0; let slot := bits xa 18 16; let m := 64 * 2 ^ bits xa 20 19; let n := 16 * (bits xa 24 21 + 1)
      let pair := bitOf xa 25; let iv := bitOf xa 26; let rnd := bits xa 29 27
      let row := xb % 2 ^ 32; let col := xb / 2 ^ 32
      let placed := xa < 2 ^ 30 ∧ bits xa 20 19 ≠ 3 ∧
        (if pair = true then m = 256 ∧ 128 < n ∧ slot = 0 else slot + m / 64 * ((n + 63) / 64) ≤ 8)
      let fits (t : TDesc) : Prop := t.fmt.blocked = true → col % 32 = 0 ∧ n % 32 = 0
      let steps := if rnd = 4 then (m * n + 7) / 8 else 0
      let gen := (c.core s.act.lcore).genState s.act.lcore
      let drawn := if steps = 0 then s else
        s.modCore s.act.ctx s.act.lcore fun k => { k with gen := some (gen.advance steps) }
      (¬placed ∨ rnd ≠ 0 → Raises (.mzero d a) s codeProt 0 ∧ Raises (.mldt d a b) s codeProt 0) ∧
      (¬placed ∨ 4 < rnd → Raises (.mstt d a b) s codeProt 0) ∧
      (placed → rnd = 0 → id ≠ 0 → Raises (.mzero d a) s codeProt 0) ∧
      (placed → rnd = 0 → id = 0 → Issues (.mzero d a) s s (some d) (enters (split pair (.mzero slot m n) 0 0)) none) ∧
      (placed → c.tensor id = none → (rnd = 0 → Raises (.mldt d a b) s codeTens 0) ∧
        (rnd ≤ 4 → Raises (.mstt d a b) s codeTens 0)) ∧
      (∀ t td, placed → c.tensor id = some t → parseTensor t = some td →
        let ints : Bool := match td.fmt with | .elem e => e.isInt | .block _ => false;
        (rnd = 0 → (iv = true ∧ ints = false) ∨ ¬fits td → Raises (.mldt d a b) s codeTens 0) ∧
        (rnd ≤ 4 → ¬fits td → Raises (.mstt d a b) s codeTens 0) ∧
        (rnd = 0 → (iv = true → ints = true) → fits td →
          Issues (.mldt d a b) s s (some d) (enters (split pair (.mldt t iv row col slot m n) 0 0)) none) ∧
        (rnd ≤ 4 → fits td →
          Issues (.mstt d a b) s drawn (some d) (enters (split pair (.mstt t iv rnd row col slot m n gen) 0 0)) none))) ∧
    -- CPY, CPYG, MVC
    (∀ (i : Instr) (va : Nat), (i = .cpy d a b ec ∨ i = .cpyg d a b) ∧ va = xa ∨ i = .mvc d a b ec ∧ xa < 16 ∧ va = xb →
      (va % 32 ≠ 0 → Raises i s codeAlign va) ∧
      (∀ ls s', va % 32 = 0 → checkRange s.who .load va 32 s = .ok (ls, s') → s'.anyPoison ls = false →
        let w (k : Nat) : Nat := bytesToNat (((s'.readLocs ls).drop (8 * k)).take 8)
        let nr := w 2 / 2 ^ 32; let nb := w 2 % 2 ^ 32
        let ds := signedAt 32 (w 3 / 2 ^ 32); let ss := signedAt 32 (w 3)
        let block := w 0 < 2 ^ 48 ∧ w 1 < 2 ^ 48 ∧ 1 ≤ nr ∧ nr ≤ 65536 ∧ 1 ≤ nb ∧ nb ≤ 2 ^ 20
        let u := (nr * nb + 4095) / 4096
        let fb := (u * classCost ec.val * (if bi then pointFactor s.power.fb else 2) + 15) / 16
        let copies (u : Nat) : List (EngineQueue × Job) :=
          [(c.copyQueue it.clus, mkJob it it.clus .whole (.cpy (w 0) (w 1) nr nb ds ss xb) ec.val u)]
        (i ≠ .mvc d a b ec → ¬block → Raises i s codeProt 0) ∧
        (i = .cpy d a b ec → block → xb = 0 → Issues i s s' (some d) (enters (copies u)) (some fb)) ∧
        (i = .cpy d a b ec → block → xb ≠ 0 →
          (w 0 ≠ 0 ∨ ds ≠ 0 → Raises i s codeProt 0) ∧
          (∀ owner off e, w 0 = 0 → ds = 0 → cbOpen (.core s.act.ctx s.act.lcore) xb s' = .ok ((owner, off, e), s') →
            (owner / 64 * 8 + owner % 32 / 4 ≠ it.clus ∨ nb ≠ 2 ^ e.les → Raises i s codeProt 0) ∧
            (owner / 64 * 8 + owner % 32 / 4 = it.clus → nb = 2 ^ e.les →
              Issues i s s' (some d) (enters (copies u)) (some fb))) ∧
          (∀ code, w 0 = 0 → ds = 0 → cbOpen (.core s.act.ctx s.act.lcore) xb s' = .error (.fault code xb false 0) →
            Raises i s code xb) ∧
          (w 0 = 0 → ds = 0 → cbOpen (.core s.act.ctx s.act.lcore) xb s' = .error (.fault codePois xb true 0) →
            (s.trapsPoison = false → Raises i s codeProt xb) ∧
            (s.trapsPoison = true → exec i s = .next (s.takeFault 4 codePois xb true 0)))) ∧
        (i = .cpyg d a b → block →
          (xb % 4 ≠ 0 → Raises i s codeAlign xb) ∧
          (xb % 4 = 0 → Issues i s s' (some d) (enters
            [(c.gatherQueue it.clus, mkJob it it.clus .whole (.cpyg (w 0) (w 1) nr nb ds ss xb) 0 0)]) none)) ∧
        (i = .mvc d a b ec → let nrow := w 3 % 2 ^ 32
          (c.tensor (bits (w 0) 15 0) = none → Raises i s codeTens 0) ∧
          (∀ t td, c.tensor (bits (w 0) 15 0) = some t → parseTensor t = some td →
            let good := bits (w 0) 31 16 = 0 ∧ w 1 < 2 ^ 48 ∧ w 2 < 2 ^ 48 ∧ 1 ≤ nrow ∧ nrow ≤ 65536 ∧ w 3 < 2 ^ 33
            let u := (nrow * td.cols + 4095) / 4096;
            (mvcFormat td.fmt = false → Raises i s codeTens 0) ∧
            (mvcFormat td.fmt = true → ¬good → Raises i s codeProt 0) ∧
            (mvcFormat td.fmt = true → good → Issues i s s' (some d) (enters [(.cmvu xa,
              mkJob it it.clus .whole (.mvc t (w 0 / 2 ^ 32) (w 1) (w 2) nrow (bitOf (w 3) 32)) ec.val u)])
              (some ((u * classCost ec.val * 16 + 15) / 16))))))) ∧
    (16 ≤ xa → Raises (.mvc d a b ec) s codeProt 0) ∧
    -- JPOLL and QFEN
    (let h := (s.lcore s.act.ctx (bits xa 47 39)).table (bits xa 38 36); let num := xa % 2 ^ 32;
      (bits xa 63 48 ≠ 0 ∨ bits xa 35 32 ≠ 0 → Raises (.jpoll d a) s codeProt 0) ∧
      (bits xa 63 48 = 0 → bits xa 35 32 = 0 →
        (64 ≤ (h.next + 2 ^ 32 - 1 - num) % 2 ^ 32 ∨ assocGet h.status num = none →
          Writes (.jpoll d a) s d (BitVec.ofNat 64 (num * 2 ^ 32 + 6))) ∧
        (∀ w, (h.next + 2 ^ 32 - 1 - num) % 2 ^ 32 < 64 → assocGet h.status num = some w → Writes (.jpoll d a) s d w))) ∧
    (let queues := (if bitOf xa 0 then [c.matrixQueue it.clus] else []) ++
        (if bitOf xa 1 then [c.copyQueue it.clus] else []) ++ (if bitOf xa 2 then [c.gatherQueue it.clus] else []) ++
        ((List.range 16).filter fun n => bitOf xa (16 + n)).map EngineQueue.cmvu;
      (xa = 0 ∨ bits xa 15 3 ≠ 0 ∨ 2 ^ 32 ≤ xa → Raises (.qfen d a) s codeProt 0) ∧
      (xa ≠ 0 → bits xa 15 3 = 0 → xa < 2 ^ 32 → Issues (.qfen d a) s s (some d)
        (enters (queues.map fun q => (q, mkJob it it.clus .whole (.qfen queues) 0 0))) none)) ∧
    -- MSEND
    ((xa % 64 ≠ 0 → Raises (.msend d a b) s codeAlign xa) ∧
      (∀ ls s', xa % 64 = 0 → checkRange s.who .load xa 64 s = .ok (ls, s') → s'.anyPoison ls = false →
        let w (k : Nat) : Nat := bytesToNat (((s'.readLocs ls).drop (8 * k)).take 8)
        let words := (List.range 8).map w
        let steps := if bits (w 0) 63 56 = 5 then msttSteps (w 1) else 0
        let gen := (c.core s.act.lcore).genState s.act.lcore
        let drawn := if steps = 0 then s' else
          s'.modCore s.act.ctx s.act.lcore fun k => { k with gen := some (gen.advance steps) }
        let r : Remote := ⟨s.act.ctx, s.act.lcore, s.cur.idx, 0, s.x b, words.map (BitVec.ofNat 64),
          (blockTensors words).filterMap fun id => (c.tensor id).map fun t => (id, t), bits (w 0) 51 50, some gen, bi⟩
        let cost : Option Nat := match s'.remoteVerdict r with
          | .ok ⟨_, some (u, cls, rail)⟩ => some ((u * classCost cls * s.factor bi rail + 15) / 16)
          | _ => none
        (blockAllowed words = false → Raises (.msend d a b) s codeProt 0) ∧
        (blockAllowed words = true → Issues (.msend d a b) s drawn (some d)
          (fun n u => { u with remotes := u.remotes ++ [{ r with num := n }] }) cost)))

/-- The engine jobs as their queues perform them (R110, R138, R145, R228, R235 to R247): a tile of zeros, the elements of a
tensor in a tile and of a tile in a tensor, the products accumulated block by block with one rounding for each, for a whole
tile and for either half of a split one; the flags of the status are those of the job's roundings, dz never among them; rows
copied and gathered one after another, a product of a vector, one row put into a circular buffer, a fence that heads its
queues. A job that met poison completes as POISON, with the lines that depend on it poisoned; of a split command the half that
ends last gives the status, FAULT before POISON before DONE. A job that cannot read goes on waiting for firmware with what it
did before standing, and resumes there, or completes as FAULT, or as POISON where the poison of a buffer's descriptor stops
it; MVC reads every line of its matrix once (R358); a remote command that reaches its target is entered there, or completes
with what the target's checks say (an MVC aimed at anything but a CMVU is refused with 4, log 42). The model's choices in it:
logs 15, 20, 24, 40, 42, 44, 21 for the sign of a block's sum that is exactly zero, and 39 for the joined writes of MVC. -/
def Obligations.EngineJobs : Prop :=
  ∀ (s : State) (j : Job), let q := s.arg.eng; let w : Who := .core j.ctx j.lcore
    let gone (addr : Nat) : PageFault := ⟨j.ctx, addr / 2 ^ 16, .noMap, 0, false⟩
    -- the flags of a job: those of its roundings together, without dz
    let raised (n : Nat) (f : Nat → FFlags) : FFlags := (List.range n).foldl (fun acc i => acc ||| f i) 0
    let noted (f : FFlags) : FFlags := f &&& 0b10111
    -- accumulation
    (∀ (ints : Bool) (n m acc : Nat) (as bs : List Elem), as.length = 32 * (n + m) → bs.length = 32 * (n + m) →
      let y := accumulate ints n acc (as.take (32 * n)) (bs.take (32 * n))
      let z := accumulate ints m y.bits (as.drop (32 * n)) (bs.drop (32 * n));
      accumulate ints 0 acc [] [] = ⟨acc, 0⟩ ∧ accumulate ints (n + m) acc as bs = ⟨z.bits, y.flags ||| z.flags⟩) ∧
    (∀ (acc : Nat) (as bs : List Elem), as.length = 32 → bs.length = 32 → acc < 2 ^ 32 →
      let a (k : Nat) : Elem := (as[k]?).getD Elem.zero; let b (k : Nat) : Elem := (bs[k]?).getD Elem.zero
      let u (k : Nat) : FVal := (a k).val; let v (k : Nat) : FVal := (b k).val
      let total : Int := ((List.range 32).map fun k => signedAt 8 (a k).raw * signedAt 8 (b k).raw).sum
      let y := accumulate false 1 acc as bs
      let product (k : Nat) (sg : Bool) : Prop := ((u k).isInf = true ∨ (v k).isInf = true) ∧ ((u k).neg != (v k).neg) = sg
      let nan : Prop := ∃ k < 32, (u k).isNan = true ∨ (v k).isNan = true ∨
        ((u k).isInf = true ∧ (v k).isZero = true) ∨ ((u k).isZero = true ∧ (v k).isInf = true)
      let sum : ℚ := ((List.range 32).map fun k => (u k).rat * (v k).rat).sum
      -- one rounding of what the slot holds and the block gives
      let gives (w : FVal) : Prop := y = (addF .rne (decodeF .f32 acc) w).round .f32 .rne 0;
      accumulate true 1 acc as bs = ⟨wrapAt 32 ((acc : Int) + total), 0⟩ ∧
      (nan ∨ (∃ k < 32, product k true) ∧ (∃ k < 32, product k false) → y.bits = 0x7FC00000) ∧
      (∀ sg, ¬nan → (∃ k < 32, product k sg) → (∀ k < 32, ¬product k !sg) → gives (.inf sg)) ∧
      (¬nan → (∀ k < 32, ∀ sg, ¬product k sg) →
        ∃ neg m e, (FVal.fin neg m e).rat = sum ∧ (sum = 0 → neg = false) ∧ gives (.fin neg m e))) ∧
    -- completion
    (∀ code detail flags, j.steps = 0 → j.half = .whole → s.finishJob q j code detail flags =
      { s with engines := assocPut s.engines q (s.queueOf q).tail }.setJob j.ctx j.lcore j.slot j.num
        (jobWord j.num code detail flags false)) ∧
    (∀ code detail flags, j.steps = 0 → j.half ≠ .whole →
      let u : State := { s with engines := assocPut s.engines q (s.queueOf q).tail }
      let same (h : HalfStatus) : Prop := h.ctx = j.ctx ∧ h.lcore = j.lcore ∧ h.slot = j.slot ∧ h.num = j.num
      ((∀ h ∈ s.halves, ¬same h) → s.finishJob q j code detail flags = { u with halves := s.halves ++
        [⟨j.ctx, j.lcore, j.slot, j.num, decide (j.half = .own), j.clus, code, detail, flags, false⟩] }) ∧
      (∀ h, s.halves = [h] → same h → h.ovr = false →
        let rank (c : Nat) : Nat := if c = jobFault then 2 else if c = jobPoison then 1 else 0
        let mine := rank h.code < rank code ∨ (rank h.code = rank code ∧ j.half = .own)
        s.finishJob q j code detail flags = { u with halves := [] }.setJob j.ctx j.lcore j.slot j.num
          (jobWord j.num (if mine then code else h.code) (if mine then detail else h.detail) (flags ||| h.flags) false))) ∧
    (∀ (t : JobTable) (word : Word), (s.ctx? j.ctx).isSome = true → (s.lcore j.ctx j.lcore).table j.slot = t →
      t.recent j.num = true → (assocGet t.status j.num).isSome = true →
      ((((s.setJob j.ctx j.lcore j.slot j.num word).lcore j.ctx j.lcore).table j.slot).word j.num) = word) ∧
    (s.heads j →
      -- MZERO
      (∀ slot m n, j.kind = .mzero slot m n → let lr := j.rows m
        lr % 64 = 0 → n % 16 = 0 → slot + lr / 64 * ((n + 63) / 64) ≤ 8 →
        ∃ t, exec .mzeroJob s = .next (State.finishJob t q j jobDone 0 0) ∧ s.sameButTiles t ∧ s.sameOtherTiles t j slot lr n ∧
          t.tilePoisonIs j slot lr n (fun _ _ => False) ∧ ∀ i < lr, ∀ col < n, t.tileElem j slot n i col = 0) ∧
      -- MLDT
      (∀ ten d iv row col slot m n (e : Nat → Nat → Elem), j.kind = .mldt ten iv row col slot m n → let lr := j.rows m
        parseTensor ten = some d → lr % 64 = 0 → n % 16 = 0 → slot + lr / 64 * ((n + 63) / 64) ≤ 8 →
        (∀ i < lr, ∀ k < n, EngReads (readElem w d (row + (j.firstRow + i)) (col + k)) s (e i k)) →
        ∃ t flags met, exec .mldtJob s = .next (State.finishJob t q j (doneCode met) 0 flags) ∧
          flags = raised lr (fun i => raised n fun k => noted (loadedElem iv d.fmt (e i k)).flags) ∧
          (met = true ↔ ∃ i < lr, ∃ k < n, (e i k).pois = true) ∧ s.sameButTiles t ∧ s.sameOtherTiles t j slot lr n ∧
          t.tilePoisonIs j slot lr n (fun i k => (e i k).pois = true) ∧
          ∀ i < lr, ∀ k < n, t.tileElem j slot n i k = (loadedElem iv d.fmt (e i k)).bits % 2 ^ 32) ∧
      -- MMA and MMAG
      (∀ ta da tb db rows row0 col0 k0 slot m n kk acc (x y : Nat → Nat → Elem),
        j.kind = .mma ta tb rows row0 col0 k0 slot m n kk acc → let lr := j.rows m
        parseTensor ta = some da → parseTensor tb = some db → lr % 64 = 0 → n % 16 = 0 →
        slot + lr / 64 * ((n + 63) / 64) ≤ 8 → kk % 32 = 0 →
        (∀ i < lr, ∀ k < kk, match rows with
          | none => EngReads (readElem w da (row0 + (j.firstRow + i)) (k0 + k)) s (x i k)
          | some l => if l[j.firstRow + i]? = some 0xFFFFFFFF then x i k = Elem.zero
              else ∃ r, l[j.firstRow + i]? = some r ∧ EngReads (readElem w da r (k0 + k)) s (x i k)) →
        (∀ col < n, ∀ k < kk, EngReads (readElem w db (col0 + col) (k0 + k)) s (y col k)) →
        let bad (i col : Nat) : Prop := (acc = true ∧ s.tileBad j slot n i col = true) ∨ (∃ k < kk, (x i k).pois = true) ∨
          ∃ k < kk, (y col k).pois = true
        let out (i col : Nat) : Rounded := accumulate (decide (da.fmt = .elem .i8)) (kk / 32)
          (if acc then s.tileRead j slot n i col else 0) ((List.range kk).map (x i)) ((List.range kk).map (y col));
        ∃ t flags met, exec .mmaJob s = .next (State.finishJob t q j (doneCode met) 0 flags) ∧
          flags = raised lr (fun i => raised n fun col => noted (out i col).flags) ∧
          (16 ≤ n → (met = true ↔ ∃ i < lr, ∃ col < n, bad i col)) ∧ s.sameButTiles t ∧ s.sameOtherTiles t j slot lr n ∧
          t.tilePoisonIs j slot lr n bad ∧
          ∀ i < lr, ∀ col < n, t.tileElem j slot n i col = (out i col).bits % 2 ^ 32) ∧
      -- MSTT
      (∀ ten d iv mode row col slot m n gen (at_ : Nat → State), j.kind = .mstt ten iv mode row col slot m n gen →
        parseTensor ten = some d → n % 16 = 0 → at_ 0 = s →
        let lr := j.rows m; let rm := RMode.ofCode mode
        let piece (i : Nat) := storedRow d rm (if rm = .sr then Gen.draw ((m * n + 7) / 8) gen else [])
          (row + (j.firstRow + i)) col ((j.firstRow + i) * n)
          ((List.range n).map fun k => (tileVal iv (s.tileRead j slot n i k), s.tileBad j slot n i k));
        (∀ i < lr, (at_ i).tile = s.tile ∧ (at_ i).tilePoison = s.tilePoison ∧
          EngGives (engWriteAll w (piece i).1) (at_ i) () (at_ (i + 1))) →
        ∃ met, exec .msttJob s = .next ((at_ lr).finishJob q j (doneCode met) 0 (raised lr fun i => noted (piece i).2)) ∧
          (met = true ↔ ∃ i < lr, ∃ k < n, s.tileBad j slot n i k = true)) ∧
      -- CPY and CPYG
      (∀ dst src nr nb ds ss (at_ : Nat → State), j.kind = .cpy dst src nr nb ds ss 0 → at_ 0 = s →
        (∀ r < nr, Copies w (strideVa dst r ds) (strideVa src r ss) nb (at_ r) (at_ (r + 1))) →
        exec .cpyJob s = .next ((at_ nr).finishJob q j jobDone 0 0)) ∧
      (∀ dst src nr nb ds ss (at_ mid : Nat → State) (bs : Nat → List (Byte × Bool)), j.kind = .cpy dst src nr nb ds ss 0 →
        at_ 0 = s → (∀ r < nr, EngMeets (engRead w (strideVa src r ss) nb) (at_ r) (bs r) ((bs r).any Prod.snd) (mid r) ∧
          EngGives (engWrite w (strideVa dst r ds) (bs r)) (mid r) () (at_ (r + 1))) →
        ∃ met, exec .cpyJob s = .next ((at_ nr).finishJob q j (doneCode met) 0 0) ∧
          (met = true ↔ ∃ r < nr, (bs r).any Prod.snd = true)) ∧
      (∀ dst src nr nb ds ss idx (at_ mid : Nat → State) (ix : Nat → List (Loc × Nat)),
        j.kind = .cpyg dst src nr nb ds ss idx → at_ 0 = s →
        (∀ r < nr, checkRange w .load (idx + 4 * r) 4 (at_ r) = .ok (ix r, mid r) ∧ (mid r).anyPoison (ix r) = false ∧
          let i := bytesToNat ((mid r).readLocs (ix r))
          if i = 0xFFFFFFFF then at_ (r + 1) = mid r
          else Copies w (strideVa dst r ds) (strideVa src i ss) nb (mid r) (at_ (r + 1))) →
        exec .cpygJob s = .next ((at_ nr).finishJob q j jobDone 0 0)) ∧
      -- a fault
      (∀ dst src nr nb ds ss code addr, j.kind = .cpy dst src nr nb ds ss 0 → 1 ≤ nr →
        checkRange w .load (strideVa src 0 ss) nb s = .error (.fault code addr false 0) →
        let waits : State := s.setHead q { j with waiting := true };
        (code = codePage → gone addr ∉ s.pages →
          exec .cpyJob s = .next { waits with pages := s.pages ++ [⟨j.ctx, addr, .job q, queueDie q, false⟩] }) ∧
        (code = codeRes → exec .cpyJob s = .next (State.wake
          { waits with pendRes := s.pendRes ++ [⟨j.ctx, addr, .job q, queueDie q, false⟩] } ⟨.dram, 0, j.ctx, j.lcore⟩)) ∧
        (code = codeProt → gone addr ∉ s.pages →
          exec .cpyJob s = .next (s.finishJob q j jobFault codeProt 0))) ∧
      (∀ dst src nr nb ds ss addr (at_ : Nat → State) r0, j.kind = .cpy dst src nr nb ds ss 0 → r0 < nr → at_ 0 = s →
        (∀ r < r0, Copies w (strideVa dst r ds) (strideVa src r ss) nb (at_ r) (at_ (r + 1))) →
        checkRange w .load (strideVa src r0 ss) nb (at_ r0) = .error (.fault codePage addr false 0) →
        gone addr ∉ (at_ r0).pages →
        ∃ rows : List (List (Byte × Bool)), rows.length = r0 ∧ (∀ bs ∈ rows, bs.any Prod.snd = false) ∧
          exec .cpyJob s = .next { (at_ r0).setHead q { j with
              waiting := true, past := rows.flatMap fun bs => [.bytes bs, .wrote] } with
            pages := (at_ r0).pages ++ [⟨j.ctx, addr, .job q, queueDie q, false⟩] }) ∧
      -- MVC
      (∀ ten d row0 x y nrow acc (xs ls old : Nat → List (Byte × Bool)) (u : State),
        j.kind = .mvc ten row0 x y nrow acc → parseTensor ten = some d →
        let lines := weightLines d row0 nrow
        let ws (r k : Nat) : Elem := match d.coords (row0 + r) k with
          | none => Elem.zero
          | some (r', c') => d.elemOf c' ((List.range d.elemBytes).map fun i =>
              let at_ := d.addr r' c' + i; ((ls (at_ / 64))[at_ % 64]?).getD (0, false))
        let inside (r : Nat) : Bool := (d.coords (row0 + r) 0).isSome
        (∀ k < d.cols, EngMeets (engRead w (x + 4 * k) 4) s (xs k) ((xs k).any Prod.snd) s) →
        (∀ l ∈ lines, EngMeets (engRead w (64 * l) 64) s (ls l) ((ls l).any Prod.snd) s) →
        (∀ r < nrow, inside r = true →
          (acc = true → EngMeets (engRead w (y + 4 * r) 4) s (old r) ((old r).any Prod.snd) s) ∧ (acc = false → old r = [])) →
        let xe (k : Nat) : Elem := let v := markedNat (xs k); ⟨v.1, decodeF .f32 v.1, v.2⟩
        let pad (e : Nat → Elem) : List Elem :=
          (List.range (32 * ((d.cols + 31) / 32))).map fun k => if k < d.cols then e k else Elem.zero
        let bad (r : Nat) : Bool := (old r).any Prod.snd || (List.range d.cols).any (fun k => (ws r k).pois || (xe k).pois)
        let out (r : Nat) : Rounded := accumulate false ((d.cols + 31) / 32) (markedNat (old r)).1 (pad (ws r)) (pad xe)
        let piece (r : Nat) : Option (Nat × List (Byte × Bool)) :=
          if inside r then some (y + 4 * r, marked (bad r) (natToBytes 4 (out r).bits))
          else if acc then none else some (y + 4 * r, marked false (natToBytes 4 0));
        EngGives (engWriteAll w (joinRuns ((List.range nrow).filterMap piece))) s () u →
        ∃ met, exec .mvcJob s = .next (u.finishJob q j (doneCode met) 0
            (raised nrow fun r => if inside r then noted (out r).flags else 0)) ∧
          (met = true ↔ (∃ k < d.cols, (xe k).pois = true) ∨ (∃ l ∈ lines, (ls l).any Prod.snd = true) ∨
            ∃ r < nrow, inside r = true ∧ (old r).any Prod.snd = true)) ∧
      (∀ d row0 nrow l, l ∈ weightLines d row0 nrow ↔ ∃ r < nrow, ∃ k < d.cols, ∃ r' c', d.coords (row0 + r) k = some (r', c') ∧
        d.addr r' c' / 64 ≤ l ∧ 64 * l < d.addr r' c' + d.elemBytes)) ∧
    -- a resumed job
    (∀ dst src nr nb ds ss (rows : List (List (Byte × Bool))) (at_ : Nat → State), (s.queueOf q).head? = some j →
      j.waiting = false → s.splitOpen q = false → j.kind = .cpy dst src nr nb ds ss 0 → rows.length ≤ nr →
      (∀ bs ∈ rows, bs.any Prod.snd = false) → j.past = rows.flatMap (fun bs => [.bytes bs, .wrote]) → at_ rows.length = s →
      (∀ r, rows.length ≤ r → r < nr → Copies w (strideVa dst r ds) (strideVa src r ss) nb (at_ r) (at_ (r + 1))) →
      exec .cpyJob s = .next ((at_ nr).finishJob q j jobDone 0 0)) ∧
    -- CB_FILL
    (∀ dst src nr nb ds ss cb owner off e, (s.queueOf q).head? = some j → j.waiting = false → j.past = [] → cb ≠ 0 →
      j.kind = .cpy dst src nr nb ds ss cb → cbOpen w cb s = .ok ((owner, off, e), s) →
      (e.room = 0 → exec .cbFill s = .next s) ∧
      (∀ u, e.room ≠ 0 → e.wrec = 0 →
        Copies w (cbEntryVa cb owner e (e.put % 2 ^ e.lcnt)) (strideVa src j.row ss) nb s u →
        let v := u.writeLoc (.core j.ctx owner) (.stash (stashKey j.ctx owner off + 8))
          { e with put := (e.put + 1) % 2 ^ 32 }.tail
        let j' := { j with row := j.row + 1 }
        exec .cbFill s = .next (if j.row + 1 < nr then v.setHead q j'
          else v.finishJob q j' (if j.met then jobPoison else jobDone) 0 0))) ∧
    (∀ dst src nr nb ds ss cb, (s.queueOf q).head? = some j → j.waiting = false → j.past = [] → cb ≠ 0 →
      j.kind = .cpy dst src nr nb ds ss cb → cbOpen w cb s = .error (.fault codePois cb true 0) → gone cb ∉ s.pages →
      exec .cbFill s = .next (s.finishJob q j jobPoison 0 0)) ∧
    -- QFEN
    (∀ qs, (s.queueOf q).head? = some j → j.kind = .qfen qs →
      ((∃ p ∈ qs, (s.queueOf p).head? ≠ some j ∨ s.splitOpen p = true) → exec .qfenFenceJob s = .next s) ∧
      ((∀ p ∈ qs, (s.queueOf p).head? = some j ∧ s.splitOpen p = false) → exec .qfenFenceJob s =
        .next ({ s with engines := s.engines.map fun (p : EngineQueue × List Job) =>
          if p.1 ∈ qs then (p.1, p.2.tail) else p }.completeJob j jobDone 0 0 false))) ∧
    -- MSEND
    (∀ r, s.remotes[s.arg.i]? = some r → let u : State := { s with remotes := s.remotes.eraseIdx s.arg.i }
      (∀ code detail, u.remoteVerdict r = .error (code, detail) → exec .remoteCommandArrival s =
        .next (u.setJob r.ctx r.lcore r.slot r.num (jobWord r.num code detail 0 false))) ∧
      (∀ cmd, u.remoteVerdict r = .ok cmd → exec .remoteCommandArrival s = .next (u.enterJobs r.num cmd.jobs)) ∧
      (∀ c, s.ctx? r.ctx = some c → let cap := r.cap.toNat; let op := bits ((r.words.headD 0).toNat) 63 56
        let target := bits cap 51 44
        let code := (crng c.capKey (BitVec.ofNat 128 (cap / 2 ^ 32))).toNat % 2 ^ 32
        let exists_ := bitOf cap 43 = false ∧ (if op = 8 then 0x80 ≤ target ∧ target < 0x90 else target < 64)
        let right := bitOf cap (if op = 8 then 42 else if op = 6 ∨ op = 7 then 41 else 40)
        let refused (n : Nat) : Prop := s.remoteVerdict r = .error (3, n);
        (code ≠ cap % 2 ^ 32 → refused 1) ∧
        (code = cap % 2 ^ 32 → (bits cap 63 52 ≠ r.ctx → refused 2) ∧
          (bits cap 63 52 = r.ctx → (right = false → refused 3) ∧
            (right = true → (¬exists_ → refused 4) ∧ (exists_ → (bits cap 39 32 ≠ c.epoch → refused 5) ∧
              (bits cap 39 32 = c.epoch → let checks := prepRemote r target r.onBi s
                (∀ cmd t, checks = .ok (cmd, t) → s.remoteVerdict r = .ok cmd) ∧
                (∀ code a n, checks = .error (.fault code a true n) → s.remoteVerdict r = .error (2, 0)) ∧
                (∀ a n, checks = .error (.fault codeTens a false n) → s.remoteVerdict r = .error (5, n)) ∧
                (∀ code a n, code ≠ codeTens → checks = .error (.fault code a false n) → refused 6))))))))

/-! ## Interaction nets -/

/-- NALLOC, NFREE, NREL, NLD, NST, LINK, PUSHP, NETI, PRODL and BAGCNT (R250 to R268): a node off the free list or off a fresh
chunk, or none; a live node back on the free list; a spent node marked released; words read, and written where NST may; the
connection of live free ports, immediates and spent ports, each of these standing for its partner, with the pair pushed when
two principal ports, or one and an immediate, meet; a pair pushed that was built by hand, its conditions checked in R266's
order; a completion link registered, or made at once for a job that is over; the production table; and the checks of the
operands. The model's choices in it: logs 25, 26, 27, 52 (NFREE looks at ports 0 to arity alone) and 65 (a misaligned operand
of PUSHP is ALIGN). -/
def Obligations.Nodes : Prop :=
  ∀ (d a b : Reg) (s : State) (c : Ctx), s.ctx? s.act.ctx = some c →
    let id := s.act.ctx; let l := s.act.lcore; let k := c.core l; let cl := l / 64 * 8 + l % 32 / 4
    let xa := (s.x a).toNat; let xb := (s.x b).toNat
    let operandA : List Instr := [.nfree a, .nrel a, .neti d a, .pushp a b]
    let apart (x y : Nat) : Prop := x + 64 ≤ y ∨ y + 64 ≤ x
    let putWord (u : State) (loc : Loc) (v : Nat) : State := u.put s.who [(loc, 8)] (natToBytes 8 v)
    -- operands
    (∀ w, xa % 64 ≠ 0 → ∀ i ∈ Instr.nld d a w :: .nst d a w :: operandA, Raises i s codeAlign xa) ∧
    (∀ w, xa % 64 = 0 → c.inNodes xa = false → ∀ i ∈ Instr.nld d a w :: .nst d a w :: operandA, Raises i s codeProt xa) ∧
    -- NALLOC
    (k.free = [] → c.chunks = [] → c.chunkCount ≤ c.chunkNext →
      exec (.nalloc d) s = .next ((({ s with free := s.free + 1 }.setErr id l errNode).setX d 0).advance 4)) ∧
    (∀ n rest free, let at_ := s.free; let pick := Config.freeNat at_ % k.free.length
      k.free[pick]? = some n → rest = k.free.eraseIdx pick → free = s.free + 1 →
      let u := { s with free := free }.modCore id l fun k => { k with free := rest }
      ∀ ls u', checkRange u.who .store n 64 u = .ok (ls, u') → exec (.nalloc d) s =
        .next (((u'.put u.who ls (natToBytes 8 (l * 2 ^ 41 + 2 ^ 40) ++ List.replicate 56 0)).setX d
          (BitVec.ofNat 64 n)).advance 4)) ∧
    (k.free = [] → c.chunks = [] → c.chunkNext < c.chunkCount →
      let pick := Config.freeNat (s.free + 1) % 64
      let n := c.nodeBase + 4096 * (c.chunkNext + 1) + 64 * pick
      let u := ({ s with free := s.free + 2 }.setCtx id { c with chunkNext := c.chunkNext + 1 }).modCore id l
        fun k => { k with free := (c.chunk c.chunkNext).eraseIdx pick }
      ∀ ls u', checkRange u.who .store n 64 u = .ok (ls, u') → exec (.nalloc d) s =
        .next (((u'.put u.who ls (natToBytes 8 (l * 2 ^ 41 + 2 ^ 40) ++ List.replicate 56 0)).setX d
          (BitVec.ofNat 64 n)).advance 4)) ∧
    -- one node at xa
    (∀ w pa loc key, s.nodeAt xa w pa loc key →
      let h := w 0; let ports := List.range (bits h 51 50 + 1)
      let unused := liveHeader h ∧ bitOf h 38 = false ∧ ∀ p ∈ ports, bits (w (p + 1)) 62 61 = 0 ∨ bits (w (p + 1)) 62 61 = 3
      (unused → exec (.nfree a) s = .next (((putWord s (loc 0) (h % 2 ^ 52 - 2 ^ 40)).returnNode id false l xa).advance 4)) ∧
      (¬unused → Raises (.nfree a) s codeProt xa) ∧
      (k.free.length < 128 →
        ((s.returnNode id false l xa).lcore id l).free = k.free ++ [xa]) ∧
      (bitOf h 40 = true → bitOf h 39 = true → exec (.nrel a) s = .next ((s.setCtx id
        (if c.released.any fun r => decide (r.node = xa) then c
          else { c with released := c.released ++ [⟨xa, false, l⟩] })).advance 4)) ∧
      (bitOf h 40 = false ∨ bitOf h 39 = false → Raises (.nrel a) s codeProt xa) ∧
      (∀ i : Fin 8, Writes (.nld d a i) s d (BitVec.ofNat 64 (w i.val))) ∧
      (∀ i : Fin 8,
        let v := (s.x d).toNat
        let stores (v : Nat) : Prop := exec (.nst d a i) s =
          .next ((s.stored (xa + 8 * i.val) (natToBytes 8 v) [(loc i.val, 8)]).advance 4);
        (bitOf h 40 = false → Raises (.nst d a i) s codeProt xa) ∧
        (bitOf h 40 = true →
          (5 ≤ i.val → stores v) ∧
          (i.val = 0 → (bits v 35 0 ≠ 0 ∨ (1 ≤ bits v 63 52 ∧ bits v 63 52 < 0x100) → Raises (.nst d a i) s codeProt 0) ∧
            (bits v 35 0 = 0 → bits v 63 52 = 0 ∨ 0x100 ≤ bits v 63 52 →
              stores (bits v 63 50 * 2 ^ 50 + bits h 49 38 * 2 ^ 38 + bits v 37 36 * 2 ^ 36 + h % 2 ^ 36))) ∧
          (1 ≤ i.val → i.val ≤ 4 →
            let good := v < 2 ^ 63 ∧ bits v 62 61 ≠ 2 ∧ (bits v 62 61 = 3 ∨ (bits v 60 48 = 0 ∧ bits v 5 2 = 0))
            (¬good → Raises (.nst d a i) s codeProt 0) ∧
            (good → bitOf (w i.val) 63 = true → exec (.nst d a i) s = .next s) ∧
            (good → bitOf (w i.val) 63 = false → stores v)))) ∧
      -- PUSHP
      (∀ v, liveHeader h → w 1 = xb → xb = 3 * 2 ^ 61 + v → v < 2 ^ 61 →
        exec (.pushp a b) s = .next ((s.pushed c id cl xa (bits h 63 52) (bits h 49 41) (.imm v) 0).advance 4)) ∧
      (∀ n w' pa' loc' key', liveHeader h → w 1 = xb → xb = 2 ^ 61 + n → s.nodeAt n w' pa' loc' key' → liveHeader (w' 0) →
        w' 1 = 2 ^ 61 + xa → exec (.pushp a b) s =
          .next ((s.pushed c id cl xa (bits h 63 52) (bits h 49 41) (.port n 0) (bits (w' 0) 63 52)).advance 4)) ∧
      (let end_ := xb < 2 ^ 63 ∧ (bits xb 62 61 = 3 ∨ (bits xb 62 61 = 1 ∧ bits xb 60 48 = 0)); let other := bits xb 47 6 * 64
        (¬end_ → Raises (.pushp a b) s codeProt 0) ∧
        (end_ → bits xb 62 61 = 1 →
          (bits xb 5 2 ≠ 0 → Raises (.pushp a b) s codeAlign (bits xb 47 2 * 4)) ∧
          (bits xb 5 2 = 0 → bits xb 1 0 ≠ 0 ∨ c.inNodes other = false → Raises (.pushp a b) s codeProt other)) ∧
        (end_ → bits xb 62 61 = 3 → ¬liveHeader h ∨ w 1 ≠ xb → Raises (.pushp a b) s codeProt xa) ∧
        (∀ n w' pa' loc' key', xb = 2 ^ 61 + n → s.nodeAt n w' pa' loc' key' →
          (¬liveHeader h → Raises (.pushp a b) s codeProt xa) ∧
          (liveHeader h → ¬liveHeader (w' 0) → Raises (.pushp a b) s codeProt n) ∧
          (liveHeader h → liveHeader (w' 0) → w 1 ≠ xb → Raises (.pushp a b) s codeProt xa) ∧
          (liveHeader h → liveHeader (w' 0) → w 1 = xb → w' 1 ≠ 2 ^ 61 + xa → Raises (.pushp a b) s codeProt n))) ∧
      -- NETI
      (∀ e, linkable w 0 → badHandle (w 5) = false → checkEnd s.who id (w 6) s = .ok (e, s) →
        let st := (s.jobStatus id (w 5)).toNat
        (e.1 = .port xa 0 → Raises (.neti d a) s codeProt 0) ∧
        (4 ≤ (c.links.filter fun q => decide (q.handle = w 5)).length → Raises (.neti d a) s codeProt 0) ∧
        (e.1 ≠ .port xa 0 → (c.links.filter fun q => decide (q.handle = w 5)).length < 4 →
          (st % 16 = 0 → exec (.neti d a) s = .next ((((putWord s (loc 0) (h + 2 ^ 38)).modCtx id fun x =>
            { x with links := x.links ++ [⟨xa, w 5, l, none⟩] }).setX d 0).advance 4)) ∧
          (∀ v, st % 16 ≠ 0 → w 6 = 3 * 2 ^ 61 + v → v < 2 ^ 61 → exec (.neti d a) s =
            .next ((((putWord (putWord (putWord s (loc 7) st) (loc 0) h) (loc 1) (w 6)).pushed c id
              (bits h 49 41 / 64 * 8 + bits h 49 41 % 32 / 4) xa (bits h 63 52) (bits h 49 41) (.imm v) 0).setX d
              (BitVec.ofNat 64 (st % 16))).advance 4)))) ∧
      (¬linkable w 0 ∨ badHandle (w 5) = true → Raises (.neti d a) s codeProt xa)) ∧
    -- LINK
    (∀ n p w pa loc key, xa = 2 ^ 61 + n + p → p < 4 → s.nodeAt n w pa loc key →
      (¬linkable w p → bitOf (w 0) 39 = false → Raises (.link d a b) s codeProt n) ∧
      (linkable w p →
        (∀ v, xb = 3 * 2 ^ 61 + v → v < 2 ^ 61 → let u := putWord s (loc (p + 1)) xb
          (p ≠ 0 → exec (.link d a b) s = .next ((u.setX d 0).advance 4)) ∧
          (p = 0 → exec (.link d a b) s =
            .next (((u.pushed c id cl n (bits (w 0) 63 52) (bits (w 0) 49 41) (.imm v) 0).setX d 1).advance 4))) ∧
        (∀ n' p' w' pa' loc' key', xb = 2 ^ 61 + n' + p' → p' < 4 → s.nodeAt n' w' pa' loc' key' → linkable w' p' →
          (n = n' ∧ pa = pa' ∧ p ≠ p' ∨ pa + 64 ≤ pa' ∨ pa' + 64 ≤ pa) →
          let u := putWord (putWord s (loc (p + 1)) xb) (loc' (p' + 1)) xa
          (p ≠ 0 ∨ p' ≠ 0 → exec (.link d a b) s = .next ((u.setX d 0).advance 4)) ∧
          (p = 0 → p' = 0 → exec (.link d a b) s = .next (((u.pushed c id cl n (bits (w 0) 63 52) (bits (w 0) 49 41)
            (.port n' 0) (bits (w' 0) 63 52)).setX d 1).advance 4))) ∧
        (xb = xa → Raises (.link d a b) s codeProt 0)) ∧
      -- a spent operand
      (bitOf (w 0) 40 = true → bitOf (w 0) 39 = true →
        (bits (w 0) 51 50 < p ∨ p = 0 ∨ bits (w (p + 1)) 62 61 = 0 ∨ bits (w (p + 1)) 62 61 = 2 →
          Raises (.link d a b) s codeProt n) ∧
        (1 ≤ p → p ≤ bits (w 0) 51 50 →
          (∀ v n' p' w' pa' loc' key', w (p + 1) = 3 * 2 ^ 61 + v → v < 2 ^ 61 → xb = 2 ^ 61 + n' + p' → p' < 4 →
            s.nodeAt n' w' pa' loc' key' → linkable w' p' → apart pa pa' →
            let u := putWord (putWord s (loc' (p' + 1)) (3 * 2 ^ 61 + v)) (loc (p + 1)) 0
            (p' ≠ 0 → exec (.link d a b) s = .next ((u.setX d 0).advance 4)) ∧
            (p' = 0 → exec (.link d a b) s =
              .next (((u.pushed c id cl n' (bits (w' 0) 63 52) (bits (w' 0) 49 41) (.imm v) 0).setX d 1).advance 4))) ∧
          (∀ n' p' w' pa' loc' key', xb = 2 ^ 61 + n' + p' → 1 ≤ p' → p' < 4 → s.nodeAt n' w' pa' loc' key' →
            bitOf (w' 0) 40 = true → bitOf (w' 0) 39 = true → p' ≤ bits (w' 0) 51 50 → w (p + 1) = xb → w' (p' + 1) = xa →
            (n = n' ∧ pa = pa' ∧ p ≠ p' ∨ apart pa pa') → exec (.link d a b) s =
              .next (((putWord (putWord s (loc (p + 1)) 0) (loc' (p' + 1)) 0).setX d 2).advance 4)) ∧
          (∀ n' p' w' pa' loc' key', w (p + 1) = 2 ^ 61 + n' + p' → p' < 4 → s.nodeAt n' w' pa' loc' key' → w' (p' + 1) = xa →
            apart pa pa' → let live' := p' = 0 ∧ liveHeader (w' 0)
            (∀ v, xb = 3 * 2 ^ 61 + v → v < 2 ^ 61 → let u := putWord (putWord s (loc' (p' + 1)) xb) (loc (p + 1)) 0
              (¬live' → exec (.link d a b) s = .next ((u.setX d 0).advance 4)) ∧
              (live' → exec (.link d a b) s =
                .next (((u.pushed c id cl n' (bits (w' 0) 63 52) (bits (w' 0) 49 41) (.imm v) 0).setX d 1).advance 4))) ∧
            (∀ m q y pb at_ key₂, xb = 2 ^ 61 + m + q → q < 4 → s.nodeAt m y pb at_ key₂ → linkable y q → apart pb pa →
              apart pb pa' → let joined := putWord (putWord s (loc' (p' + 1)) xb) (at_ (q + 1)) (w (p + 1))
              let u := putWord joined (loc (p + 1)) (2 ^ 62 + m + q)
              (¬(live' ∧ q = 0) → exec (.link d a b) s = .next ((u.setX d 0).advance 4)) ∧
              (live' ∧ q = 0 → exec (.link d a b) s = .next (((u.pushed c id cl n' (bits (w' 0) 63 52) (bits (w' 0) 49 41)
                (.port m 0) (bits (y 0) 63 52)).setX d 1).advance 4))))))) ∧
    (2 ^ 63 ≤ xa ∨ bits xa 62 61 = 0 ∨ bits xa 62 61 = 2 → Raises (.link d a b) s codeProt 0) ∧
    (bits xa 63 61 = 3 → bits xb 63 61 = 3 → Writes (.link d a b) s d 2) ∧
    -- PRODL and BAGCNT
    (let ta := bits xa 11 0; let tb := bits xa 23 12; let kind := bits xa 25 24
      let good := xa < 2 ^ 40 ∧ bits xa 27 26 = 0 ∧ kind ≠ 3 ∧ 0x100 ≤ ta ∧ (0x100 ≤ tb ∨ tb = 1)
      let others := c.prods.filter fun p => decide (¬(p.tagA = ta ∧ p.tagB = tb))
      let sets (u : State) (new : List Production) : Prop := exec (.prodl a b) s =
        .next ((u.setCtx id { c with prods := others ++ new }).advance 4);
      (¬good → Raises (.prodl a b) s codeProt 0) ∧
      (good →
        (kind = 0 → xb = 0 → sets s []) ∧ (kind = 0 → xb ≠ 0 → Raises (.prodl a b) s codeProt 0) ∧
        (kind = 1 → xb = 0 ∨ 2 ^ 48 ≤ xb → Raises (.prodl a b) s codeProt 0) ∧
        (kind = 1 → xb < 2 ^ 48 → xb % 2 = 1 → Raises (.prodl a b) s codeAlign xb) ∧
        (kind = 1 → xb ≠ 0 → xb < 2 ^ 48 → xb % 2 = 0 →
          (others.length < 4096 → sets s [⟨ta, tb, false, bits xa 39 28, xb⟩]) ∧
          (4096 ≤ others.length → Raises (.prodl a b) s codeProt 0)) ∧
        (kind = 2 → xb % 64 ≠ 0 → Raises (.prodl a b) s codeAlign xb) ∧
        (∀ r u, kind = 2 → xb % 64 = 0 → readTemplate s.who xb (decide (tb = 1)) s = .ok (r, u) →
          (r = none → Raises (.prodl a b) s codeProt xb) ∧
          (r ≠ none → others.length < 4096 → sets u [⟨ta, tb, true, bits xa 39 28, canonVa s.who xb⟩])))) ∧
    Writes (.bagcnt d) s d (BitVec.ofNat 64 (min ((c.bag cl).templates.length + (c.bag cl).tasks.length) (2 ^ 32 - 1)))

/-- The net's own events (R56, R256, R258, R259, R261, R268): a released node returns to its free list once its auxiliary
ports are WIRE or FREE; a completion link is made when its job is over, with the status that the job then had; a take visits
the node of the lower address first, and leaves a pair of which one is not live as it was; the net unit serves the head of the
template list, puts it back at the tail when it lacks nodes, and posts a fault record when a link fails or the template cannot
be read; and a core, or a cluster, ships part of its list to its smallest neighbour inside the rectangle, two or more below
it; the lists of a context that is not resident stay where they are (R323). The model's choices in it: logs 25, 26, 44, 52,
56, 65. -/
def Obligations.GraphEvents : Prop :=
  ∀ (s : State) (c : Ctx), let id := s.arg.ctx; let i := s.arg.i; s.ctx? id = some c →
    -- NREL_RETURN
    (∀ r w pa loc key, c.released[i]? = some r → s.nodeOf (.core id 0) id r.node w pa loc key →
      let done := ∀ p, 1 ≤ p → p ≤ bits (w 0) 51 50 → bits (w (p + 1)) 62 61 = 2 ∨ bits (w (p + 1)) 62 61 = 0
      let h' := bits (w 0) 51 41 * 2 ^ 41 + w 0 % 2 ^ 40
      (¬done → exec .nrelReturn s = .next s) ∧
      (done → exec .nrelReturn s =
        .next (((s.put (.core id 0) [(loc 0, 8)] (natToBytes 8 h')).modCtx id fun x =>
          { x with released := x.released.filter fun q => decide (q ≠ r) }).returnNode id r.net r.owner r.node))) ∧
    (∀ r at_, c.released[i]? = some r → returnStep (.core id 0) id r s = .error (.fault codePois at_ true 0) →
      exec .nrelReturn s = .next (s.countPoison id (if r.net then r.owner / 8 * 64 + r.owner % 8 * 4 else r.owner))) ∧
    -- COMPLETION_LINK
    (∀ l slot num word, ((s.setJob id l slot num word).ctx? id).map Ctx.links = some (c.links.map fun k =>
      if k.handle = (jobHandle l slot num).toNat ∧ k.status = none then { k with status := some word } else k)) ∧
    (∀ q, c.links[i]? = some q → let w0 : Who := .core id q.lcore
      (q.status = none → exec .completionLink s = .next s) ∧
      (∀ w pa loc key v word, q.status = some word → let st := word.toNat; s.nodeOf w0 id q.node w pa loc key →
        liveHeader (w 0) → bits (w 1) 62 61 = 0 → w 6 = 3 * 2 ^ 61 + v → v < 2 ^ 61 → bitOf (w 0) 38 = true →
        let u : State := s.setCtx id { c with links := c.links.eraseIdx i }
        let put (u : State) (loc : Loc) (x : Nat) : State := u.put w0 [(loc, 8)] (natToBytes 8 x)
        let owner := bits (w 0) 49 41
        exec .completionLink s = .next ((put (put (put u (loc 7) st) (loc 0) (w 0 - 2 ^ 38)) (loc 1) (w 6)).pushed c id
          (owner / 64 * 8 + owner % 32 / 4) q.node (bits (w 0) 63 52) owner (.imm v) 0))) ∧
    -- the take of a pair
    (∀ (w0 : Who) (pr : Pair) n x pa at_ key, s.nodeOf w0 id n x pa at_ key →
      let put (u : State) (loc : Loc) (v : Nat) : State := u.put w0 [(loc, 8)] (natToBytes 8 v)
      (pr.n1 = n → pr.other.isRight = true →
        (liveHeader (x 0) → takeStep w0 pr s = .ok (true, put s (at_ 0) (x 0 + 2 ^ 39))) ∧
        (¬liveHeader (x 0) → takeStep w0 pr s = .ok (false, s))) ∧
      (∀ m y pb at' key', pr.n1 = n ∧ pr.other = .inl m ∨ pr.n1 = m ∧ pr.other = .inl n → n < m →
        s.nodeOf w0 id m y pb at' key' → (pa + 64 ≤ pb ∨ pb + 64 ≤ pa) →
        (¬liveHeader (x 0) → takeStep w0 pr s = .ok (false, s)) ∧
        (liveHeader (x 0) → ¬liveHeader (y 0) →
          takeStep w0 pr s = .ok (false, put (put s (at_ 0) (x 0 + 2 ^ 39)) (at_ 0) (x 0))) ∧
        (liveHeader (x 0) → liveHeader (y 0) →
          takeStep w0 pr s = .ok (true, put (put s (at_ 0) (x 0 + 2 ^ 39)) (at' 0) (y 0 + 2 ^ 39))))) ∧
    -- TEMPLATE_INSTANTIATE
    ((c.bag i).templates = [] ∨ c.resident = false → exec .templateInstantiate s = .next s) ∧
    (∀ p rest, c.resident = true → (c.bag i).templates = p :: rest → let w : Who := .core id (Config.coreOf i 0)
      let u := s.modBag id i fun b => { b with templates := b.templates.tail }
      (∀ u', readTemplate w p.prod.addr p.other.isRight u = .ok (none, u') → exec .templateInstantiate s =
        .next (u'.postFault id (u'.ownerOf w p.n1) 0 4 codeProt 0 p.n1 p.endWord 0)) ∧
      (∀ code at_ pois num, code ≠ codePage → code ≠ codeRes →
        readTemplate w p.prod.addr p.other.isRight u = .error (.fault code at_ pois num) → exec .templateInstantiate s =
          .next ((if code = codePois then u.countPoison id (u.ownerOf w p.n1) else u).postFault id
            (u.ownerOf w p.n1) 0 4 code 0 p.n1 p.endWord 0)) ∧
      (∀ t u1 nodes left u2 u3 h u4 u5 u6, readTemplate w p.prod.addr p.other.isRight u = .ok (some t, u1) →
        (∀ u', allocNodes id ((assocGet c.netFree i).getD []) t.nodes.length u1 = .ok (none, u') → exec .templateInstantiate s =
          .next ((u1.setErr id (u1.ownerOf w p.n1) errNode).modBag id i fun b => { b with templates := b.templates ++ [p] })) ∧
        (allocNodes id ((assocGet c.netFree i).getD []) t.nodes.length u1 = .ok (some (nodes, left), u2) →
        (takeStep w p u2 = .ok (false, u3) → exec .templateInstantiate s =
          .next ((u3.modCtx id fun x => { x with netFree := assocPut x.netFree i (nodes ++ left) }).setErr id
            ((u3.modCtx id fun x => { x with netFree := assocPut x.netFree i (nodes ++ left) }).ownerOf w p.n1) errLink)) ∧
        (takeStep w p u2 = .ok (true, u3) →
          nodeGet w p.n1 (u3.modCtx id fun x => { x with netFree := assocPut x.netFree i left }) = .ok (h, u4) →
          writeNodes w p (bits h 49 41) (nodes.zip t.nodes) u4 = .ok ((), u5) →
          (makeLinks w id i nodes p t.links u5 = .ok (none, u6) → exec .templateInstantiate s =
            .next (match p.other with
              | .inl n => (u6.release id p.n1 true i).release id n true i
              | .inr _ => u6.release id p.n1 true i)) ∧
          (∀ code, makeLinks w id i nodes p t.links u5 = .ok (some code, u6) → exec .templateInstantiate s =
            .next ((if code = codePois then u6.countPoison id (u6.ownerOf w p.n1) else u6).postFault id
              (u6.ownerOf w p.n1) 0 4 code 0 p.n1 p.endWord 0)))))) ∧
    (∀ (w0 : Who) (pr : Pair) nodes v rest x pa at_ key, s.nodeOf w0 id pr.n1 x pa at_ key → bitOf (x 0) 40 = true →
      bits v 31 30 = 1 → bits (x 0) 51 50 < bits v 17 16 → makeLinks w0 id i nodes pr (v :: rest) s = .ok (some codeProt, s)) ∧
    (∀ (w0 : Who) nodes (pr : Pair) u, makeLinks w0 id i nodes pr [] u = .ok (none, u)) ∧
    (∀ (w0 : Who) nodes (pr : Pair) v rest u n u', linkEnds w0 id i (codeWord nodes pr (bits v 31 16))
      (codeWord nodes pr (bits v 15 0)) u = .ok (n, u') →
      makeLinks w0 id i nodes pr (v :: rest) u = makeLinks w0 id i nodes pr rest u') ∧
    -- levelling
    (let k := c.core i; let count (n : Nat) : Nat := (c.core n).work.length
      let r0 := bits k.orgn.toNat 8 5; let c0 := bits k.orgn.toNat 4 0
      let h := bits k.rsz.toNat 15 8; let wd := bits k.rsz.toNat 7 0
      let inside (r q : Nat) : Prop := r0 ≤ r ∧ r < r0 + h ∧ c0 ≤ q ∧ q < c0 + wd
      (k.launched = false ∨ c.resident = false → exec .workListLevelling s = .next s) ∧
      (∀ m, k.launched = true → c.resident = true → i < 512 → c0 + wd ≤ 32 →
        ((m + 32 = i ∧ inside (m / 32) (m % 32)) ∨ (m = i + 1 ∧ m % 32 ≠ 0 ∧ inside (m / 32) (m % 32)) ∨
          (m = i + 32 ∧ inside (m / 32) (m % 32)) ∨ (m + 1 = i ∧ i % 32 ≠ 0 ∧ inside (m / 32) (m % 32))) →
        (∀ n, n + 32 = i ∨ (n = i + 1 ∧ n % 32 ≠ 0) ∨ n = i + 32 ∨ (n + 1 = i ∧ i % 32 ≠ 0) →
          inside (n / 32) (n % 32) → n ≠ m → count m < count n) →
        let ship := if count m + 2 ≤ count i then min 32 ((count i - count m) / 2) else 0
        ∃ t, exec .workListLevelling s = .next t ∧
          (t.lcore id i).work = k.work.take (count i - ship) ∧
          (t.lcore id m).work = k.work.drop (count i - ship) ++ (c.core m).work ∧
          ∀ n, n ≠ i → n ≠ m → t.lcore id n = s.lcore id n)) ∧
    (let k := c.core (Config.coreOf i 0); let count (n : Nat) : Nat := (c.bag n).tasks.length
      let inside (r q : Nat) : Bool := decide (r < 8) && clusterIn k.orgn.toNat k.rsz.toNat r q
      (k.launched = false ∨ c.resident = false → exec .bagLevelling s = .next s) ∧
      (∀ m, k.launched = true → c.resident = true → smallest count (neighbours 8 inside i) = some m → m ≠ i →
        let ship := if count m + 2 ≤ count i then min 32 ((count i - count m) / 2) else 0
        let pairs := (c.bag i).tasks
        ∃ t c', exec .bagLevelling s = .next t ∧ t.ctx? id = some c' ∧ (c'.bag i).tasks = pairs.take (count i - ship) ∧
          (c'.bag m).tasks = (c.bag m).tasks ++ pairs.drop (count i - ship) ∧ ∀ n, n ≠ i → n ≠ m → c'.bag n = c.bag n))

/-! ## KV pool, prefix tree, sequence records, masks, die and logit queues, lattices, token rings -/

/-- PFXL, PFXI, PFXR, KVA, KVH, KVRH and MSKT (R271 to R291): without a pool all but MSKT raise PROT; a lookup counts a
reference for each block that matches, in order; an insert takes its reference before it makes room; references are dropped in
array order, as many of a page as its handles in the array, no more than there are; the node of the oldest stamp that may go
is evicted for a new one, which is stamped as a matched one is; an append writes the row of position len, into the page of the
entry or a fresh one, and the entry when its page changes; an append to a shared page enters the prefix unit's queue as a
pending holder, and ends there with the copy, the entry, the row and the counts; a KVA or KVH on a record with a copy under
way waits; a page that the pool or a copy needs is asked for in the slot's name, and kept for it, and one that cannot be had
ends the KVA with its record and a failure; commit, query and failures are as the form says, free slots counted below zero
too; a page whose counts fall to 0 goes to the tail of the reclaim list, and one referenced again leaves it; the hash, the
home and the live positions of a block; the ring with its stubs; the mask bit of every element, with code 11 recorded; and
poison, raised where it traps, else counted, carried, or answered by PROT where a record or an entry depends on it. The
model's choices in it: logs 26, 40, 44. -/
def Obligations.KvInstructions : Prop :=
  -- the prefix unit's steps and the ring's lookup
  (∀ (c : Ctx) (parent : Nat) (h : Word) (rest : List Word),
    lookup c parent [] = (c, [], false) ∧
    (c.child parent h = none → lookup c parent (h :: rest) = (c, [], false)) ∧
    (∀ n, c.child parent h = some n → let i := c.pageOf n.handle
      (0xFFFF ≤ c.rc i → lookup c parent (h :: rest) = (c, [], true)) ∧
      (c.rc i < 0xFFFF → let r := lookup ((c.addRef i).stamp n.id) n.id rest
        lookup c parent (h :: rest) = (r.1, n.handle :: r.2.1, r.2.2)))) ∧
  (∀ (c : Ctx) (path : List Nat) (done : Nat) (h : Word) (handle : Nat) (rest : List (Word × Nat)),
    insertPath c path done [] = (c, done, false) ∧
    (∀ n, c.child (path.headD 0) h = some n →
      insertPath c path done ((h, handle) :: rest) = insertPath (c.stamp n.id) (n.id :: path) (done + 1) rest) ∧
    (c.child (path.headD 0) h = none →
      (c.poolIndex handle = none → insertPath c path done ((h, handle) :: rest) = (c, done, false)) ∧
      (∀ i, c.poolIndex handle = some i →
        (c.rc i + c.pc i = 0 → insertPath c path done ((h, handle) :: rest) = (c, done, false)) ∧
        (c.rc i = 0xFFFF → insertPath c path done ((h, handle) :: rest) = (c, done, true)) ∧
        (c.rc i + c.pc i ≠ 0 → c.rc i ≠ 0xFFFF →
          ((c.addRef i).makeRoom path = none →
            insertPath c path done ((h, handle) :: rest) = ((c.addRef i).dropRef i, done, false)) ∧
          (∀ c2, (c.addRef i).makeRoom path = some c2 → let made := c2.addChild (path.headD 0) h handle
            insertPath c path done ((h, handle) :: rest) = insertPath made.1 (made.2 :: path) (done + 1) rest))))) ∧
  (∀ (ps : List (Nat × Nat)) (h : Nat), homeOf [] h = none ∧ ∀ p ∈ ps,
    (h ≤ p.1 → (∀ q ∈ ps, h ≤ q.1 → q = p ∨ p.1 < q.1) → homeOf ps h = some p.2) ∧
    ((∀ q ∈ ps, q.1 < h ∧ (q = p ∨ p.1 < q.1)) → homeOf ps h = some p.2)) ∧
  (∀ (d a b : Reg) (pd : PReg) (s : State) (c : Ctx), s.ctx? s.act.ctx = some c →
    let id := s.act.ctx; let l := s.act.lcore; let xa := (s.x a).toNat; let xb := (s.x b).toNat; let w := s.who
    let failing (u : State) (bad : Bool) (bit : Nat) : State := if bad then u.setErr id l bit else u
    let array (n : Nat) (bs : List Byte) : List Word :=
      (List.range n).map fun k => BitVec.ofNat 64 (bytesToNat ((bs.drop (8 * k)).take 8))
    -- the hub's firmware is asked for a page once, in the name of the slot whose KVA needs it
    let asks (u : State) (va : Nat) (slot : SlotId) : State :=
      if u.pages.any fun p => decide (p.ctx = id) && decide (p.va = va) && decide (p.who = .slot slot) then u
      else { u with pages := u.pages ++ [⟨id, va, .slot slot, 0, false⟩] }
    (c.kv.npool = 0 → ∀ i ∈ [Instr.pfxl d a b, .pfxi d a b, .pfxr a b, .kva d a b, .kvh d a, .kvrh a b],
      Raises i s codeProt 0) ∧
    (c.kv.npool ≠ 0 →
      -- PFXL, PFXI
      (let n := bits xb 63 52; let out := bits xb 47 0
        (xa % 8 ≠ 0 → Raises (.pfxl d a b) s codeAlign xa ∧ Raises (.pfxi d a b) s codeAlign xa) ∧
        (xa % 8 = 0 → n = 0 ∨ 256 < n → Raises (.pfxl d a b) s codeProt 0 ∧ Raises (.pfxi d a b) s codeProt 0) ∧
        (xa % 8 = 0 → 1 ≤ n → n ≤ 256 → out % 8 ≠ 0 → Raises (.pfxl d a b) s codeAlign out ∧ Raises (.pfxi d a b) s codeAlign out) ∧
        (xa % 8 = 0 → 1 ≤ n → n ≤ 256 → out % 8 = 0 → 2 ^ 48 ≤ xa ∨ bits xb 51 48 ≠ 0 →
          Raises (.pfxl d a b) s codeProt 0 ∧ Raises (.pfxi d a b) s codeProt 0) ∧
        (∀ ls, xa % 8 = 0 → xa < 2 ^ 48 → 1 ≤ n → n ≤ 256 → out % 8 = 0 → bits xb 51 48 = 0 →
          checkRange w .load xa (8 * n) s = .ok (ls, s) → let hs := array n (s.readLocs ls)
          (∀ code va, checkRange w .store out (8 * n) s = .error (.fault code va false 0) → Raises (.pfxl d a b) s code va) ∧
          (∀ code va, checkRange w .load out (8 * n) s = .error (.fault code va false 0) → Raises (.pfxi d a b) s code va) ∧
          (∀ out_ s2 ls2 v2 c0, checkRange w .store out (8 * n) s = .ok (out_, s) → (s.loaded ls).ctx? id = some c0 →
            let r := lookup c0 0 hs; let u := failing ((s.loaded ls).setCtx id r.1) r.2.2 errKvref
            TrapsOn (.pfxl d a b) s xa ls ∧
            ((r.2.1 = [] → s2 = u) →
              (r.2.1 ≠ [] → checkRange w .store out (8 * r.2.1.length) u = .ok (ls2, v2) ∧
                s2 = v2.stored out (r.2.1.flatMap (natToBytes 8)) ls2) →
              ∀ s3, fireTriggers id (fun t => decide (t.kind = 2) && decide (t.threshold ≤ n - r.2.1.length)) trigIndexes
                (s2.setX d (BitVec.ofNat 64 r.2.1.length)) = .ok ((), s3) →
              (s.anyPoison ls = true → s.trapsPoison = false) → exec (.pfxl d a b) s = .next (s3.advance 4))) ∧
          (∀ in_ c0, checkRange w .load out (8 * n) s = .ok (in_, s) → ((s.loaded ls).loaded in_).ctx? id = some c0 →
            let r := insertPath c0 [] 0 (hs.zip ((array n (s.readLocs in_)).map BitVec.toNat))
            TrapsOn (.pfxi d a b) s xa ls ∧ (s.anyPoison ls = false → TrapsOn (.pfxi d a b) s out in_) ∧
            ((s.anyPoison ls = true ∨ s.anyPoison in_ = true → s.trapsPoison = false) →
            exec (.pfxi d a b) s = .next (((failing (((s.loaded ls).loaded in_).setCtx id r.1) r.2.2 errKvref).setX d
              (BitVec.ofNat 64 r.2.1)).advance 4))))) ∧
      -- PFXR
      (xa % 8 ≠ 0 → Raises (.pfxr a b) s codeAlign xa) ∧
      (xa % 8 = 0 → xb = 0 ∨ 256 < xb → Raises (.pfxr a b) s codeProt 0) ∧
      (∀ ls c0, xa % 8 = 0 → 1 ≤ xb → xb ≤ 256 → checkRange w .load xa (8 * xb) s = .ok (ls, s) →
        (s.loaded ls).ctx? id = some c0 → let r := dropRefs c0 ((array xb (s.readLocs ls)).map BitVec.toNat)
        TrapsOn (.pfxr a b) s xa ls ∧ ((s.anyPoison ls = true → s.trapsPoison = false) →
          exec (.pfxr a b) s = .next ((failing ((s.loaded ls).setCtx id r.1) r.2 errKvref).advance 4))) ∧
      -- KVA
      (xa % 64 ≠ 0 → Raises (.kva d a b) s codeAlign xa) ∧
      (xa % 64 = 0 → s.recordBusy w xa = true → exec (.kva d a b) s = .next s) ∧
      (∀ ls, xa % 64 = 0 → s.recordBusy w xa = false → checkRange w .atomic xa 64 s = .ok (ls, s) → s.anyPoison ls = true →
        exec (.kva d a b) s = .next (s.takeFault 4 (if s.trapsPoison then codePois else codeProt) xa s.trapsPoison 0)) ∧
      (∀ ls, xa % 64 = 0 → s.recordBusy w xa = false → checkRange w .atomic xa 64 s = .ok (ls, s) → s.anyPoison ls = false →
        let g (k : Nat) : Nat := bytesToNat (((s.readLocs ls).drop (8 * k)).take 8); let tok := 2 ^ c.kv.lb
        let len := g 0 / 2 ^ 32; let commit := g 0 % 2 ^ 32; let tbl := bits (g 1) 47 3 * 8; let npg := g 2 / 2 ^ 32
        let rcap := g 2 % 2 ^ 32; let win := g 3 % 2 ^ 32; let row := 2 ^ (16 - c.kv.lb)
        let good := commit ≤ len ∧ g 1 % 8 = 0 ∧ 1 ≤ npg ∧ npg ≤ 65536 ∧ rcap % tok = 0 ∧ rcap ≤ npg * tok ∧
          g 3 < 2 ^ 32 ∧ (if rcap = 0 then win = 0 else win < rcap) ∧ g 4 = 0 ∧ g 5 = 0 ∧ g 6 = 0 ∧ g 7 = 0
        let free (len commit : Nat) : Int := if rcap ≠ 0 then rcap - ((len : Int) - (if win < commit then commit - win else 0 : Nat))
          else (npg * tok : Nat) - (len : Int)
        let slot := if rcap ≠ 0 then len % rcap else len
        (¬good → Raises (.kva d a b) s codeProt xa) ∧
        (good →
          (bits xb 63 62 = 3 → xb % 2 ^ 62 = 0 → Writes (.kva d a b) s d (BitVec.ofInt 64 (free len commit))) ∧
          (bits xb 63 62 = 3 → xb % 2 ^ 62 ≠ 0 → Raises (.kva d a b) s codeProt 0) ∧
          (bits xb 63 62 = 2 → bits xb 61 32 ≠ 0 → Raises (.kva d a b) s codeProt 0) ∧
          (bits xb 63 62 = 2 → bits xb 61 32 = 0 → let k := xb % 2 ^ 32
            (k < commit ∨ len < k → Writes (.kva d a b) s d (BitVec.ofNat 64 (2 ^ 63 + 4))) ∧
            (∀ at_ u, commit ≤ k → k ≤ len → checkRange w .store xa 8 s = .ok (at_, u) → exec (.kva d a b) s =
              .next (((u.put w at_ (natToBytes 8 (k * 2 ^ 32 + k))).setX d (BitVec.ofInt 64 (free k k))).advance 4))) ∧
          (xb < 2 ^ 63 → bits xb 62 48 ≠ 0 ∨ bits xb 3 1 ≠ 0 → Raises (.kva d a b) s codeProt 0) ∧
          (xb < 2 ^ 48 → bits xb 3 1 = 0 → let src := bits xb 47 4 * 16; let tva := tbl + 8 * (slot / tok)
            (∀ from_, npg ≤ slot / tok → checkRange w .load src row s = .ok (from_, s) →
              Writes (.kva d a b) s d (BitVec.ofNat 64 (2 ^ 63 + 1))) ∧
            (∀ from_ at_, slot / tok < npg → checkRange w .load src row s = .ok (from_, s) →
              checkRange w .atomic tva 8 s = .ok (at_, s) → (s.anyPoison at_ = true → exec (.kva d a b) s =
                .next (s.takeFault 4 (if s.trapsPoison then codePois else codeProt) tva s.trapsPoison 0)) ∧ (s.anyPoison at_ = false →
              let v := bytesToNat (s.readLocs at_); let old := if v = 0 then none else c.poolIndex v
              let shared (i : Nat) : Prop := 1 < c.rc i + c.pc i
              (v ≠ 0 → old = none → Raises (.kva d a b) s codeProt tva) ∧
              (v = 0 ∨ old ≠ none → free len commit < 1 → Writes (.kva d a b) s d (BitVec.ofNat 64 (2 ^ 63 + 1))) ∧
              (1 ≤ free len commit → (v = 0 ∨ ∃ i, old = some i ∧ shared i) → c.allocPage = none →
                Writes (.kva d a b) s d (BitVec.ofNat 64 (2 ^ 63 + 2))) ∧
              (∀ n c1 v1 at2 v2 t2 at3 v3 met, 1 ≤ free len commit →
                (v = 0 ∧ c.allocPage = some (n, c1) ∨ old = some n ∧ ¬shared n ∧ c1 = c) →
                (met = false ∧ Copies w (c.poolVa n + slot % tok * row) src row s v1 ∨
                  met = true ∧ carry w (c.poolVa n + slot % tok * row) src row s = .ok (true, v1)) →
                let t0 := v1.modCtx id fun x =>
                  { x with kvRc := c1.kvRc, kvPc := c1.kvPc, kvFresh := c1.kvFresh, kvTail := c1.kvTail }
                let t1 := if met then t0.countPoison id l else t0
                (if old = some n then t2 = t1
                  else checkRange w .store tva 8 t1 = .ok (at2, v2) ∧ t2 = v2.put w at2 (natToBytes 8 (c.poolVa n))) →
                checkRange w .store xa 8 t2 = .ok (at3, v3) → exec (.kva d a b) s =
                  .next (((v3.put w at3 (natToBytes 8 ((len + 1) * 2 ^ 32 + (if bitOf xb 0 then len + 1 else commit)))).setX
                    d (BitVec.ofNat 64 len)).advance 4)) ∧
              (∀ n c1 va p num, 1 ≤ free len commit →
                (v = 0 ∧ c.allocPage = some (n, c1) ∨ old = some n ∧ ¬shared n) →
                carry w (c.poolVa n + slot % tok * row) src row s = .error (.fault codePage va p num) →
                let gone : PageFault := ⟨id, va / 2 ^ 16, .noMap, 0, false⟩
                (gone ∉ s.pages → exec (.kva d a b) s = .next (asks s va s.cur)) ∧
                (gone ∈ s.pages → exec (.kva d a b) s = .next ((({ s with pages := s.pages.erase gone }.postFault id l 0 5 codePage 0
                  (va / 2 ^ 16 * 2 ^ 16) 0 0).setX d (BitVec.ofNat 64 (2 ^ 63 + 3))).advance 4))) ∧
              (∀ i n c1 page u into_ t, 1 ≤ free len commit → old = some i → shared i → c.allocPage = some (n, c1) →
                checkRange w .load (c.poolVa i) (2 ^ 16) s = .ok (page, u) →
                checkRange w .store (c.poolVa n) (2 ^ 16) u = .ok (into_, t) → let c2 := c1.setCounts i (c1.rc i) (c1.pc i + 1)
                exec (.kva d a b) s = .next { t.modCtx id fun x =>
                    { x with kvRc := c2.kvRc, kvPc := c2.kvPc, kvFresh := c2.kvFresh, kvTail := c2.kvTail } with
                  copies := t.copies ++ [⟨s.cur, id, d, canonVa w xa, i, n, tva, src, slot % tok * row, len,
                    bitOf xb 0⟩] })))))) ∧
      -- poison that a copy carries
      (∀ dst src from_ u into_ t, checkRange w .load src 64 s = .ok ([from_], u) → u.anyPoison [from_] = true →
        checkRange w .store dst 64 u = .ok ([into_], t) → into_.1.discarded = false → ∃ v, carry w dst src 64 s = .ok (true, v) ∧
          v.anyPoison [into_] = true) ∧
      -- the end of a copy
      (∀ k rest v1 at2 v2 v3 at3 v4 at4 v5 v6, s.copies = k :: rest → k.ctx = id →
        Copies w (c.poolVa k.new) (c.poolVa k.old) (2 ^ 16) s v1 → checkRange w .store k.entry 8 v1 = .ok (at2, v2) →
        Copies w (c.poolVa k.new + k.row) k.src (2 ^ (16 - c.kv.lb)) (v2.put w at2 (natToBytes 8 (c.poolVa k.new))) v3 →
        checkRange w .store (k.record + 4) 4 v3 = .ok (at3, v4) → let lenPut := v4.put w at3 (natToBytes 4 (k.len + 1))
        (k.commit = false → v6 = lenPut) →
        (k.commit = true → checkRange w .store k.record 4 lenPut = .ok (at4, v5) ∧ v6 = v5.put w at4 (natToBytes 4 (k.len + 1))) →
        let t := ({ v6.modCtx id fun x => x.setCounts k.old (x.rc k.old - 1) (x.pc k.old - 1) with copies := rest }.setX k.d
          (BitVec.ofNat 64 k.len)).advance 4
        s.copyStep k = if c.resident then t else t.slice t.act.pc) ∧
      (∀ k, s.copies.head? ≠ some k → k.ctx = id → s.copyStep k = s) ∧
      (∀ k rest code va p num, s.copies = k :: rest → k.ctx = id → copyWrites w c k s = .error (.fault code va p num) →
        let gone : PageFault := ⟨id, va / 2 ^ 16, .noMap, 0, false⟩
        let given (u : State) : State := ((({ u.modCtx id fun x =>
            (x.setCounts k.old (x.rc k.old) (x.pc k.old - 1)).setCounts k.new 0 0 with copies := rest }).postFault id l 0 5 code 0
          (va / 2 ^ 16 * 2 ^ 16) 0 0).setX k.d (BitVec.ofNat 64 (2 ^ 63 + 3))).advance 4
        let ended (u : State) : State := if c.resident then given u else (given u).slice (given u).act.pc
        (code = codePage → gone ∉ s.pages → s.copyStep k = asks s va k.slot) ∧
        (code = codePage → gone ∈ s.pages → s.copyStep k = ended { s with pages := s.pages.erase gone }) ∧
        (code ≠ codePage → code ≠ codeRes → s.copyStep k = ended s)) ∧
      -- KVH
      (let va := xa % 2 ^ 48; let bl := bits xa 63 48
        (va % 64 ≠ 0 → Raises (.kvh d a) s codeAlign va) ∧
        (va % 64 = 0 → s.recordBusy w va = true → exec (.kvh d a) s = .next s) ∧
        (∀ ls, va % 64 = 0 → s.recordBusy w va = false → checkRange w .load va 64 s = .ok (ls, s) → s.anyPoison ls = true →
          exec (.kvh d a) s = .next (s.takeFault 4 (if s.trapsPoison then codePois else codeProt) va s.trapsPoison 0)) ∧
        (∀ ls g r, va % 64 = 0 → s.recordBusy w va = false → checkRange w .load va 64 s = .ok (ls, s) → s.anyPoison ls = false →
          g = (List.range 8).map (fun k => bytesToNat (((s.readLocs ls).drop (8 * k)).take 8)) →
          (SeqRecord.ofWords (2 ^ c.kv.lb) g = none → Raises (.kvh d a) s codeProt va) ∧
          (SeqRecord.ofWords (2 ^ c.kv.lb) g = some r → let tok := 2 ^ c.kv.lb
            let live := min (tok * bl + tok) r.len - max (tok * bl) (if r.rcap ≠ 0 ∧ r.win < r.commit then r.commit - r.win
              else 0)
            let home := homeOf (c.ring.map Prod.snd) (kvhash r.seq bl)
            let word (page : Nat) : Word := BitVec.ofNat 64
              (home.getD 0 * 2 ^ 55 + (if home = none then 2 ^ 54 else 0) + page * 2 ^ 16 + live)
            (live = 0 → Writes (.kvh d a) s d (word 0)) ∧
            (∀ at_, let tva := r.tbl + 8 * (if r.rcap ≠ 0 then bl % (r.rcap / tok) else bl)
              live ≠ 0 → checkRange w .load tva 8 s = .ok (at_, s) →
              (s.anyPoison at_ = true →
                exec (.kvh d a) s = .next (s.takeFault 4 (if s.trapsPoison then codePois else codeProt) tva s.trapsPoison 0)) ∧
              (s.anyPoison at_ = false → Writes (.kvh d a) s d (word (bits (bytesToNat (s.readLocs at_)) 47 16))))))) ∧
      -- KVRH
      (let i := bits xa 9 0; let pos := xa / 2 ^ 32; let owner := bits xb 8 0
        let prev (p : Nat) : Nat := prevPoint c.points p
        let stub (on : Nat) (st : Stub) : State :=
          let old := (c.core on).stubs
          failing (s.modCore id on fun k => { k with stubs := (st :: k.stubs).take 16 }) (decide (16 ≤ old.length)) errKvst
        let sets (u : State) (ring : List (Nat × Nat × Nat)) : Prop := exec (.kvrh a b) s =
          .next ((u.modCtx id fun x => { x with ring := ring }).advance 4)
        let others := (c.ring.filter fun p => decide (p.1 ≠ i)).map Prod.snd;
        (2 ^ 63 ≤ xb → bits xb 62 9 = 0 → xa = 0 → exec (.kvrh a b) s =
          .next ((s.modCore id owner fun k => { k with stubs := [] }).advance 4)) ∧
        (2 ^ 63 ≤ xb → bits xb 62 9 ≠ 0 ∨ xa ≠ 0 → Raises (.kvrh a b) s codeProt 0) ∧
        (xb < 2 ^ 62 → bits xb 61 9 ≠ 0 ∨ bits xa 31 10 ≠ 0 → Raises (.kvrh a b) s codeProt 0) ∧
        (xb < 2 ^ 9 → bits xa 31 10 = 0 →
          (∀ p o, assocGet c.ring i = some (p, o) →
            (p ≠ pos → Raises (.kvrh a b) s codeProt 0) ∧
            (p = pos → o = owner → sets s (assocPut c.ring i (pos, owner))) ∧
            (p = pos → o ≠ owner → sets (stub o ⟨prev pos, pos, owner⟩) (assocPut c.ring i (pos, owner)))) ∧
          (assocGet c.ring i = none →
            ((c.points.any fun p => decide (p.1 = pos)) = true → Raises (.kvrh a b) s codeProt 0) ∧
            ((c.points.any fun p => decide (p.1 = pos)) = false →
              (homeOf c.points pos = none ∨ homeOf c.points pos = some owner →
                sets s (assocPut c.ring i (pos, owner))) ∧
              (∀ o, homeOf c.points pos = some o → o ≠ owner →
                sets (stub o ⟨prev pos, pos, owner⟩) (assocPut c.ring i (pos, owner)))))) ∧
        (bits xb 63 62 = 1 → xb ≠ 2 ^ 62 ∨ 2 ^ 10 ≤ xa ∨ assocGet c.ring i = none → Raises (.kvrh a b) s codeProt 0) ∧
        (∀ p o, xb = 2 ^ 62 → xa < 2 ^ 10 → assocGet c.ring i = some (p, o) →
          (homeOf others p = none ∨ homeOf others p = some o → sets s (assocDel c.ring i)) ∧
          (∀ q, homeOf others p = some q → q ≠ o → sets (stub o ⟨prev p, p, q⟩) (assocDel c.ring i))))) ∧
    -- MSKT
    (xa % 32 ≠ 0 → Raises (.mskt pd a b) s codeAlign xa) ∧
    (xa % 32 = 0 → 2 ^ 48 ≤ xa → Raises (.mskt pd a b) s codeProt 0) ∧
    (∀ ls, xa % 32 = 0 → xa < 2 ^ 48 → checkRange w .load xa 32 s = .ok (ls, s) → s.anyPoison ls = false →
      MaskDesc.ofWords ((List.range 4).map fun k => bytesToNat (((s.readLocs ls).drop (8 * k)).take 8)) = none →
      Raises (.mskt pd a b) s codeProt xa) ∧
    (∀ ls m (rd : Nat → Nat), xa % 32 = 0 → xa < 2 ^ 48 → checkRange w .load xa 32 s = .ok (ls, s) →
      s.anyPoison ls = false →
      MaskDesc.ofWords ((List.range 4).map fun k => bytesToNat (((s.readLocs ls).drop (8 * k)).take 8)) = some m →
      let code (t : Nat) : Nat := rd (m.map + t / 4) / 2 ^ (2 * (t % 4)) % 4
      let base (i : Nat) : Nat := bytesToNat ((List.range 4).map fun k => BitVec.ofNat 8 (rd (m.bases + 4 * i + k)))
      let before (i j : Nat) : Nat := ((List.range j).filter fun q => decide (2 ≤ code (i * m.cols + q))).length
      (∀ t < m.rows * m.cols, rd (m.map + t / 4) < 256 ∧ maskNat (m.map + t / 4) 1 s = .ok ((rd (m.map + t / 4), .none), s)) →
      (∀ i < m.rows, maskNat (m.bases + 4 * i) 4 s = .ok ((base i, .none), s)) →
      (∀ i < m.rows, ∀ j < m.cols, 2 ≤ code (i * m.cols + j) → ∀ k < 512, let at_ := m.bitmaps + 512 * (base i + before i j) + k
        maskNat at_ 1 s = .ok ((rd at_, .none), s)) →
      (2 ^ 58 ≤ xb → Raises (.mskt pd a b) s codeProt 0) ∧
      (xb < 2 ^ 58 →
        let n := 8 * 2 ^ bits xb 57 56; let r := xb % 2 ^ 32
        let bit (e : Nat) : Bool := let q := bits xb 55 32 + e; let i := r / 64; let j := q / 64
          if m.rows ≤ i ∨ m.cols ≤ j then false
          else if code (i * m.cols + j) < 2 then decide (code (i * m.cols + j) = 1)
          else bitOf (rd (m.bitmaps + 512 * (base i + before i j) + (64 * (r % 64) + q % 64) / 8)) (q % 8)
        ∃ t, exec (.mskt pd a b) s = .next t ∧ t.act.pc = s.act.pc + 4 ∧ t.mem = s.mem ∧
          t.act = { s.act with p := t.act.p, pc := t.act.pc, retired := t.act.retired, pinned := t.act.pinned } ∧
          (∀ q, q ≠ pd → t.preg q = s.preg q) ∧
          (pd ≠ 0 → ∀ k < s.vw / 8, bitOf (t.preg pd) k = (decide (k % (n / 8) = 0) && bit (k / (n / 8)))) ∧
          let three := ∃ e < s.vw / n, let q := bits xb 55 32 + e; let i := r / 64; let j := q / 64
            i < m.rows ∧ j < m.cols ∧ (code (i * m.cols + j) = 3 ∨ (code (i * m.cols + j) = 2 ∧ ∃ j' < j, code (i * m.cols + j') = 3))
          (three → t.ctxs = (s.setErr id l errMask).ctxs) ∧ (¬three → t.ctxs = s.ctxs))) ∧
    (∀ ls, xa % 32 = 0 → xa < 2 ^ 48 → checkRange w .load xa 32 s = .ok (ls, s) → TrapsOn (.mskt pd a b) s xa ls)) ∧
  -- the references that PFXR drops, in the order of its array
  (∀ (c : Ctx) (h : Nat) (rest : List Nat), dropRefs c [] = (c, false) ∧ dropRefs c (0 :: rest) = dropRefs c rest ∧
    (h ≠ 0 → c.poolIndex h = none → dropRefs c (h :: rest) = ((dropRefs c rest).1, true)) ∧
    (∀ i, h ≠ 0 → c.poolIndex h = some i →
      (c.rc i = 0 → dropRefs c (h :: rest) = ((dropRefs c rest).1, true)) ∧
      (c.rc i ≠ 0 → dropRefs c (h :: rest) = dropRefs (c.setCounts i (c.rc i - 1) (c.pc i)) rest))) ∧
  (∀ (c : Ctx) (hs : List Nat), let r := dropRefs c hs
    let named (i : Nat) : Nat := (hs.filter fun h => decide (h ≠ 0) && decide (c.poolIndex h = some i)).length
    (∀ i, r.1.rc i = c.rc i - named i ∧ r.1.pc i = c.pc i) ∧
    (r.2 = true ↔ (∃ h ∈ hs, h ≠ 0 ∧ c.poolIndex h = none) ∨ ∃ i, c.rc i < named i) ∧
    r.1 = { c with kvRc := r.1.kvRc, kvPc := r.1.kvPc, kvTail := r.1.kvTail }) ∧
  -- the nodes of the tree: a new one, the stamp of one matched, and the one evicted
  (∀ (c : Ctx) (parent handle id : Nat) (h : Word),
    (let r := c.addChild parent h handle;
      r.2 = c.treeStamp + 1 ∧ r.1 = { c with
        treeStamp := c.treeStamp + 1, tree := c.tree ++ [⟨c.treeStamp + 1, parent, h, handle, c.treeStamp + 1⟩] }) ∧
    (let u := c.stamp id;
      u = { c with treeStamp := c.treeStamp + 1, tree := u.tree } ∧ u.tree.length = c.tree.length ∧
      ∀ (k : Nat) (n : TreeNode), c.tree[k]? = some n → u.tree[k]? = some (if n.id = id then { n with stamp := c.treeStamp + 1 } else n))) ∧
  (∀ (c : Ctx) (path : List Nat), c.tree.length ≤ c.kv.tnodes →
    let parent := path.headD 0; let full := 16 ≤ (c.tree.filter fun n => decide (n.parent = parent)).length
    let may (n : TreeNode) : Prop := n ∈ c.tree ∧ (∀ m ∈ c.tree, m.parent ≠ n.id) ∧ n.id ∉ path ∧ (full → n.parent = parent)
    (¬full → c.tree.length < c.kv.tnodes → c.makeRoom path = some c) ∧
    (full ∨ c.tree.length = c.kv.tnodes →
      ((∀ n, ¬may n) → c.makeRoom path = none) ∧
      (∀ n i, may n → (∀ m, may m → m ≠ n → n.stamp < m.stamp) → c.poolIndex n.handle = some i → c.makeRoom path =
        some ({ c with tree := c.tree.filter fun m => decide (m.id ≠ n.id) }.setCounts i (c.rc i - 1) (c.pc i))))) ∧
  -- the hash and the points of the ring
  (∀ seq bl, seq < 2 ^ 16 → bl < 2 ^ 16 → kvhash seq bl < 2 ^ 32 ∧
    BitVec.ofNat 32 (kvhash seq bl) =
      (let k : BitVec 32 := BitVec.ofNat 16 seq ++ BitVec.ofNat 16 bl;
      let h1 := k * 0x9E3779B1; let h2 := h1 ^^^ (h1 >>> 16); let h3 := h2 * 0x85EBCA6B
      h3 ^^^ (h3 >>> 13))) ∧
  (∀ (ps : List (Nat × Nat)) (pos : Nat), ((∀ q ∈ ps, q.1 = pos) → prevPoint ps pos = pos) ∧ ∀ p ∈ ps,
    (p.1 < pos → (∀ q ∈ ps, q.1 < pos → q.1 ≤ p.1) → prevPoint ps pos = p.1) ∧
    (pos < p.1 → (∀ q ∈ ps, pos ≤ q.1 ∧ q.1 ≤ p.1) → prevPoint ps pos = p.1)) ∧
  -- the pool's counts
  (∀ (c : Ctx) (i rc pc : Nat), let c' := c.setCounts i rc pc
    c'.rc i = rc ∧ c'.pc i = pc ∧ (∀ k, k ≠ i → c'.rc k = c.rc k ∧ c'.pc k = c.pc k) ∧
    c'.kvTail = if rc + pc ≠ 0 then c.kvTail.filter (fun k => decide (k ≠ i))
      else if c.rc i + c.pc i ≠ 0 then c.kvTail ++ [i] else c.kvTail) ∧
  (∀ c : Ctx, (c.kvFresh < c.kv.npool →
      c.allocPage = some (c.kvFresh, { c with kvFresh := c.kvFresh + 1 }.setCounts c.kvFresh 1 0)) ∧
    (c.kv.npool ≤ c.kvFresh → (c.kvTail = [] → c.allocPage = none) ∧
      ∀ i rest, c.kvTail = i :: rest → c.allocPage = some (i, { c with kvTail := rest }.setCounts i 1 0)))

/-- LQP, LQC, DQS, DQR, LATX, TRPUB and the arrival of a die-queue entry (R294 to R306): a row is posted with one step of the
generator, given to the oldest waiter there, and claimed oldest first when nobody waits; an entry is sent unless 64 are there,
its floor discarding what is stale, and taken oldest first with the count of what was dropped; the rows of a lattice, one for
each path from a root, are written out, 64 at the most, with the rows from which each descends; the tokens of a step are
published when the ring has room, else counted; an entry that arrives stale is dropped and counted. -/
def Obligations.QueuesAndLattice : Prop :=
  (∀ (d a b : Reg) (s : State) (c : Ctx), s.ctx? s.act.ctx = some c →
    let id := s.act.ctx; let l := s.act.lcore; let xa := (s.x a).toNat; let xb := (s.x b).toNat; let w := s.who
    let q := coreDie s.cur.core
    let rows := (s.logits.filter fun r => decide (r.q = q)).length
    let buf := bits xa 47 6 * 64; let none_ : Word := BitVec.allOnes 64
    -- LQP
    (xa % 32 ≠ 0 → Raises (.lqp d a) s codeAlign xa) ∧ (xa % 32 = 0 → 2 ^ 48 ≤ xa → Raises (.lqp d a) s codeProt 0) ∧
    (∀ ls, xa % 32 = 0 → xa < 2 ^ 48 → checkRange w .load xa 32 s = .ok (ls, s) → s.anyPoison ls = false →
      let g (k : Nat) : Nat := bytesToNat (((s.readLocs ls).drop (8 * k)).take 8)
      let good := g 0 < 2 ^ 48 ∧ g 0 % (if bits (g 1) 33 32 = 0 then 4 else 2) = 0 ∧ g 1 < 2 ^ 48 ∧ bits (g 1) 35 34 = 0 ∧
        bits (g 1) 33 32 ≠ 3 ∧ 1 ≤ g 1 % 2 ^ 32 ∧ g 1 % 2 ^ 32 ≤ 2 ^ 24 ∧ g 2 / 2 ^ 32 ≤ 0x3F800000 ∧
        g 2 % 2 ^ 32 < 0x7F800000
      (¬good → Raises (.lqp d a) s codeProt 0) ∧
      (good → s.feature 1 = false → g 2 / 2 ^ 32 ≠ 0 → Raises (.lqp d a) s codeIll 0) ∧
      (good → s.feature 1 = true ∨ g 2 / 2 ^ 32 = 0 →
        (64 ≤ rows → Writes (.lqp d a) s d none_) ∧
        (rows < 64 →
          let gen := (s.gen).next; let k := tableGet c.posts q
          let row : LogitRow := ⟨q, id, (List.range 4).map fun i => BitVec.ofNat 64 (g i), gen.output.extractLsb' 0 64, l,
            s.cur.idx, k⟩
          let u := (s.modCore id l fun x => { x with gen := some gen }).modCtx id fun x =>
            { x with posts := assocPut x.posts q ((k + 1) % 2 ^ 32) }
          (c.waiting (onLogit q) = false →
            exec (.lqp d a) s = .next (({ u with logits := s.logits ++ [row] }.setX d (BitVec.ofNat 64 k)).advance 4)) ∧
          (∀ pre wt post, c.waits = pre ++ wt :: post → (∀ x ∈ pre, onLogit q x = true → x.got ≠ none) → onLogit q wt = true →
            wt.got = none → s.logits.find? (rowMine id q) = none → exec (.lqp d a) s =
              .next (((u.modCtx id fun x => { x with
                waits := pre ++ { wt with got := some (natToBytes 8 (BitVec.ofNat 64 k).toNat, row.bytes) } :: post }).setX d
                (BitVec.ofNat 64 k)).advance 4))))) ∧
    -- LQC
    (bits xa 63 48 ≠ 0 ∨ bits xa 5 0 ≠ 0 → Raises (.lqc d a) s codeProt 0) ∧
    (∀ ls s', bits xa 63 48 = 0 → bits xa 5 0 = 0 → checkRange w .store buf 64 s = .ok (ls, s') →
      (c.waiting (onLogit q) = true ∨ s.logits.find? (rowMine id q) = none →
        exec (.lqc d a) s = .next ((s'.setX d none_).advance 4)) ∧
      (∀ row ls2 u, c.waiting (onLogit q) = false → s.logits.find? (rowMine id q) = some row →
        let t : State := { s' with logits := s'.logits.erase row }
        checkRange w .store buf 64 t = .ok (ls2, u) →
        exec (.lqc d a) s = .next (((u.stored buf row.bytes ls2).setX d (BitVec.ofNat 64 row.k)).advance 4))) ∧
    -- DQS
    (q = 0 → Raises (.dqs d a b) s codeProt 0 ∧ Raises (.dqr d a) s codeProt 0) ∧
    (q ≠ 0 → let out := if q = 1 then 0 else 1; let in_ := 1 - out; let fl := bitOf xa 0
      let floored (u : State) : State :=
        (u.modCtx id fun x => { x with floors := assocPut x.floors in_ (xb / 2 ^ 32) }).dieFlush id in_
      (bits xa 63 48 ≠ 0 ∨ bits xa 5 1 ≠ 0 ∨ (fl = false ∧ 2 ^ 32 ≤ xb) → Raises (.dqs d a b) s codeProt 0) ∧
      (∀ ls s', bits xa 63 48 = 0 → bits xa 5 1 = 0 → fl = true ∨ xb < 2 ^ 32 →
        checkRange w .load buf 256 s = .ok (ls, s') → s'.anyPoison ls = false →
        (64 ≤ s.dieCount out → exec (.dqs d a b) s = .next ((s'.setX d 1).advance 4)) ∧
        (s.dieCount out < 64 →
          let sent : State := State.setX { s' with dieFlight := s'.dieFlight ++ [⟨out, id, xb % 2 ^ 32, s'.readLocs ls⟩] } d 0
          exec (.dqs d a b) s = .next ((if fl then floored sent else sent).advance 4))) ∧
      (bits xa 63 48 ≠ 0 ∨ bits xa 5 0 ≠ 0 → Raises (.dqr d a) s codeProt 0) ∧
      (∀ ls s', bits xa 63 48 = 0 → bits xa 5 0 = 0 → checkRange w .store buf 256 s = .ok (ls, s') →
        let t := s'.dieFlush id in_
        (c.waiting (onDie in_) = true ∨ t.dieQ.find? (dieMine id in_) = none →
          exec (.dqr d a) s = .next ((t.setX d none_).advance 4)) ∧
        (∀ e ls2 u, c.waiting (onDie in_) = false → t.dieQ.find? (dieMine id in_) = some e →
          let n := tableGet ((t.ctx? id).getD c).dropped in_
          let t' := { t with dieQ := t.dieQ.erase e }.modCtx id fun x => { x with dropped := assocPut x.dropped in_ 0 }
          checkRange w .store buf e.bytes.length t' = .ok (ls2, u) →
          exec (.dqr d a) s = .next (((u.stored buf e.bytes ls2).setX d
            (BitVec.ofNat 64 (e.seq * 2 ^ 32 + min n 0xFFFF * 2 ^ 16))).advance 4)))) ∧
    -- LATX
    (xb % 64 ≠ 0 → Raises (.latx d a b) s codeAlign xb) ∧
    (xb % 64 = 0 → xa % 8 ≠ 0 → Raises (.latx d a b) s codeAlign xa) ∧
    (xb % 64 = 0 → xa % 8 = 0 → 2 ^ 48 ≤ xa ∨ 2 ^ 48 ≤ xb → Raises (.latx d a b) s codeProt 0) ∧
    (∀ ls1 n, xb % 64 = 0 → xa % 8 = 0 → xa < 2 ^ 48 → xb < 2 ^ 48 → checkRange w .load xa 8 s = .ok (ls1, s) →
      s.anyPoison ls1 = false → bytesToNat (s.readLocs ls1) = n →
      (n = 0 ∨ 64 < n → Raises (.latx d a b) s codeProt 0) ∧
      (∀ ls2, 1 ≤ n → n ≤ 64 → checkRange w .load (xa + 8) (8 * n) s = .ok (ls2, s) → s.anyPoison ls2 = false →
        let g (k : Nat) : Nat := bytesToNat (((s.readLocs ls2).drop (8 * k)).take 8)
        let p0 (k : Nat) : Nat := bits (g k) 39 32; let p1 (k : Nat) : Nat := bits (g k) 47 40
        let good := ∀ k < n, g k < 2 ^ 48 ∧ (p0 k < k ∨ p0 k = 0xFF) ∧ (p1 k < k ∨ p1 k = 0xFF) ∧
          (p0 k = 0xFF → p1 k = 0xFF) ∧ (p1 k ≠ p0 k ∨ p1 k = 0xFF)
        (¬good → Raises (.latx d a b) s codeProt 0) ∧
        -- the paths to each node, from a root on; its rows are those of its parents, each with the node
        (∀ ls3 u (path : Nat → List (List Nat)), good → checkRange w .store xb 1024 s = .ok (ls3, u) →
          (∀ k < n, path k = if p0 k = 0xFF then [[k]]
            else (path (p0 k) ++ if p1 k = 0xFF then [] else path (p1 k)).map fun p => p ++ [k]) →
          let all := (List.range n).flatMap path; let rows := all.take 64
          ∃ bytes : List Byte, bytes.length = 1024 ∧
            (let at_ (k : Nat) : Nat := bytesToNat ((bytes.drop (8 * k)).take 8);
            (∀ r < 64, ∀ c < 64, bitOf (at_ r) c = true ↔ ∃ p q, rows[r]? = some p ∧ rows[c]? = some q ∧ q <+: p) ∧
            (∀ r, rows.length ≤ r → r < 64 → at_ (64 + r) = 0) ∧
            (∀ r k p up, rows[r]? = some (p ++ [k]) →
              (p = [] → up = 0xFF) → (p ≠ [] → rows[up]? = some p) →
              at_ (64 + r) = up * 2 ^ 48 + p.length * 2 ^ 40 + k * 2 ^ 32 + g k % 2 ^ 32)) ∧
            exec (.latx d a b) s = .next (((u.stored xb bytes ls3).setX d
              (BitVec.ofNat 64 ((if 64 < all.length then 2 ^ 63 else 0) + rows.length))).advance 4)))) ∧
    -- TRPUB
    (xa % 64 ≠ 0 → Raises (.trpub a b) s codeAlign xa) ∧ (xa % 64 = 0 → xb % 8 ≠ 0 → Raises (.trpub a b) s codeAlign xb) ∧
    (∀ ls1 n, xa % 64 = 0 → xb % 8 = 0 → checkRange w .load xb 8 s = .ok (ls1, s) → s.anyPoison ls1 = false →
      bytesToNat (s.readLocs ls1) = n →
      (n = 0 ∨ 64 < n → Raises (.trpub a b) s codeProt 0) ∧
      (∀ ls2 ls3, 1 ≤ n → n ≤ 64 → checkRange w .load (xb + 8) (4 * n) s = .ok (ls2, s) → s.anyPoison ls2 = false →
        checkRange w .atomic xa 64 s = .ok (ls3, s) → s.anyPoison ls3 = false →
        let tok (k : Nat) : Nat := bytesToNat (((s.readLocs ls2).drop (4 * k)).take 4)
        let g (k : Nat) : Nat := bytesToNat (((s.readLocs ls3).drop (8 * k)).take 8)
        let lcap := bits (g 2) 52 48; let base := g 2 % 2 ^ 48
        let at_ (k : Nat) : Nat := base + 4 * ((g 0 + k) % 2 ^ lcap)
        (2 ^ 53 ≤ g 2 ∨ lcap < 4 ∨ 20 < lcap ∨ base % 4 ≠ 0 → Raises (.trpub a b) s codeProt 0) ∧
        (g 2 < 2 ^ 53 → 4 ≤ lcap → lcap ≤ 20 → base % 4 = 0 → checkStores 4 ((List.range n).map at_) s = .ok ((), s) →
          (∀ ls4 u, 2 ^ lcap < (g 0 + n + 2 ^ 64 - g 1) % 2 ^ 64 → checkRange w .store (xa + 24) 8 s = .ok (ls4, u) →
            exec (.trpub a b) s =
              .next (((u.stored (xa + 24) (natToBytes 8 ((g 3 + 1) % 2 ^ 64)) ls4).setErr id l errTr).advance 4)) ∧
          (∀ u ls4 v, (g 0 + n + 2 ^ 64 - g 1) % 2 ^ 64 ≤ 2 ^ lcap →
            storeEach 4 ((List.range n).map fun k => (at_ k, tok k)) s = .ok ((), u) →
            checkRange w .store xa 8 u = .ok (ls4, v) → exec (.trpub a b) s =
              .next (((v.stored xa (natToBytes 8 ((g 0 + n) % 2 ^ 64)) ls4).countTokens id n).advance 4)))))) ∧
  -- the queued entries of a context that its floor makes stale are discarded and counted
  (∀ (s : State) (id dir : Nat) (c : Ctx), s.ctx? id = some c → tableGet c.floors dir < 2 ^ 32 →
    let stale (e : DieEntry) : Bool := decide (e.dir = dir) && decide (e.ctx = id) &&
      decide ((BitVec.ofNat 32 e.seq - BitVec.ofNat 32 (tableGet c.floors dir)).toInt < 0)
    s.dieFlush id dir = { s with dieQ := s.dieQ.filter fun e => !stale e }.modCtx id fun x =>
      { x with dropped := assocPut x.dropped dir (tableGet c.dropped dir + (s.dieQ.filter stale).length) }) ∧
  (∀ (s : State), let dir := s.arg.k
    (s.dieFlight.find? (fun e => decide (e.dir = dir)) = none → exec .dqEntryArrival s = .next s) ∧
    (∀ e c, s.dieFlight.find? (fun e => decide (e.dir = dir)) = some e → s.ctx? e.ctx = some c →
      let u : State := { s with dieFlight := s.dieFlight.erase e }
      (2 ^ 31 ≤ (e.seq + 2 ^ 32 - tableGet c.floors dir) % 2 ^ 32 → exec .dqEntryArrival s =
        .next (u.modCtx e.ctx fun x => { x with dropped := assocPut x.dropped dir (tableGet x.dropped dir + 1) })) ∧
      ((e.seq + 2 ^ 32 - tableGet c.floors dir) % 2 ^ 32 < 2 ^ 31 →
        (c.waiting (onDie dir) = false → exec .dqEntryArrival s = .next { u with dieQ := s.dieQ ++ [e] }) ∧
        (∀ pre wt post, c.waits = pre ++ wt :: post → (∀ x ∈ pre, onDie dir x = true → x.got ≠ none) → onDie dir wt = true →
          wt.got = none → s.dieQ.find? (dieMine e.ctx dir) = none →
          let v : Word := BitVec.ofNat 64 (e.seq * 2 ^ 32 + min (tableGet c.dropped dir) 0xFFFF * 2 ^ 16)
          ∃ t c', exec .dqEntryArrival s = .next t ∧ t = { u with ctxs := t.ctxs } ∧ t.ctx? e.ctx = some c' ∧
            c' = { c with
              waits := pre ++ { wt with got := some (natToBytes 8 v.toNat, e.bytes) } :: post, dropped := c'.dropped } ∧
            tableGet c'.dropped dir = 0 ∧ (∀ k, k ≠ dir → tableGet c'.dropped k = tableGet c.dropped k) ∧
            ∀ j, j ≠ e.ctx → t.ctx? j = s.ctx? j))))

/-! ## Wakes, migrations, the power domains and the triggers -/

/-- WAKE, MBND, the move of a migration, the state changes of the burst island, the small island and the DRAM, and the trigger
windows (R331 to R346, R354). A named record is checked first, then the fields. A wake whose domain is up is notified at once,
else it waits; a domain changes state only under its conditions, and serves the causes that named it as it comes up; a wake
that the power controller holds sets its reason. The last arrival decides a migration's status, or lets it begin; migrations
stand in a queue, and the first of them moves when its context is quiet and the target is up, once what stood on chip is in
the task arena, for which firmware resolves pages and enlarges it. The model's choices in it: the write-back log 13, the
layout of the image log 19, the power controller's reasons logs 16 and 54, the order of the checks of WAKE and MBND log 30,
the fold map that MBND judges log 29, and that a DRAM that leaves SREF posts held records and trace entries, then notifies,
then makes held host accesses: log 36. -/
def Obligations.WakesAndDomains : Prop :=
  let up (u : State) : Domain → Bool
    | .dram => !u.dramSref
    | .bi => decide (u.bi = .on)
    | .si => decide (u.si ≠ .ret)
  let silent (u : State) : Prop := ∀ w ∈ u.causes, up u w.target = true → w.record = 0
  let served (u : State) : State := { u with causes := u.causes.filter fun w => !up u w.target }
  -- WAKE and MBND
  (∀ (a : Reg) (s s' : State) (c : Ctx), s'.ctx? s.act.ctx = some c → (s.ctx? s.act.ctx).isSome = true →
    let xa := (s.x a).toNat; let va := bits xa 47 5 * 32; let id := s.act.ctx; let l := s.act.lcore
    let w : WakeCause := ⟨if xa % 4 = 0 then .dram else if xa % 4 = 1 then .bi else .si, canonVa s.who va, id, l⟩
    let put := s'.wake w
    let k := c.core l
    let arr : Arrival := ⟨l, bitOf xa 0, canonVa s.who va, k.orgn, k.rsz⟩
    let add (as : List Arrival) : List Arrival := if ∃ b ∈ as, b.lcore = l then as else as ++ [arr]
    (va = 0 ∧ s' = s ∨ va ≠ 0 ∧ (∃ r ls, s.recordAt va r ls s') ∨
      va ≠ 0 ∧ (∃ u, s.recordLost va u ∧ s' = u.countPoison id l)) →
    (bits xa 1 0 = 3 ∨ bits xa 4 2 ≠ 0 ∨ 2 ^ 48 ≤ xa → Raises (.wake a) s codeProt 0) ∧
    (bits xa 4 1 ≠ 0 ∨ va = 0 ∨ 2 ^ 48 ≤ xa ∨ k.launched = false → Raises (.mbnd a) s codeProt 0) ∧
    (bits xa 1 0 ≠ 3 → bits xa 4 2 = 0 → xa < 2 ^ 48 →
      (up s' w.target = false → exec (.wake a) s = .next (put.advance 4)) ∧
      (up s' w.target = true → va = 0 →
        exec (.wake a) s = .next ({ put with causes := put.causes.erase w }.advance 4)) ∧
      (∀ r ls u, up s' w.target = true → va ≠ 0 → s.act.priv = false → put.recordAt w.record r ls u →
        let v := u.joinedAt w.record r ls (-1) r.tgt
        exec (.wake a) s = .next ({ v with causes := v.causes.erase w }.advance 4))) ∧
    (bits xa 4 1 = 0 → va ≠ 0 → xa < 2 ^ 48 → k.launched = true →
      (c.migrating = true ∨ c.reports ≠ [] →
        exec (.mbnd a) s = .next (((s'.setCtx id { c with kept := add c.kept }).queueMigration id).advance 4)) ∧
      (∀ f, c.migrating = false → c.reports = [] → (add c.arrivals).head? = some f →
        let as := add c.arrivals
        let inside (n : Nat) : Bool := inRect f.orgn.toNat f.rsz.toNat (n / 32) (n % 32)
        let same := ∀ x ∈ as, x.toSi = f.toSi ∧ x.record = f.record ∧ x.orgn = f.orgn ∧ x.rsz = f.rsz ∧ inside x.lcore
        let g (n : Nat) : Nat := (assocGet c.foldNext n).getD (n % 2)
        let folds := ∀ n < 64, g n < 2 ∧ g n ≠ g (Config.partner n)
        let goes (c' : Ctx) : Prop := exec (.mbnd a) s = .next (((s'.setCtx id c').queueMigration id).advance 4)
        let all := ∀ n, inside n = true → ∃ x ∈ as, x.lcore = n;
        f.orgn.toNat < 2 ^ 9 → bits f.orgn.toNat 4 0 + bits f.rsz.toNat 7 0 ≤ 32 →
        (¬all → goes { c with arrivals := as }) ∧
        (all → ¬same → goes { c with arrivals := as, reports := reportsOf 2 as }) ∧
        (all → same → f.toSi = !c.onBi → goes { c with arrivals := as, reports := reportsOf 4 as }) ∧
        (all → same → f.toSi = c.onBi → f.toSi = true → ¬folds →
          goes { c with arrivals := as, reports := reportsOf 5 as }) ∧
        (all → same → f.toSi = c.onBi → f.toSi = false ∨ folds →
          goes { c with arrivals := as, migrating := true })))) ∧
  (∀ (s : State) (id : Nat) (c : Ctx), s.ctx? id = some c →
    s.queueMigration id = if (c.migrating = true ∨ c.reports ≠ []) ∧ id ∉ s.migQueue
      then { s with migQueue := s.migQueue ++ [id] } else s) ∧
  -- the move
  (∀ (s : State) (c : Ctx) (f : Arrival) (rest : List Arrival), let id := s.arg.ctx
    s.ctx? id = some c → c.arrivals = f :: rest →
    let target : Domain := if f.toSi then .si else .bi
    let cores := rectCores f.orgn.toNat f.rsz.toNat
    let need := 2 * cores.length + 2 * (touched cores).length
    let status := if c.frames ≠ [] then 1 else if f.toSi = true ∧ s.freeStore.length < need then 3 else 0
    let reported (u : State) (status : Nat) : State := u.modCtx id fun x => { x with reports := reportsOf status c.arrivals }
    let first := s.migQueue.head? = some id
    let settled (u : State) : State := (State.modCtx { u with migQueue := u.migQueue.filter fun n => decide (n ≠ id) } id fun x =>
      { x with reports := [], migrating := false, arrivals := x.kept, kept := [] }.startMigration).queueMigration id
    (¬first → exec .migrationMove s = .next s) ∧
    (c.reports = [] → c.migrating = false ∨ s.quiet id c = false → exec .migrationMove s = .next s) ∧
    (first → c.reports = [] → c.migrating = true → s.quiet id c = true →
      (up s target = false → exec .migrationMove s = .next (s.wake ⟨target, 0, id, 0⟩)) ∧
      (∀ u, up s target = true → status ≠ 0 → makeReports id (reportsOf status c.arrivals) (reported s status) = .ok ([], u) →
        exec .migrationMove s = .next (settled u)) ∧
      (∀ v, up s target = true → status = 0 → spillOp id c s = .ok (none, v) → exec .migrationMove s = .next v) ∧
      (∀ v u spilled, up s target = true → status = 0 → spillOp id c s = .ok (some spilled, v) →
        makeReports id (reportsOf 0 c.arrivals) (reported (v.moveContext id c f cores spilled) 0) = .ok ([], u) →
        exec .migrationMove s = .next (settled u))) ∧
    -- what is spilled to the task arena
    (let bs := spillBytes (spillPieces c)
      let last := c.arenaBase + (bs.length - 1) / 2 ^ 16 * 2 ^ 16
      let gone : PageFault := ⟨id, last / 2 ^ 16, .noMap, 0, false⟩;
      (bs = [] → spillOp id c s = .ok (some true, s)) ∧
      (bs ≠ [] → 2 ^ 16 * c.arenaPages < bs.length →
        (gone ∈ s.pages → spillOp id c s =
          .ok (some false, { s with pages := s.pages.erase gone }.postFault id 0 0 0 codePage 0 last 0 0)) ∧
        (gone ∉ s.pages → ∃ u, spillOp id c s = .ok (none, u) ∧ u = { s with pages := u.pages } ∧
          ∃ p ∈ u.pages, p.ctx = id ∧ p.who = .image last)) ∧
      (∀ ls u, bs ≠ [] → bs.length ≤ 2 ^ 16 * c.arenaPages → checkRange (.core id 0) .store c.arenaBase bs.length s = .ok (ls, u) →
        spillOp id c s = .ok (some true, u.put (.core id 0) ls bs)) ∧
      (∀ va, bs ≠ [] → bs.length ≤ 2 ^ 16 * c.arenaPages →
        checkRange (.core id 0) .store c.arenaBase bs.length s = .error (.fault codePage va false 0) →
        (⟨id, va / 2 ^ 16, .noMap, 0, false⟩ : PageFault) ∉ s.pages →
        ∃ u, spillOp id c s = .ok (none, u) ∧ u = { s with pages := u.pages } ∧
          ∃ p ∈ u.pages, p.ctx = id ∧ p.va = va ∧ p.who = .device)) ∧
    (∀ u, first → c.reports ≠ [] → makeReports id c.reports s = .ok ([], u) → exec .migrationMove s = .next (settled u)) ∧
    (∀ left u, first → c.reports ≠ [] → left ≠ [] → makeReports id c.reports s = .ok (left, u) →
      exec .migrationMove s = .next (u.modCtx id fun x => { x with reports := left })) ∧
    (∀ spilled, let t := s.moveContext id c f cores spilled;
      (t.ctx? id).map Ctx.onBi = some (!f.toSi) ∧
      (∀ dir < 2, (t.ctx? id).map (fun x => tableGet x.dropped dir) =
        some (tableGet c.dropped dir + ((s.dieQ ++ s.dieFlight).filter (dieMine id dir)).length)) ∧
      (∀ e ∈ t.dieQ ++ t.dieFlight, e.ctx ≠ id) ∧
      (∀ row ∈ t.logits, row.ctx = id → (row.q = 0 ↔ f.toSi = true)) ∧
      (∀ l < 512, ∀ off < 2 ^ 17, t.stash.read (stashKey id l off) =
        if l ∈ cores then s.stash.read (stashKey id l off) else 0))) ∧
  -- a notify record that fails: one in the local window, which a trigger entry alone can name, or a poisoned one
  (∀ (s : State) (w : WakeCause), w.record ≠ 0 →
    let report (u : State) (code : Nat) : State := u.postFault w.ctx w.lcore 0 6 code 0 w.record 0 0
    (inLocal w.record = true → notifyStep w s = .ok (true, report s codeProt)) ∧
    (∀ u, inLocal w.record = false → joinStep (.core w.ctx w.lcore) w.ctx w.record (-1) none s = .ok (none, u) →
      notifyStep w s = .ok (true, report (u.countPoison w.ctx w.lcore) codePois))) ∧
  -- the domains and the triggers
  (∀ s : State, let named (d : Domain) : Prop := ∃ w ∈ s.causes, w.target = d
    let drains := s.bi = .on ∧ (∀ p ∈ s.ctxs, p.2.onBi = false) ∧ ¬named .bi
    let rests := s.si = .idle ∧ ∀ p ∈ s.ctxs, p.2.resident = true → p.2.onBi = true
    let wakesSi := s.si = .ret ∧ named .si ∧ s.power.junc = false
    let wakesBi := (s.bi = .ret ∨ s.bi = .off) ∧ named .bi ∧ s.power.junc = false
    let sleeps := (s.bi = .ret ∨ s.bi = .off) ∧ (∀ p ∈ s.ctxs, p.2.resident = true → p.2.onBi = false) ∧
      ¬named .dram ∧ ¬named .bi
    let leaves := s.dramSref = true ∧ (named .dram ∨ named .bi) ∧ s.power.junc = false
    let back : State := s.reachBack 0 Config.dramBytes
    let flip : State := { back with bi := .on, biMap := true }
    let awake : State := s.heldEntries.foldl State.post { s with dramSref := false, heldHost := [], heldEntries := [] }
    let go := s.arg.flag = false
    let held (on : List (Bool × Nat)) (i : Instr) : Prop := s.arg.flag = true → ∃ t, exec i s = .next t ∧
      t = { s with power := { s.power with thr := t.power.thr } } ∧
      ∀ x, t.thrOf x = s.thrOf x ||| (if s.arg.k ∈ [0, 1, 3] ∧ x ∈ on then 1#64 <<< s.arg.k else 0)
    (drains → exec .biDrainStart s = .next { s with bi := .drain, biMap := false }) ∧
    (¬drains → exec .biDrainStart s = .next s) ∧
    (s.bi = .drain → (s.arg.flag = true ∧ ¬named .bi → exec .biDrainEnd s =
        .next { back with bi := .off }) ∧
      (s.arg.flag = false ∨ named .bi → exec .biDrainEnd s =
        .next { back with bi := .ret })) ∧
    (s.bi ≠ .drain → exec .biDrainEnd s = .next s) ∧
    (s.bi = .ret → exec .biRetToOff s = .next { s with bi := .off }) ∧ (s.bi ≠ .ret → exec .biRetToOff s = .next s) ∧
    (wakesBi → held ((List.range 66).map fun n => (false, n)) .biWakeStart) ∧
    (wakesBi → go → (s.dramSref = false → exec .biWakeStart s = .next { s with bi := .wake }) ∧
      (s.dramSref = true → exec .biWakeStart s = .next (State.wake { s with bi := .wake } ⟨.dram, 0, 0, 0⟩))) ∧
    (¬wakesBi → exec .biWakeStart s = .next s) ∧
    (s.bi = .wake → s.dramSref = false → silent flip → exec .homeMapFlipToBi s = .next (served flip)) ∧
    (s.bi ≠ .wake ∨ s.dramSref = true → exec .homeMapFlipToBi s = .next s) ∧
    (s.si = .on → s.siBusy = false → exec .siIdle s = .next { s with si := .idle }) ∧
    (s.si ≠ .on ∨ s.siBusy = true → exec .siIdle s = .next s) ∧
    (rests → exec .siRetEntry s = .next { s with si := .ret }) ∧ (¬rests → exec .siRetEntry s = .next s) ∧
    (wakesSi → held [(true, 0), (true, 1)] .siWake) ∧
    (wakesSi → go → silent { s with si := .on } → exec .siWake s = .next (served { s with si := .on })) ∧
    (¬wakesSi → exec .siWake s = .next s) ∧
    (sleeps → exec .dramSrefEntry s = .next { s with dramSref := true }) ∧ (¬sleeps → exec .dramSrefEntry s = .next s) ∧
    (leaves → held (if named .bi then (List.range 66).map fun n => (false, n) else [(true, 0), (true, 1)]) .dramSrefExit) ∧
    (∀ u t, leaves → go → silent awake → releaseHeld s.heldHost (served awake) = .ok ((), u) → remap u = .ok ((), t) →
      exec .dramSrefExit s = .next t) ∧
    (leaves → go → silent awake → s.heldHost = [] → s.mapWait = [] → exec .dramSrefExit s = .next (served awake)) ∧
    (¬leaves → exec .dramSrefExit s = .next s) ∧
    (∀ c, s.ctx? s.arg.ctx = some c → let id := s.arg.ctx; let e := s.arg.i; let t := s.trigEntry c e
      let g := c.trigger e
      let w : WakeCause := ⟨t.target, t.record, id, 0⟩
      let off := (s.setCtx id (c.modTrigger e fun x => { x with armed := false })).wake w
      let fired : State := if up s t.target then { off with causes := off.causes.erase w } else off
      let low (u : State) : State := u.modCtx id fun x => x.modTrigger e fun y => { y with low := s.queueLow t }
      let none_ (u : State) : State := u.modCtx id fun x => x.modTrigger e fun y => { y with tokens := 0 }
      let quiet := up s t.target = false ∨ t.record = 0;
      (4 ≤ e ∨ t.kind ≠ 1 → exec .triggerQdepthWindow s = .next s) ∧
      (e < 4 → t.kind = 1 → g.low = true ∨ g.armed = false → exec .triggerQdepthWindow s = .next (low s)) ∧
      (e < 4 → t.kind = 1 → g.low = false → g.armed = true → quiet → exec .triggerQdepthWindow s = .next (low fired)) ∧
      (4 ≤ e ∨ t.kind ≠ 3 → exec .triggerTrateWindow s = .next s) ∧
      (e < 4 → t.kind = 3 → c.onBi = true ∨ t.threshold ≤ g.tokens ∨ g.armed = false →
        exec .triggerTrateWindow s = .next (none_ s)) ∧
      (e < 4 → t.kind = 3 → c.onBi = false → g.tokens < t.threshold → g.armed = true → quiet →
        exec .triggerTrateWindow s = .next (none_ fired))))

/-! ## Launches, dispatch, transitions, messages, slices and deposits -/

/-- The events of scheduling (R33, R36, R42, R45 to R53, R60, R184 to R190, R258, R287, R379): a launch leaves the device
queue, wakes a core, completes; a free slot takes the entry that level, starvation and round-robin choose among those that can
be dispatched and stand on chip, with the registers that its kind sets and every other zero; a transition writes the record's
state and no other bit of it; a message is delivered, refused, forwarded or turned back; a hold ends; a slice saves and re-
queues a task; a satisfied wait is deposited. The model's choices in it: the place of a frame and of a re-queued task log 7,
the core that runs a pair log 32, the poison of a deposit log 44, which instructions may be waiting log 46, the pages lent to
a folded core log 52, who gets an entry that becomes free log 56, the die of a transition's PAGE log 59, and that firmware is
not sliced log 64. -/
def Obligations.SchedulingEvents : Prop :=
  -- launches
  (∀ (s : State) (c : Ctx), let id := s.arg.ctx; s.ctx? id = some c →
    (c.launchQ = [] → exec .deviceLaunchQueueTake s = .next (s.setCtx id c)) ∧
    (∀ b rest, c.launchQ = b :: rest → exec .deviceLaunchQueueTake s = .next (s.setCtx id { c with
      launchQ := rest, launches := c.launches ++ [⟨c.nextLaunch, b, b.cores, 0⟩], nextLaunch := c.nextLaunch + 1 })) ∧
    (∀ n, c.launches.find? (fun n => decide (n.id = s.arg.i) && n.wakes.contains s.arg.k) = some n →
      let l := s.arg.k; let k := c.core l; let b := n.block
      let rect : Word := BitVec.ofNat 64 (b.row * 32 + b.col + (b.h * 256 + b.w) * 2 ^ 32)
      let c' : Ctx := { c with launches := c.launches.map fun m =>
        if m.id = n.id then { m with wakes := m.wakes.erase l, running := m.running + 1 } else m }
      exec .launchWakeArrival s = .next (((State.setCtx { s with ticks := s.ticks + 1 } id (c'.setCore l { k with
        orgn := BitVec.ofNat 64 (b.row * 32 + b.col), rsz := BitVec.ofNat 64 (b.h * 256 + b.w), jseed := b.seed
        launched := true, gen := some (Gen.seed b.seed l)
        queue := k.queue ++ [⟨.ready, 0, .entry ⟨b.code, b.param, 0, [], some (n.id, rect, b.seed)⟩, s.ticks⟩] })).lendCore id l).spillRoom id (s.dieOfCore id l))) ∧
    -- the pages of a folded core and of its cluster
    (∀ l, let k := Config.clusterOf l
      let lent (u : Lent) : Prop := ∃ p ∈ s.store, p.2 = u
      let some_ (us : List Lent) : State := { s with store := s.store ++ s.freeStore.zip us }
      (c.onBi = true → s.lendCore id l = s) ∧
      (c.onBi = false → lent (.stash id l) → lent (.tile id k) → (s.lendCore id l).store = s.store) ∧
      (c.onBi = false → ¬lent (.stash id l) → lent (.tile id k) → s.lendCore id l = some_ [.stash id l, .stash id l]) ∧
      (c.onBi = false → ¬lent (.stash id l) → ¬lent (.tile id k) →
        s.lendCore id l = some_ [.stash id l, .stash id l, .tile id k, .tile id k])) ∧
    (∀ n, c.launches.find? (fun n => decide (n.id = s.arg.i)) = some n → let b := n.block
      let gone (u : State) : State := u.modCtx id fun x => { x with launches := x.launches.filter fun m => decide (m.id ≠ n.id) }
      (n.wakes ≠ [] ∨ n.running ≠ 0 → exec .launchCompletion s = .next s) ∧
      (∀ u, n.wakes = [] → n.running = 0 → b.record = 0 ∧ u = s ∨ b.record ≠ 0 ∧
          (∃ r, joinStep (.core id (b.issuer.getD 0)) id b.record (-1) none s = .ok (some r, u)) →
        (b.command = none → exec .launchCompletion s = .next (gone u)) ∧
        (∀ q index, b.command = some (q, index) → exec .launchCompletion s = .next ((gone u).modStarted q index fun e =>
          { e with status := some (BitVec.ofNat 64 (index % 2 ^ 32 * 2 ^ 32)) }))))) ∧
  -- dispatch
  (∀ (s : State), let slot := s.arg.slot
    let cs := s.cands slot.core; let k := (assocGet s.cores slot.core).getD PhysCore.init
    let count (j : Nat) : Nat := (k.pass[j]?).getD 0
    (s.slotLive slot = false ∨ (s.taskAt slot).isSome = true ∨ cs = [] → exec .dispatch s = .next s) ∧
    (∀ c ∈ cs, s.slotLive slot = true → s.taskAt slot = none →
      -- the lowest level that has waited 64 times, or else the lowest level
      (64 ≤ count c.level ∧ (∀ d ∈ cs, 64 ≤ count d.level → c.level ≤ d.level) ∨
        (∀ d ∈ cs, count d.level < 64 ∧ c.level ≤ d.level)) →
      -- the triple after the one served last at that level
      (let last := assocGet k.served c.level;
        (∀ n, last = some n → n < c.key ∧ (∀ d ∈ cs, d.level = c.level → n < d.key → c.key ≤ d.key) ∨
          (∀ d ∈ cs, d.level = c.level → d.key ≤ n ∧ c.key ≤ d.key)) ∧
        (last = none → ∀ d ∈ cs, d.level = c.level → c.key ≤ d.key)) →
      (∀ d ∈ cs, d.level = c.level → d.key = c.key → d = c) →
      let after : PhysCore := { k with
        pass := (List.range 8).map fun j =>
          if j = c.level then 0 else count j + (if c.level < j ∧ ∃ d ∈ cs, d.level = j then 1 else 0)
        served := assocPut k.served c.level c.key }
      let u : State := { s with cores := assocPut s.cores slot.core after }
      (∀ id l i, c.pick = .entry id l i → exec .dispatch s = .next (u.startEntry slot c.level id l i)) ∧
      (∀ id cl x p rest v, c.pick = .pair id cl → s.ctx? id = some x → (x.bag cl).tasks = p :: rest →
        let l := pairCore slot.core cl
        takeStep (.core id l) p (u.modBag id cl fun b => { b with tasks := b.tasks.tail }) = .ok (true, v) →
        exec .dispatch s = .next (v.startTask slot (pairTask id l slot.idx c.level p))) ∧
      (∀ id cl x p rest v, c.pick = .pair id cl → s.ctx? id = some x → (x.bag cl).tasks = p :: rest →
        let w : Who := .core id (pairCore slot.core cl)
        takeStep w p (u.modBag id cl fun b => { b with tasks := b.tasks.tail }) = .ok (false, v) →
        exec .dispatch s = .next (v.discardPair w id p none)))) ∧
  (∀ (s : State) (slot : SlotId) (level id l i : Nat) (c : Ctx) (e : QEntry), s.ctx? id = some c →
    let k := c.core l; k.queue[i]? = some e → s.taskAt slot = none →
    let rest : LCore := { k with queue := k.queue.eraseIdx i }
    let t := s.startEntry slot level id l i
    (∀ m, e.body = .msg m → t = (s.setCtx id (c.setCore l
      (({ rest with ch1Closed := decide (m.chan = 1) || k.ch1Closed } : LCore).freed m.chan))).startTask slot
        (msgTask id l slot.idx level m)) ∧
    (∀ r, e.body = .entry r → t = (s.setCtx id (c.setCore l rest)).startTask slot (entryTask id l slot.idx level r)) ∧
    (∀ a fr, e.body = .saved a → c.frames.find? (fun fr => decide (fr.addr = a)) = some fr →
      t = (s.setCtx id { c.setCore l rest with frames := c.frames.filter fun f => decide (f.addr ≠ a) }).startTask slot
        { fr.task with x := fr.task.x.set 31 (fr.task.x[31] - stackTop fr.task.savedSlot + stackTop slot.idx), retired := 0 })) ∧
  (∀ (s : State) (slot : SlotId) (t : Task) (id l n level : Nat) (m : Msg) (r : ReadyEntry),
    let u := s.startTask slot t; let tm := msgTask id l n level m; let te := entryTask id l n level r
    u.taskAt slot = some t ∧
    u.trans = s.trans ++ (if t.record = 0 then [] else [⟨t.ctx, t.lcore, t.record, 5⟩]) ∧
    (u.si = if s.si = .idle ∧ coreIsBi slot.core = false then .on else s.si) ∧
    tm.pc = BitVec.ofNat 64 m.handler ∧ te.pc = BitVec.ofNat 64 r.code ∧
    tm.chain = (if m.chan = 1 then [l] else []) ∧ te.chain = r.chain ∧
    (∀ i < 4, ∀ h : i + 1 < 32, tm.x[i + 1] = (m.payload[i]?).getD 0) ∧ tm.x[29] = 0 ∧ te.x[29] = BitVec.ofNat 64 r.frame ∧
    tm.x[31] = stackTop n ∧ te.x[31] = stackTop n ∧
    (∀ p q, m.extra = some (p, q) → tm.x[5] = p ∧ tm.x[6] = q) ∧
    (∀ launch rect seed, r.initial = some (launch, rect, seed) →
      te.x[1] = rect ∧ te.x[2] = seed ∧ te.launch = some launch) ∧
    (∀ j (h : j < 32), j ∉ [1, 2, 3, 4, 5, 6, 31] → tm.x[j] = 0) ∧ (∀ j (h : j < 32), j ∉ [1, 2, 29, 31] → te.x[j] = 0) ∧
    (m.extra = none → tm.x[5] = 0 ∧ tm.x[6] = 0) ∧ (r.initial = none → te.x[1] = 0 ∧ te.x[2] = 0 ∧ te.launch = none) ∧
    ∀ p : Pair, let tp := pairTask id l n level p
      tp.pc = BitVec.ofNat 64 p.prod.addr ∧ tp.x[1] = BitVec.ofNat 64 p.n1 ∧
      (∀ q, p.other = .inl q → tp.x[2] = BitVec.ofNat 64 q) ∧ (∀ v, p.other = .inr v → tp.x[2] = v) ∧
      bits tp.x[3].toNat 11 0 = p.prod.index % 4096 ∧ bitOf tp.x[3].toNat 12 = p.other.isRight ∧
      bitOf tp.x[3].toNat 13 = p.swapped ∧ tp.x[3].toNat < 2 ^ 14 ∧ tp.x[31] = stackTop n ∧
      (∀ j (h : j < 32), j ∉ [1, 2, 3, 31] → tp.x[j] = 0) ∧
      ∀ t ∈ [tm, te, tp], (∀ q : Fin 32, t.v[q] = 0) ∧ (∀ q : Fin 8, t.p[q] = 0) ∧ t.frm = 0 ∧ t.ctx = id ∧ t.lcore = l ∧
        t.level = level ∧ t.priv = false ∧ t.retired = 0 ∧ t.pinned = []) ∧
  -- what a free slot may take: of resident contexts, what can be dispatched and stands on chip, the first of each triple and level
  (∀ (s : State) (core : PCore) (lev key : Nat), (s.ctxs.map Prod.fst).Nodup → (∀ p ∈ s.ctxs, (p.2.cores.map Prod.fst).Nodup) →
    let may (c : Ctx) (k : LCore) (e : QEntry) : Prop :=
      (∀ m, e.body = .msg m → c.migrating = false ∧ (m.chan = 1 → k.ch1Closed = false)) ∧
      (∀ r, e.body = .entry r → c.migrating = false) ∧
      (∀ a, e.body = .saved a → ∃ fr, c.frames.find? (fun fr => decide (fr.addr = a)) = some fr ∧ fr.placed = true ∧
        fr.vw = coreVw core ∧ (c.migrating = true → fr.transparent = true))
    let at_ (id l i : Nat) (c : Ctx) (k : LCore) (e : QEntry) : Prop := (id, c) ∈ s.ctxs ∧ c.resident = true ∧ c.dead = false ∧
      (l, k) ∈ c.cores ∧ c.host l = core ∧ k.queue[i]? = some e ∧ may c k e
    -- fewer than 64 re-queued tasks and entries of the ready queue came before it, or 16 messages of its channel
    let fits (e : QEntry) : Prop :=
      ((∀ m, e.body ≠ .msg m) → ((s.contenders core).filter fun d => decide (d.seq < e.seq) &&
        (match d.body with | .msg _ => false | _ => true)).length < 64) ∧
      (∀ m, e.body = .msg m → m.chan = 0 ∨ m.chan = 6 → ((s.contenders core).filter fun d => decide (d.seq < e.seq) &&
        (match d.body with | .msg n => decide (n.chan = m.chan) | _ => false)).length < 16)
    let level (c : Ctx) (e : QEntry) : Nat := match e.source with
      | .ready => if 2 ≤ e.level then e.level else bits c.lvl.toNat 14 12
      | .bag => bits c.lvl.toNat 17 15
      | .chan n => if n = 2 then bits c.lvl.toNat 2 0 else if n = 3 then bits c.lvl.toNat 5 3 else if n = 4 then bits c.lvl.toNat 8 6
          else if n = 5 then bits c.lvl.toNat 11 9 else if n < 2 then n else 2
    (∀ e, e ∈ s.contenders core ↔ ∃ id l i c k, at_ id l i c k e) ∧
    (∀ id l i, (⟨lev, key, .entry id l i⟩ : Cand) ∈ s.cands core ↔ ∃ c k e, at_ id l i c k e ∧ fits e ∧ level c e = lev ∧
      key = (id * 1024 + l) * 16 + e.source.code ∧
      ∀ j < i, ∀ e', at_ id l j c k e' → fits e' → ¬(e'.source.code = e.source.code ∧ level c e' = lev)) ∧
    (∀ id cl, (⟨lev, key, .pair id cl⟩ : Cand) ∈ s.cands core ↔ ∃ c b, (id, c) ∈ s.ctxs ∧ c.resident = true ∧ c.dead = false ∧
      c.migrating = false ∧ (cl, b) ∈ c.bags ∧ b.tasks ≠ [] ∧ (∃ n < 8, c.host (Config.coreOf cl n) = core) ∧
      lev = bits c.lvl.toNat 17 15 ∧ key = (id * 1024 + (512 + cl)) * 16 + Source.code .bag)) ∧
  -- transitions
  (∀ (s : State) (t : Transition), s.trans[s.arg.i]? = some t → let w : Who := .core t.ctx t.lcore
    ((∃ v ∈ s.trans.take s.arg.i, v.ctx = t.ctx ∧ v.record = t.record) → exec .recordTransition s = .next s) ∧
    (∀ ls u, (∀ v ∈ s.trans.take s.arg.i, v.ctx = t.ctx → v.record ≠ t.record) →
      checkRange w .atomic t.record 32 s = .ok (ls, u) →
      let past (v : State) : State := { v with trans := s.trans.eraseIdx s.arg.i }
      (u.anyPoison ls = false → (ls.any fun p => p.1.discarded) = false → exec .recordTransition s =
        -- bits 231..228 of the record, its state, change, and no other bit
        let v := bytesToNat (u.readLocs ls)
        .next (past ((u.writeLocs w ls (natToBytes 32 (v / 2 ^ 232 * 2 ^ 232 + t.state % 16 * 2 ^ 228 + v % 2 ^ 228))).countPort
          w ls))) ∧
      (u.anyPoison ls = false → (ls.any fun p => p.1.discarded) = true →
        exec .recordTransition s = .next (past (u.countDropped w ls))) ∧
      (u.anyPoison ls = true → exec .recordTransition s = .next (past
        ((u.countPoison t.ctx t.lcore).postFault t.ctx t.lcore 0 7 codePois 0 t.record 0 0)))) ∧
    (∀ code a, (∀ v ∈ s.trans.take s.arg.i, v.ctx = t.ctx → v.record ≠ t.record) →
      checkRange w .atomic t.record 32 s = .error (.fault code a false 0) →
      (code ≠ codePage → exec .recordTransition s =
        .next { s.postFault t.ctx t.lcore 0 7 code 0 t.record 0 0 with trans := s.trans.eraseIdx s.arg.i }) ∧
      (code = codePage → (∀ p ∈ s.pages, ¬(p.ctx = t.ctx ∧ (p.va = a ∨ p.va = a / 2 ^ 16))) → exec .recordTransition s =
        .next { s with pages := s.pages ++ [⟨t.ctx, a, .device, s.dieOfCore t.ctx t.lcore, false⟩] }))) ∧
  -- messages
  (∀ (s : State) (f : InFlight) (c : Ctx), s.msgs[s.arg.i]? = some f → s.ctx? f.ctx = some c →
    let id := f.ctx; let l := f.dst; let m := f.msg; let ch := m.chan; let k := c.core l
    let u : State := { s with msgs := s.msgs.eraseIdx s.arg.i }
    -- none of one slot to this channel of this core stands before it
    let first := ∀ g ∈ s.msgs.take s.arg.i, ¬(f.slot ≠ none ∧ g.slot = f.slot ∧ g.ctx = id ∧ g.dst = l ∧ g.msg.chan = ch)
    let got (k : LCore) : State := (State.setCtx { u with ticks := s.ticks + 1 } id
      (c.setCore l { k with queue := k.queue ++ [⟨.chan ch, 0, .msg m, s.ticks⟩] })).spillRoom id (s.dieOfCore id l)
    -- room for one more in the depth, with n more before it, and fewer than n physical entries in use or held
    let deep (n : Nat) : Prop := (k.queue.filter fun e => e.holds ch).length + n ≤ bits c.mbox.toNat (4 * ch + 3) (4 * ch)
    let phys (n : Nat) : Prop := c.resident = true → c.migrating = false → c.reports = [] → s.physEntries (c.host l) ch < n
    let list := (assocGet k.refusals ch).getD []
    let back (v : State) (nack : Nat) : State :=
      let h := if m.refusal ≠ 0 then m.refusal else c.refusal
      if h = 0 then v.setErr id m.src errRef
      else
        let x6 : Word := BitVec.ofNat 64 (nack * 4096 + ch * 512 + l)
        let r : Msg := ⟨6, l, h, 0, m.payload, some (BitVec.ofNat 64 m.handler, x6)⟩
        { v with msgs := v.msgs ++ [⟨id, m.src, none, r⟩] }
    let more : List Nat := if list.contains m.src ∨ 4 ≤ list.length then list else list ++ [m.src]
    let refused : State := back (u.setCtx id (c.setCore l { k with refusals := assocPut k.refusals ch more })) 0;
    (¬first → exec .messageArrival s = .next s) ∧
    (first → stubFor c l m = none →
      (ch = 0 ∨ 6 ≤ ch → exec .messageArrival s = .next (got k)) ∧
      (1 ≤ ch → ch ≤ 5 → assocGet k.holds ch = none →
        (deep 0 ∧ phys 16 → exec .messageArrival s = .next (got k)) ∧
        (¬(deep 0 ∧ phys 16) → exec .messageArrival s = .next refused)) ∧
      (∀ r, 1 ≤ ch → ch ≤ 5 → assocGet k.holds ch = some r →
        (¬(r = m.src ∧ deep 0 ∧ phys 17) → exec .messageArrival s = .next refused) ∧
        (r = m.src → deep 0 → phys 17 →
          let k' : LCore := { k with
            holds := assocDel k.holds ch, refusals := assocPut k.refusals ch (list.filter fun x => decide (x ≠ m.src)) }
          (deep 1 ∧ phys 16 → exec .messageArrival s = .next (got (k'.freed ch))) ∧
          (¬(deep 1 ∧ phys 16) → exec .messageArrival s = .next (got k'))))) ∧
    (∀ st, first → stubFor c l m = some st → let x1 := (m.payload[0]?).getD 0
      (x1.toNat % 4 < 2 → m.payload ≠ [] →
        let hop : Msg := { m with payload := (x1 + 1) :: m.payload.tail }
        exec .messageArrival s = .next { u with msgs := u.msgs ++ [⟨id, st.target, none, hop⟩] }) ∧
      (2 ≤ x1.toNat % 4 → exec .messageArrival s = .next (back u 1)))) ∧
  (∀ (k : LCore) (ch : Nat), k.freed ch =
    match assocGet k.refusals ch, assocGet k.holds ch with
    | some (r :: _), none => { k with holds := assocPut k.holds ch r }
    | _, _ => k) ∧
  (∀ (s : State) (c : Ctx) (r : Nat), let id := s.arg.ctx; let l := s.arg.i; let ch := s.arg.k; let k := c.core l
    s.ctx? id = some c → assocGet k.holds ch = some r →
    exec .refusalHoldExpiry s = .next (s.setCtx id (c.setCore l (({ k with
      holds := assocDel k.holds ch
      refusals := assocPut k.refusals ch (((assocGet k.refusals ch).getD []).filter fun x => decide (x ≠ r)) } : LCore).freed
        ch)))) ∧
  -- slices, which a task of firmware does not suffer
  (∀ (s : State) (t : Task), s.taskAt s.arg.slot = some t → t.priv = true →
    exec .sliceInstructionLimit s = .next s ∧ exec .sliceStallLimit s = .next s) ∧
  (∀ (s : State) (t : Task) (c : Ctx), let slot := s.arg.slot
    s.taskAt slot = some t → s.ctx? t.ctx = some c → t.priv = false →
    let u := s.sliceSlot slot
    (t.retired < 2 ^ 20 → exec .sliceInstructionLimit s = .next s) ∧
    (2 ^ 20 ≤ t.retired → exec .sliceInstructionLimit s = .next (if (s.copyOf slot).isSome then s else u)) ∧
    ((s.switch slot).atStall = false → exec .sliceStallLimit s = .next s) ∧
    ((s.switch slot).atStall = true → exec .sliceStallLimit s = .next u) ∧
    u.taskAt slot = none ∧ ∃ c' placed, u.ctx? t.ctx = some c' ∧
      c'.frames = c.frames ++
        [⟨c.freePlace, { t with retired := 0, savedSlot := slot.idx }, coreVw slot.core, 0, .queued, 0, placed⟩] ∧
      (c'.core t.lcore).queue = (c.core t.lcore).queue ++ [⟨t.source, t.level, .saved c.freePlace, s.ticks⟩]) ∧
  -- an instruction waits when executing it leaves its task where it is; a FENCE, a CFL and a divide may be waiting
  (∀ (s v : State) (len w : Nat) (i : Instr), fetchWord s = .ok ((len, w), v) → decode w = some i →
    let stands (i : Instr) : Prop := ∃ x, exec i v = .next x ∧ x.active = true ∧ x.act.retired = v.act.retired
    (∀ d a b e, i = .msend d a b ∨ i = .cpyg d a b ∨ i = .mldt d a b ∨ i = .mstt d a b ∨ i = .link d a b ∨ i = .qfen d a ∨
      i = .mzero d a ∨ i = .cpy d a b e → (s.atStall = true ↔ stands i)) ∧
    (∀ d a b, i = .div d a b → s.atStall = true) ∧ (∀ d a b, i = .add d a b → s.atStall = false)) ∧
  -- waits
  (∀ (s : State) (c : Ctx) (w : Wait), let id := s.arg.ctx; let i := s.arg.i
    s.ctx? id = some c → c.waits[i]? = some w → (∀ n, w.kind = .feed n → c.waiting (onFeed n) = false) →
    let item : Option (Option (Nat × List Byte) × List Byte) := match w.kind with
      | .job h => let st := s.jobStatus id h; if st.toNat % 16 = 0 then none else some (none, natToBytes 8 st.toNat)
      | .room q die =>
        if (if q = 0 then c.launchQ.length < 32 else if q = 1 then s.dieCount (dieOut die) < 64 else s.logitCount die < 64)
        then some (none, []) else none
      | .die buf _ | .logit buf _ => w.got.map fun g => (some (buf, g.2), g.1)
      | .cb _ | .bar _ _ | .feed _ => w.got.map fun g => (none, g.1)
    let past (u : State) : State := u.modCtx id fun x => { x with waits := x.waits.eraseIdx i }
    (item = none → exec .waitDeposit s = .next s) ∧
    (∀ buf bytes u, item = some (buf, bytes) →
      depositStep (.core id w.lcore) id w.record buf bytes s = .ok (.made, u) → exec .waitDeposit s = .next (past u)) ∧
    (∀ buf bytes u, item = some (buf, bytes) →
      depositStep (.core id w.lcore) id w.record buf bytes s = .ok (.recordPoison, u) → exec .waitDeposit s =
        .next (past ((u.countPoison id w.lcore).postFault id w.lcore 0 1 codePois 0 (canonVa (.core id w.lcore) w.record) 0 0))) ∧
    (∀ buf bytes u, item = some (buf, bytes) →
      depositStep (.core id w.lcore) id w.record buf bytes s = .ok (.linePoison, u) → exec .waitDeposit s =
        .next (past ((u.countPoison id w.lcore).postFault id w.lcore 0 1 codePois 0 (canonVa (.core id w.lcore) w.record) 0 0)))) ∧
  (∀ (w : Who) (id va : Nat) (bytes : List Byte) (s u : State) (r : TaskRecord) (ls to_ : List (Loc × Nat)) (r' : TaskRecord),
    openRecord w id va s = .ok (some (r, ls), s) → checkRange w .store r.frame bytes.length s = .ok (to_, s) →
    s.anyPoison to_ = false → bytes ≠ [] →
    joinStep w id va (-1) none (s.put w to_ bytes) = .ok (some r', u) →
    depositStep w id va none bytes s = .ok (.made, u))

/-! ## BAR0 and the front end -/

/-- The registers of BAR0 and the front end (R6, R9, R359 to R366): acceptance until the first context; the lottery's seed and
draw, which takes the slot its value falls on, each that may start its head command counting for its tickets, and starts that;
a notify, held while its header sleeps, announced or counted as a protocol error, an HNOTIFY event whatever its queue, and the
mapping of waiting queues; the release of a slot; each command's action with the code it completes with, a FEED in order and
with room, one without nb holding what stands behind it; and the store of the status word. The model's choices in it: the
virtual address of a feed's ring log 23, the fold map that a write leaves for the next move log 29, the driver queue's rt bit
and what is held for the DRAM log 36, and log 48. -/
def Obligations.FrontEndEvents : Prop :=
  (∀ s : State, let v := s.arg.word
    (s.featLock = true → exec .featAcceptWrite s = .next { s with featLate := true }) ∧
    (s.featLock = false → s.arg.k < 2 → ∃ t, exec .featAcceptWrite s = .next t ∧ t = { s with featAcc := t.featAcc } ∧
      t.featAcc.toList = if s.arg.k = 0 then [v ||| 1, s.featAcc[1]] else [s.featAcc[0], v]) ∧
    exec .lotterySeedWrite s = .next { s with lottery := if v = 0 then 1 else v } ∧
    (∀ n x si clus off, (s.arg.reg = .featStatus →
        exec .registerWrite s = .next { s with featLate := s.featLate && !bitOf v.toNat 0 }) ∧
      (s.arg.reg = .scrb → exec .registerWrite s = .next s) ∧
      (s.arg.reg = .thr si clus → exec .registerWrite s = .next { s with power := { s.power with
        thr := assocPut s.power.thr (si, clus) (s.thrOf (si, clus) &&& ~~~v) } }) ∧
      (s.arg.reg = .mboxLength → exec .registerWrite s = .next { s with mc := { s.mc with length := v.toNat } }) ∧
      (s.arg.reg = .mboxData off → off % 8 = 0 → off < 4096 → ∃ d, exec .registerWrite s =
        .next { s with mc := { s.mc with data := d } } ∧ (d.drop off).take 8 = natToBytes 8 v.toNat ∧
        d.take off = (s.mc.data ++ List.replicate 4096 0).take off ∧
        d.drop (off + 8) = ((s.mc.data ++ List.replicate 4096 0).take 4096).drop (off + 8)) ∧
      (s.arg.reg = .fold n clus → s.ctx? n = some x → exec .registerWrite s =
        .next (s.setCtx n { x with foldNext := assocPut x.foldNext clus v.toNat })) ∧
      (let a := bits v.toNat 47 6 * 64; let head := s.physNat (a + 8) 4
        let asleep := s.dramSref = true ∧ a < Config.dramBytes
        let others := (s.queues.filter fun p => p.2.bound && p.2.rt && decide (p.1 ≠ .driver)).length
        let rt := bitOf (s.physNat (a + 16) 8) 16 && decide (others < 64)
        s.arg.reg = .driverHeader →
          (s.mc.recovery = true → exec .registerWrite s = .next s) ∧
          (s.mc.recovery = false → asleep → exec .registerWrite s =
            .next (State.wake { s with heldHost := s.heldHost ++ [.header a] } ⟨.dram, 0, 0, 0⟩)) ∧
          (s.mc.recovery = false → ¬asleep → exec .registerWrite s =
            .next { s.frontSeen with queues := assocPut s.queues .driver ⟨a, head, head, true, rt, false, []⟩ })))) ∧
  -- notifies, mapping and slots
  (∀ s : State, let q := s.arg.queue
    (s.mc.recovery = true → exec .queueNotify s = .next s) ∧
    (∀ f, s.mc.recovery = false →
      q = .driver ∧ f = s ∨ (∃ n, q = .user n ∧ fireNotify n (s.ctxs.map Prod.fst) s = .ok ((), f)) →
      (f.openQueue q = none → exec .queueNotify s = .next f) ∧
      (∀ e, f.openQueue q = some e →
        let asleep := f.dramSref = true ∧ e.header < Config.dramBytes
        let tail := s.arg.word.toNat % 2 ^ 32; let gap := (tail + 2 ^ 32 - e.head) % 2 ^ 32
        let before := (e.tail + 2 ^ 32 - e.head) % 2 ^ 32
        let g := f.frontSeen
        let cap := 2 ^ bits (g.physNat e.header 8) 3 0
        let told : State :=
          if cap < gap then
            g.physWrite (e.header + 24) (natToBytes 4 (min (g.physNat (e.header + 24) 4 + 1) (2 ^ 32 - 1)))
          else if gap ≤ before then g
          else { g with
            queues := assocPut f.queues q { e with tail := tail }
            mapWait := if (∃ p ∈ f.slots, p.2 = q) ∨ q ∈ f.mapWait then f.mapWait else f.mapWait ++ [q] };
        (asleep → exec .queueNotify s =
          .next (State.wake { f with heldHost := f.heldHost ++ [.notify q s.arg.word] } ⟨.dram, 0, 0, 0⟩)) ∧
        (∀ t, ¬asleep → mapQueues told.mapWait.length told = .ok ((), t) → exec .queueNotify s = .next t))) ∧
    (∀ e t, (assocGet s.slots s.arg.i).bind s.openQueue = some e →
      (e.tail ≠ e.head ∨ e.rt = true → exec .queueSlotRelease s = .next s) ∧
      (e.tail = e.head → e.rt = false →
        mapQueues s.mapWait.length { s with slots := assocDel s.slots s.arg.i } = .ok ((), t) →
        exec .queueSlotRelease s = .next t)) ∧
    ((assocGet s.slots s.arg.i).bind s.openQueue = none → exec .queueSlotRelease s = .next s)) ∧
  (∀ (s : State) (k : Nat), (s.mapWait = [] → mapQueues k s = .ok ((), s)) ∧
    ((∀ n < 64, (assocGet s.slots n).isSome = true) → mapQueues k s = .ok ((), s)) ∧
    (∀ q rest n, s.mapWait = q :: rest → n < 64 → assocGet s.slots n = none →
      (∀ j < n, (assocGet s.slots j).isSome = true) →
      let placed (u : State) : State := { u with mapWait := rest, slots := assocPut u.slots n q }
      let held := (s.mapPlaces q).any s.asleep;
      (∀ e, s.openQueue q = some e → e.header ∈ s.mapPlaces q ∧
        ∀ id c, s.wantsResidence q = some id → s.ctx? id = some c → c.desc ∈ s.mapPlaces q) ∧
      (held = true → mapQueues (k + 1) s = .ok ((), s.wake ⟨.dram, 0, 0, 0⟩)) ∧
      (held = false → s.wantsResidence q = none → mapQueues (k + 1) s = mapQueues k (placed s)) ∧
      (∀ id, held = false → s.wantsResidence q = some id → s.residentRoom = none → mapQueues (k + 1) s = .ok ((), s)) ∧
      (∀ id s' u, held = false → s.wantsResidence q = some id → s.residentRoom = some s' → s'.slots = s.slots →
        makeResident id (placed s') = .ok ((), u) → mapQueues (k + 1) s = mapQueues k u))) ∧
  -- the lottery
  (∀ s : State,
    ((∃ a ∈ s.ringPlaces, a < Config.dramBytes) → s.dramSref = true →
      exec .lotteryDraw s = .next (s.wake ⟨.dram, 0, 0, 0⟩)) ∧
    ((∀ a ∈ s.ringPlaces, s.dramSref = true → Config.dramBytes ≤ a) →
      (s.eligible = [] → exec .lotteryDraw s = .next s) ∧
      (∀ before x after, s.eligible = before ++ x :: after →
        let a := s.lottery ^^^ (s.lottery <<< 13); let b := a ^^^ (a >>> 7); let g := b ^^^ (b <<< 17)
        let sum (l : List Eligible) : Nat := (l.map Eligible.tickets).sum
        let pick := ((g * 0x2545F4914F6CDD1D) >>> 32).toNat * sum (before ++ x :: after) / 2 ^ 32
        let head := (x.e.head + 1) % 2 ^ 32
        let begun : Queue := { x.e with head := head, started := x.e.started ++ [⟨x.e.head, x.words, false, none⟩] }
        let u : State := ({ s.frontSeen with lottery := g, queues := assocPut s.queues x.q begun }.physWrite (x.e.header + 8)
          (natToBytes 4 head)).noteDepth x.q
        sum before ≤ pick → pick < sum before + x.tickets →
        (∀ code t, atOnce x.q x.words = some code → complete x.q x.e.head code 0 u = .ok ((), t) →
          exec .lotteryDraw s = .next t) ∧
        (atOnce x.q x.words = none →
          (∀ call, u.oldestCall = some call → 1 ≤ cmdWord call.words 1 ∧ cmdWord call.words 1 ≤ 12) →
          exec .lotteryDraw s = .next u)))) ∧
  -- commands
  (∀ (s : State) (e : Queue) (c : Started), let q := s.arg.queue; s.startedOf q s.arg.i = some (e, c) →
    let id := s.queueCtx e; let w (n : Nat) : Nat := cmdWord c.words n
    let ends (i : Instr) (u : State) (code : Nat) : Prop :=
      ∀ t, complete q c.index code 0 u = .ok ((), t) → exec i s = .next t
    (∀ v t, c.status = some v → finishStarted q c.index s = .ok ((), t) →
      ∀ i ∈ [Instr.queueLaunch, .queueFeed, .stitchSig, .stitchWait, .qfence, .write], exec i s = .next t) ∧
    (c.status = none →
      (∀ p ∈ [(1, Instr.queueLaunch), (2, .queueFeed), (3, .stitchSig), (4, .stitchWait), (5, .qfence), (6, .write)],
        cmdOp c.words ≠ p.1 → exec p.2 s = .next s) ∧
      (cmdOp c.words = 1 → let parsed := parseLaunch [w 1, w 2, w 3, w 4, w 5, 0, 0, 0] none
        (c.acted = true → exec .queueLaunch s = .next s) ∧
        (c.acted = false → s.live? id = none → ends .queueLaunch s 5) ∧
        (∀ x, c.acted = false → s.live? id = some x →
          (inLocal (w 5) = true → ends .queueLaunch s 2) ∧
          (∀ st, inLocal (w 5) = false → parsed = .error st →
            ends .queueLaunch s (if st = launchRect then 1 else 2)) ∧
          (∀ b, inLocal (w 5) = false → parsed = .ok b → let b' : LaunchBlock := { b with command := some (q, c.index) }
            exec .queueLaunch s = .next ((s.setCtx id { x with
              launches := x.launches ++ [⟨x.nextLaunch, b', b'.cores, 0⟩], nextLaunch := x.nextLaunch + 1 }).modStarted q
              c.index fun y => { y with acted := true })))) ∧
      (cmdOp c.words = 2 → let n := w 2 % 16
        (s.live? id = none → ends .queueFeed s 5) ∧
        (∀ x, s.live? id = some x → let f := s.feed x n; let who : Who := .core id 0
          (f.lcap = 0 → ends .queueFeed s 5) ∧
          -- a FEED of this queue to this feed that started earlier and is still to be appended
          let before := ∃ pre d post, e.started = pre ++ d :: post ∧ (∀ y ∈ pre ++ [d], y.index ≠ c.index) ∧ d.status = none ∧
            cmdOp d.words = 2 ∧ cmdWord d.words 2 % 16 = n
          (f.lcap ≠ 0 → before → exec .queueFeed s = .next s) ∧
          (f.lcap ≠ 0 → ¬before → cmdNb c.words = true → f.room = 0 → ends .queueFeed s 3) ∧
          (f.lcap ≠ 0 → ¬before → cmdNb c.words = false → f.room = 0 → exec .queueFeed s = .next s) ∧
          let free := f.lcap ≠ 0 ∧ ¬before ∧ f.room ≠ 0
          (free → w 1 % 64 ≠ 0 ∨ inLocal (w 1) = true → ends .queueFeed s 5) ∧
          (free → w 1 % 64 = 0 → inLocal (w 1) = false → s.asleep x.desc = true →
            exec .queueFeed s = .next (s.wake ⟨.dram, 0, id, 0⟩)) ∧
          (∀ from_ at_, free → w 1 % 64 = 0 → inLocal (w 1) = false → s.asleep x.desc = false → x.waiting (onFeed n) = false →
            checkRange who .load (w 1) 64 s = .ok (from_, s) →
            checkRange who .store (f.base + 64 * (f.put % 2 ^ f.lcap)) 64 s = .ok (at_, s) →
            let u := (s.put who at_ (s.readLocs from_)).setFeed id x n { f with put := (f.put + 1) % 2 ^ 32 }
            (s.anyPoison from_ = false → ends .queueFeed u 0) ∧
            (s.anyPoison from_ = true → ends .queueFeed (u.countPoison id 0) 0)))) ∧
      (let good := w 1 < 256 ∧ 1 ≤ w 2 ∧ w 2 ≤ 65536;
        (cmdOp c.words = 3 → ¬good → ends .stitchSig s 4) ∧ (cmdOp c.words = 4 → ¬good → ends .stitchWait s 4) ∧
        (s.live? id = none → good →
          (cmdOp c.words = 3 → ends .stitchSig s 5) ∧ (cmdOp c.words = 4 → ends .stitchWait s 5)) ∧
        (∀ x, s.live? id = some x → good →
          let set_ (t : Stitch) (v : Nat) : State := s.setCtx id { x with stitches := assocPut x.stitches (w 1) { t with count := v } }
          (assocGet x.stitches (w 1) = none →
            (cmdOp c.words = 3 → ends .stitchSig s 5) ∧ (cmdOp c.words = 4 → ends .stitchWait s 5)) ∧
          (∀ t, assocGet x.stitches (w 1) = some t →
            (cmdOp c.words = 3 → q ≠ .user t.sig → ends .stitchSig s 5) ∧
            (cmdOp c.words = 3 → q = .user t.sig → ends .stitchSig (set_ t (min (t.count + w 2) (2 ^ 32 - 1))) 0) ∧
            (cmdOp c.words = 4 → q ≠ .user t.wait → ends .stitchWait s 5) ∧
            (cmdOp c.words = 4 → q = .user t.wait → t.count < w 2 → exec .stitchWait s = .next s) ∧
            (cmdOp c.words = 4 → q = .user t.wait → w 2 ≤ t.count → ends .stitchWait (set_ t (t.count - w 2)) 0)))) ∧
      (cmdOp c.words = 5 → ends .qfence s 0) ∧
      (cmdOp c.words = 6 → let n := 2 ^ w 3; let who := s.queueWho q e
        (3 < w 3 → ends .write s 4) ∧
        (w 3 ≤ 3 → w 1 % n ≠ 0 ∨ (q ≠ .driver ∧ inLocal (w 1) = true) → ends .write s 5) ∧
        (∀ at_ u, w 3 ≤ 3 → w 1 % n = 0 → (q ≠ .driver → inLocal (w 1) = false) →
          (q = .driver → s.dramSref = true → Config.dramBytes ≤ w 1) → checkRange who .store (w 1) n s = .ok (at_, u) →
          ends .write (u.put who at_ (natToBytes n (w 2))) 0)))) ∧
  -- when a head command may start: nothing that started holds the queue, and the row of its op
  (∀ (s : State) (q : QueueRef) (e : Queue) (w : List Word), let op := cmdOp w; let n := cmdWord w 2 % 16
    let idle := ∀ c ∈ e.started, c.status ≠ none
    let held := ∃ c ∈ e.started, c.status = none ∧ (cmdOp c.words = 4 ∨ (cmdOp c.words = 2 ∧ cmdNb c.words = false))
    (held → s.canStart q e w = false) ∧
    (¬held →
      (2 ^ 9 ≤ cmdWord w 0 → s.canStart q e w = true) ∧
      (cmdWord w 0 < 2 ^ 9 → op = 3 ∨ op = 5 → (s.canStart q e w = true ↔ idle)) ∧
      (cmdWord w 0 < 2 ^ 9 → op ≠ 3 → op ≠ 5 → (q = .driver ∨ op ∉ [2, 4] ∨ (op = 2 ∧ cmdNb w = true)) →
        s.canStart q e w = true) ∧
      (∀ x, cmdWord w 0 < 2 ^ 9 → q ≠ .driver → op = 2 → cmdNb w = false → s.live? (s.queueCtx e) = some x →
        (s.canStart q e w = true ↔ (s.feed x n).lcap = 0 ∨ 1 ≤ (s.feed x n).room)) ∧
      (∀ x k, cmdWord w 0 < 2 ^ 9 → q = .user k → op = 4 → s.live? (s.queueCtx e) = some x → (s.canStart q e w = true ↔
        ∀ t, assocGet x.stitches (cmdWord w 1) = some t → t.wait = k → cmdWord w 1 < 256 → 1 ≤ cmdWord w 2 →
          cmdWord w 2 ≤ 65536 → cmdWord w 2 ≤ t.count)))) ∧
  -- the commands that complete as they start: an unknown op, a reserved bit, one that its queue may not carry
  (∀ (q : QueueRef) (w : List Word), let op := cmdOp w; let known := cmdWord w 0 < 2 ^ 9 ∧ 1 ≤ op ∧ op ≤ 7
    (¬known → atOnce q w = some 4) ∧
    (known → q = .driver → atOnce q w = if op ∈ [5, 6, 7] then none else some 4) ∧
    (∀ n, known → q = .user n → atOnce q w = if op = 7 then some 6 else none)) ∧
  -- the slots that take part in a draw, in ascending order, with their tickets
  (∀ s : State,
    let takes (n : Nat) (x : Eligible) : Prop := assocGet s.slots n = some x.q ∧ assocGet s.queues x.q = some x.e ∧
      x.e.bound = true ∧ x.e.closing = false ∧ x.e.tail ≠ x.e.head ∧
      (x.q ≠ .driver → ∃ c, s.live? (bits (s.physNat (x.e.header + 16) 8) 63 52) = some c ∧ c.resident = true) ∧
      x.words = s.headCommand x.e ∧ s.canStart x.q x.e x.words = true ∧
      x.tickets = max 1 (s.physNat (x.e.header + 16) 8 % 2 ^ 16)
    ∃ ns : List Nat, ns.Pairwise (· < ·) ∧ List.Forall₂ takes ns s.eligible ∧ ∀ n, n ∈ ns ↔ n < 64 ∧ ∃ x, takes n x) ∧
  -- what the front end reads: zero on a discarded page, all ones from a poisoned line; and the accesses held for the DRAM
  (∀ (s : State) (pa n : Nat), s.physNat pa n =
    if (s.discardedOf pa).isSome then 0 else if pa / 64 ∈ s.poison then 256 ^ n - 1 else s.mem.readNat pa n) ∧
  (∀ (s : State) (pa : Nat), s.asleep pa = (s.dramSref && decide (pa < Config.dramBytes))) ∧
  (∀ (s : State) (pa : Nat) (bs : List Byte) (q : QueueRef) (tail : Word) (rest : List HostAccess),
    let counted := s.physWrite pa (natToBytes 4 (min (s.physNat pa 4 + 1) (2 ^ 32 - 1)))
    releaseHeld [] s = .ok ((), s) ∧ releaseHeld (.count pa :: rest) s = releaseHeld rest counted ∧
    releaseHeld (.header pa :: rest) s = releaseHeld rest (s.bindDriver pa) ∧
    releaseHeld (.access pa bs :: rest) s = releaseHeld rest (s.hostAccess pa bs) ∧
    (∀ t, announce q tail s = .ok ((), t) → releaseHeld (.notify q tail :: rest) s = releaseHeld rest t) ∧
    ∀ (e : Queue) (code va : Nat), e.header + 28 = pa →
      let u := if s.asleep pa then State.wake { s with heldHost := s.heldHost ++ [.count pa] } ⟨.dram, 0, 0, 0⟩ else counted
      s.loseStatus q e code va = if q = .driver then u else u.postFault (u.queueCtx e) 0 0 9 code 0 va 0 0) ∧
  -- the status word
  (∀ (s : State) (q : QueueRef) (e : Queue) (c : Started) (code detail : Nat), assocGet s.queues q = some e →
    e.started.find? (fun x => decide (x.index = c.index)) = some c →
    let v : Word := BitVec.ofNat 64 (c.index % 2 ^ 32 * 2 ^ 32 + detail % 256 * 256 + code)
    let m := s.modStarted q c.index fun x => { x with status := some v }
    let e' : Queue := { e with started := e.started.filter fun x => decide (x.index ≠ c.index) }
    let gone (u : State) : State := { u with queues := assocPut u.queues q e' }
    let va := cmdWord c.words 7; let who := s.queueWho q e
    (va = 0 → complete q c.index code detail s = .ok ((), gone m)) ∧
    (∀ ls u, va ≠ 0 → va % 8 = 0 → (q ≠ .driver → inLocal va = false) →
      (q = .driver → s.dramSref = true → Config.dramBytes ≤ va) → checkRange who .store va 8 m = .ok (ls, u) →
      checkRange who .store va 8 u = .ok (ls, u) → u.anyPoison ls = false → u.queues = m.queues →
      complete q c.index code detail s = .ok ((), gone (u.put who ls (natToBytes 8 v.toNat)))) ∧
    (∀ fault addr pois n, let met := if fault = codePois ∧ q ≠ .driver then m.countPoison (m.queueCtx e) 0 else m
      va ≠ 0 → statusStep who va v m = .error (.fault fault addr pois n) → fault ≠ codePage →
      fault ≠ codeRes → (met.loseStatus q e fault va).queues = m.queues →
      complete q c.index code detail s = .ok ((), gone (met.loseStatus q e fault va))))

/-! ## The functions of FWCALL, and SYSC -/

/-- The firmware's functions (R247, R271, R317, R323, R329, R335, R339, R349, R360, R364, R365, R367, R375, R376): the oldest
call alone is served, while firmware runs; each function's details of failure and its effect; a call that must wait changes
nothing but what it began. What a call closes with is stored, later unknown calls fail, and queues are mapped. The model's
choices in it: logs 33, 34, 47, 49, a pinned page log 62, and what a residency reads again log 58. -/
def Obligations.FirmwareCalls : Prop :=
  (∀ (s : State),
    (∀ p ∈ [(1, Instr.create), (2, .destroy), (3, .preempt), (4, .reside), (5, .fate), (6, .qbind), (7, .qunbind), (8, .stitch),
        (9, .pageres), (10, .power), (11, .trigger), (12, .epoch)],
      s.mc.recovery = true ∨ (∀ call, s.oldestCall = some call → cmdWord call.words 1 ≠ p.1) → exec p.2 s = .next s)) ∧
  (∀ (s : State) (call : Started), s.oldestCall = some call → s.mc.recovery = false → s.dramSref = false →
    let fn := cmdWord call.words 1; let arg (n : Nat) : Nat := cmdWord call.words (n + 2); let id := arg 0
    -- the call of instruction i closes with a detail, in the package u
    let closes (i : Instr) (u : State) (d : Nat) : Prop := ∀ v x t,
      complete .driver call.index (if d = 0 then 0 else 7) d u = .ok ((), v) → serveUnknown v.callsStarted v = .ok ((), x) →
      mapQueues x.mapWait.length x = .ok ((), t) → exec i s = .next t
    let goes (i : Instr) (u : State) : Prop := exec i s = .next u
    -- CREATE
    (fn = 1 → let pa := arg 0; let name := bits (s.physNat pa 8) 63 52
      (pa % 512 ≠ 0 ∨ Config.hostBase ≤ pa ∨ memExists pa = false → closes .create s 1) ∧
      (pa % 512 = 0 → pa < Config.hostBase → memExists pa = true →
        ((s.ctx? name).isSome = true ∨ (∃ e ∈ s.scrub, e.ctx = name) → closes .create s 3) ∧
        (s.ctx? name = none → (∀ e ∈ s.scrub, e.ctx ≠ name) →
          (s.describe pa = none → closes .create s 1) ∧
          (∀ c, s.describe pa = some c →
            let keyed := c.pk = true → assocGet s.keys c.keySlot = none ∧ ∀ e ∈ s.scrub, e.slot ≠ c.keySlot
            (¬keyed → closes .create s 1) ∧
            ∀ u, keyed → placeCtx name c s = .ok ((), u) → closes .create u 0)))) ∧
    -- DESTROY, PREEMPT, RESIDE, PAGERES, TRIGGER, EPOCH of no context
    (s.live? id = none → ∀ p ∈ [(2, Instr.destroy), (3, .preempt), (4, .reside), (9, .pageres), (11, .trigger), (12, .epoch)],
      fn = p.1 → closes p.2 s 4) ∧
    (∀ c, s.live? id = some c → let u := s.preemptCtx id true; let m := u.harvest
      (fn = 2 → u.engineWork id = true → goes .destroy u) ∧
      (fn = 2 → u.engineWork id = false → c.pk = false → closes .destroy (m.forget id) 0) ∧
      (fn = 2 → u.engineWork id = false → c.pk = true → let list := m.scrub ++ [⟨id, c.ptroot, c.keySlot⟩]
        closes .destroy ({ m with
          keys := assocDel m.keys c.keySlot, scrub := list, queues := m.orphaned id
          migQueue := m.migQueue.filter fun n => decide (n ≠ id)
          scrb := if m.scrub = [] then scrbWord list 1 0 else m.scrb + 2 ^ 32 }.modCtx id fun x =>
            { x with dead := true, onBi := false, migrating := false, reports := [] }) 0) ∧
      (fn = 3 → u.engineWork id = true → goes .preempt u) ∧ (fn = 3 → u.engineWork id = false → closes .preempt u 0) ∧
      (fn = 4 → c.resident = true → closes .reside s 0) ∧
      (fn = 4 → c.resident = false → s.residentRoom = none → goes .reside s) ∧
      (∀ s' v, fn = 4 → c.resident = false → s.residentRoom = some s' → makeResident id s' = .ok ((), v) →
        closes .reside v 0) ∧
      (fn = 9 → let va := arg 1; let flag := arg 2
        (1 < flag ∨ 2 ^ 48 ≤ va → closes .pageres s 1) ∧
        (flag ≤ 1 → va < 2 ^ 48 →
          ((∀ pte at_, walk s.mem c.ptroot va = some (pte, false, at_) → bits pte 57 46 ≠ id) → closes .pageres s 1) ∧
          (∀ pte at_, walk s.mem c.ptroot va = some (pte, false, at_) → bits pte 57 46 = id →
            (∀ n, storePage (leafBase pte false) = some n → flag = 1 → closes .pageres s 0) ∧
            (storePage (leafBase pte false) = none → flag = 0 → closes .pageres s 0) ∧
            (storePage (leafBase pte false) = none → flag = 1 →
              (s.freeStore = [] → closes .pageres s 7) ∧
              (∀ n rest, s.freeStore = n :: rest → (bitOf pte 8 = true → closes .pageres s 1) ∧
                (bitOf pte 8 = false → closes .pageres (s.movePage id c va pte false at_ (storePa n)) 0))) ∧
            (∀ n, storePage (leafBase pte false) = some n → flag = 0 → let pa := s.arg.word.toNat
              (pa % 2 ^ 16 ≠ 0 ∨ Config.dramBytes ≤ pa → goes .pageres s) ∧
              (pa % 2 ^ 16 = 0 → pa < Config.dramBytes → (bitOf pte 8 = true → closes .pageres s 1) ∧
                (bitOf pte 8 = false → closes .pageres (s.movePage id c va pte false at_ pa) 0)))))) ∧
      (fn = 11 → (3 < arg 1 → closes .trigger s 1) ∧ (arg 1 ≤ 3 → let t := s.trigEntry c (arg 1)
        let v := s.setCtx id { c with trig := assocPut c.trig (arg 1) ⟨true, s.queueLow t, 0⟩ }
        closes .trigger (if 5 ≤ t.kind then v.setErr id 0 errWl else v) 0)) ∧
      (fn = 12 → (255 < arg 1 → closes .epoch s 1) ∧
        (arg 1 ≤ 255 → closes .epoch
          ((s.physWrite (c.desc + 0x30) [BitVec.ofNat 8 (arg 1)]).modCtx id fun x => { x with epoch := arg 1 }) 0))) ∧
    -- FATE
    (fn = 5 → (2 < arg 1 → closes .fate s 1) ∧ (arg 1 ≤ 2 →
      ((∀ p ∈ s.ctxs, ∀ fr ∈ p.2.frames, fr.addr = arg 0 → fr.status ≠ .host) → closes .fate s 5) ∧
      (∀ n fr, s.fateFrame (arg 0) = some (n, fr) →
        (arg 1 = 0 → closes .fate (s.requeue n fr.addr) 0) ∧
        (arg 1 = 1 → closes .fate ((s.modFrame n fr.addr fun f =>
          { f with task := { f.task with pc := f.task.pc + BitVec.ofNat 64 f.len }, placed := false }).requeue n fr.addr) 0) ∧
        (arg 1 = 2 → closes .fate ((((s.modCtx n fun x =>
          { x with frames := x.frames.filter fun f => decide (f.addr ≠ fr.addr) }).transition fr.task 7).initialEnded
            fr.task).openCh1 fr.task) 0)))) ∧
    -- QBIND, QUNBIND, STITCH
    (fn = 6 → let n := arg 0; let a := arg 1; let lcap := bits (s.physNat a 8) 3 0; let w2 := s.physNat (a + 16) 8
      let name := bits w2 63 52
      let taken := ∃ e, assocGet s.queues (.user n) = some e ∧ e.bound = true
      let head := s.physNat (a + 8) 4;
      (4095 < n ∨ a % 64 ≠ 0 ∨ 2 ^ 48 ≤ a ∨ memExists a = false → closes .qbind s 1) ∧
      (n ≤ 4095 → a % 64 = 0 → a < 2 ^ 48 → memExists a = true →
        (lcap < 4 ∨ 12 < lcap → closes .qbind s 1) ∧
        (4 ≤ lcap → lcap ≤ 12 →
          (taken → closes .qbind s 6) ∧ (¬taken → s.live? name = none → closes .qbind s 4) ∧
          (¬taken → s.live? name ≠ none → bitOf w2 16 = true → 64 ≤ s.rtQueues → closes .qbind s 2) ∧
          (¬taken → s.live? name ≠ none → bitOf w2 16 = false ∨ s.rtQueues < 64 → closes .qbind
            (State.noteDepth { s.frontSeen with
              queues := assocPut s.queues (.user n) ⟨a, head, head, true, bitOf w2 16, false, []⟩ } (.user n)) 0)))) ∧
    (fn = 7 → let n := arg 0
      (4095 < n → closes .qunbind s 1) ∧
      (n ≤ 4095 → (s.openQueue (.user n) = none → closes .qunbind s 0) ∧
        (∀ e, s.openQueue (.user n) = some e →
          (e.started = [] → closes .qunbind (State.noteDepth { s.frontSeen with
            queues := assocDel s.queues (.user n)
            slots := s.slots.filter fun p => decide (p.2 ≠ .user n)
            mapWait := s.mapWait.filter fun r => decide (r ≠ .user n) } (.user n)) 0) ∧
          (e.started ≠ [] →
            goes .qunbind { s with queues := assocPut s.queues (.user n) { e with closing := true } })))) ∧
    (fn = 8 → let n := arg 0; let a := arg 1; let b := arg 2
      let inCtx (k name : Nat) : Prop :=
        ∃ e c, s.openQueue (.user k) = some e ∧ s.queueCtx e = name ∧ s.live? name = some c
      (255 < n ∨ 4095 < a ∨ 4095 < b → closes .stitch s 1) ∧
      (n ≤ 255 → a ≤ 4095 → b ≤ 4095 →
        ((∀ name, inCtx a name → ¬inCtx b name) → closes .stitch s 6) ∧
        (∀ name c, inCtx a name → inCtx b name → s.live? name = some c →
          closes .stitch (s.setCtx name { c with stitches := assocPut c.stitches n ⟨a, b, 0⟩ }) 0))) ∧
    -- POWER
    (fn = 10 → let cap := arg 0; let idle := arg 1
      (45000 < cap ∨ idle = 0 ∨ 2 ^ 20 < idle → closes .power s 1) ∧
      (cap ≤ 45000 → 1 ≤ idle → idle ≤ 2 ^ 20 →
        closes .power { s with power := { s.power with cap := cap, idle := idle } } 0))) ∧
  -- EPOCH writes the descriptor: one in a DRAM in SREF wakes it first
  (∀ (s : State) (call : Started) (c : Ctx), s.oldestCall = some call → s.mc.recovery = false → s.dramSref = true →
    cmdWord call.words 1 = 12 → s.live? (cmdWord call.words 2) = some c → cmdWord call.words 3 ≤ 255 →
    c.desc < Config.dramBytes → exec .epoch s = .next (s.wake ⟨.dram, 0, 0, 0⟩)) ∧
  -- a page moved by PAGERES: its entry names the new frame, with sir set outside DRAM, and the page store lends it (R339); a move
  -- between device and host memory counts in mig and opens a window, and the fourth of a run pins the page (R315)
  (∀ (s : State) (id : Nat) (c : Ctx) (va pte at_ dst : Nat), let t := s.movePage id c va pte false at_ dst
    let src := leafBase pte false; let sir := if dst < Config.dramBytes then 0 else 1
    let to_ := withField (withFrame pte dst) 9 1 sir
    let copied := s.copyFrame (s.leafKey c pte) src dst (2 ^ 16)
    let across := ¬(2 ^ 47 ≤ src ↔ 2 ^ 47 ≤ dst)
    let page := (va / 2 ^ 16, 2 ^ 16); let rest := c.moveWindows.filter fun p => decide (p ≠ page)
    let run := if page ∈ c.moveWindows then bits pte 45 43 else 0
    (¬across → t = { copied.setEntry id va at_ to_ false with store := t.store }) ∧
    (across → run < 3 → t = { (copied.setEntry id va at_ (withField to_ 43 3 (run + 1)) false).modCtx id
      fun x => { x with moveWindows := page :: rest } with store := t.store }) ∧
    (across → 3 ≤ run → t = { (copied.setEntry id va at_ (withField (withField to_ 43 3 0) 8 1 1) false).modCtx id
      fun x => { x with moveWindows := rest } with store := t.store }) ∧
    (∀ n, storePage dst = some n → assocGet t.store n = some (.page id (va / 2 ^ 16 * 2 ^ 16))) ∧
    (∀ n, storePage src = some n → storePage dst ≠ some n → assocGet t.store n = none)) ∧
  -- a context created, pre-empted, forgotten
  (∀ (s : State) (pa : Nat) (c : Ctx), s.describe pa = some c → let w (off : Nat) : Nat := s.physNat (pa + off) 8
    c.desc = pa ∧ c.pk = bitOf (w 0) 5 ∧ c.ptroot = bits (w 8) 47 17 * 2 ^ 17 ∧ c.hlim.toNat = bits (w 0x18) 47 21 * 2 ^ 21 ∧
    c.hoff.toNat = bits (w 0x20) 47 16 * 2 ^ 16 ∧ c.capKey.toNat = w 0x28 ∧ c.epoch = bits (w 0x30) 7 0 ∧
    c.ebud.toNat = w 0x38 ∧ c.arenaBase = bits (w 0x48) 47 12 * 2 ^ 12 ∧ c.arenaPages = bits (w 0x48) 11 0 ∧
    c.nodeBase = bits (w 0x50) 47 12 * 2 ^ 12 ∧ c.nodePages = bits (w 0x50) 11 0 ∧ c.bolt = bits (w 0x58) 47 12 * 2 ^ 12 ∧
    c.faultRing = bits (w 0x60) 47 6 * 64 ∧ c.faultLcap = bits (w 0x60) 3 0 ∧ 4 ≤ c.faultLcap ∧ c.faultLcap ≤ 12 ∧
    (s.feature 3 = true → 4 ≤ bits (w 0x68) 3 0 ∧ bits (w 0x68) 3 0 ≤ 12) ∧ c.traceOn = (s.feature 3 && bitOf (w 0x68) 4) ∧
    bits (w 0x10) 5 4 ≠ 3 ∧ (∀ e < 4, let w0 := w (0xC0 + 16 * e); let w1 := w (0xC8 + 16 * e)
      bits w0 57 48 = 0 ∧ bits w0 4 0 = 0 ∧ (bits w0 63 60 ≠ 1 → bits w0 63 60 ≠ 4 → bits w1 11 0 = 0)) ∧
    c.mbox = 0x0F33333F ∧ c.lvl = 0xC002C6DB ∧ c.onBi = false ∧ c.cores = [] ∧ w 0x98 = 0) ∧
  (∀ (s : State) (c : Ctx), let r := s.reread c
    r.ebud.toNat = s.physNat (c.desc + 0x38) 8 / 2 ^ 48 * 2 ^ 48 + c.ebud.toNat % 2 ^ 48 ∧ r.cores = c.cores ∧
    r.frames = c.frames ∧ r.hbase = c.hbase ∧ r.hlim = c.hlim ∧ r.hoff = c.hoff ∧
    ∀ d, s.describe c.desc = some d → r.ptroot = d.ptroot ∧ r.capKey = d.capKey ∧ r.epoch = d.epoch ∧
      r.refusal = d.refusal ∧ r.faultRing = d.faultRing ∧ r.faultLcap = d.faultLcap ∧ r.bolt = d.bolt ∧
      r.nodeBase = d.nodeBase ∧ r.arenaBase = d.arenaBase ∧ d.arenaPages ≤ r.arenaPages) ∧
  (∀ (s : State) (id : Nat) (c : Ctx) (u : State), s.ctx? id = none → placeCtx id c s = .ok ((), u) →
    u.featLock = true ∧ (∀ n, n ≠ id → (s.ctx? n).isSome = (u.ctx? n).isSome) ∧ (u.ctx? id).isSome = true) ∧
  (∀ (s : State) (id : Nat) (c : Ctx) (explicit : Bool), s.ctx? id = some c → assocGet s.parked s.cur = none →
    let u := s.preemptCtx id explicit
    (∀ slot t, u.taskAt slot = some t → t.ctx ≠ id ∨ t.priv = true ∨ (u.copyOf slot).isSome = true) ∧
    ((∃ k ∈ u.copies, k.ctx = id) → u.engineWork id = true) ∧
    ∃ c', u.ctx? id = some c' ∧ c'.resident = false ∧ c'.explicit = (c.explicit || explicit)) ∧
  (∀ (s : State) (id : Nat), let u := s.forget id
    u.ctx? id = none ∧ (∀ n, n ≠ id → u.ctx? n = s.ctx? n) ∧ (∀ e ∈ u.tlb, e.ctx ≠ id) ∧ (∀ m ∈ u.msgs, m.ctx ≠ id) ∧
    (∀ row ∈ u.logits, row.ctx ≠ id) ∧ (∀ r ∈ u.heldEntries, r.ctx ≠ id) ∧ (∀ d ∈ u.dirtyMaps, d.ctx ≠ id) ∧
    id ∉ u.migQueue ∧ (∀ k ∈ u.copies, k.ctx ≠ id) ∧ (∀ w ∈ u.causes, w.ctx = id → w.record = 0) ∧
    ∀ l < 512, ∀ off < 2 ^ 17, u.stash.read (stashKey id l off) = 0) ∧
  -- SYSC
  (∀ s : State, (s.mc.recovery = true ∨ s.sysc[s.arg.i]? = none → exec .syscService s = .next s) ∧
    (∀ q c, s.mc.recovery = false → s.sysc[s.arg.i]? = some q → s.ctx? q.ctx = some c →
      let x1 := ((q.args[0]?).getD 0).toNat; let target := bits x1 51 44
      let hi := q.ctx * 2 ^ 20 + bits x1 51 40 * 2 ^ 8 + c.epoch
      let cap : Word := BitVec.ofNat 64 (hi * 2 ^ 32 + (crng c.capKey (BitVec.ofNat 128 hi)).toNat % 2 ^ 32)
      let y : Word := if q.n = 0 then 0
        else if q.n = 1 ∧ (0x40 ≤ target → 0x80 ≤ target ∧ target < 0x90) then cap else BitVec.allOnes 64
      exec .syscService s = .next ((State.modFrame { s with sysc := s.sysc.eraseIdx s.arg.i } q.ctx q.addr fun fr =>
        { fr with task := { fr.task with x := fr.task.x.set 1 y }, placed := false }).requeue q.ctx q.addr)))

/-! ## The management controller -/

/-- The MC's events (R369 to R377): a mailbox command is not begun while another runs; the reports fill the data buffer; an
image is staged with no context, verified, programmed, booted from; power-on, device reset, MC reset and power loss leave what
each keeps; an image that does not verify, an SPI NOR that does not answer and a population that is not listed are logged;
junction protection holds the rails at point 0 until every sensor is below 100, and removes power at 115; the scrub engine
zeroes the stash and tile images and the page-store pages of a destroyed context, then frame after frame of its walk, and then
its id is free. The model's choices in it: what DRAM and host memory read as after power-on log 1, the backing store that a
reset leaves log 13, the power state at reset log 16, the boot, the layout of a signed image and what a device reset keeps of
the MC log 17, the integrals that it keeps log 66, what the MC reports log 35, the pieces of the scrub log 50, and the
firmware cores' clusters log 54. -/
def Obligations.ManagementEvents : Prop :=
  (∀ s : State,
    let report (m : Mc) (bs : List Byte) : State := { s with mc := { m with
      data := bs.take 4096 ++ ((m.data ++ List.replicate 4096 0).take 4096).drop (bs.take 4096).length, status := 0 } }
    let ended (st : Nat) : State := { s with mc := { s.mc with status := st } }
    let from_ := bytesToNat (s.mc.data.take 8) % 2 ^ 32
    let logs := (s.mc.log.filter fun e => decide ((e.1 + 2 ^ 32 - from_) % 2 ^ 32 < 2 ^ 31)).take 128
    let image := s.mem.readBytes Config.pageStoreBase s.mc.staged
    let some_ := ∃ p ∈ s.ctxs, p.2.dead = false
    (s.mc.status = 1 → ∀ i ∈ [Instr.log, .sensors, .integrals, .repair, .ecc, .stage, .recover], exec i s = .next s) ∧
    (s.mc.status ≠ 1 →
      exec .log s = .next (report s.mc (logs.flatMap fun e => natToBytes 8 (e.1 * 2 ^ 32 + e.2.1) ++
        natToBytes 8 e.2.2.1 ++ natToBytes 8 e.2.2.2.1.toNat ++ natToBytes 8 e.2.2.2.2.toNat)) ∧
      exec .sensors s = .next (report s.mc (Config.sensorReport s.mc.sensors)) ∧
      exec .integrals s = .next (report s.mc (Config.integralReport
        (regions.map fun r => (s.thermal r, tableGet s.power.reliability r)))) ∧
      exec .repair s = .next (report s.mc Config.repairReport) ∧
      exec .ecc s = .next (report { s.mc with ecc := [] } (Config.eccReport s.mc.ecc)) ∧
      (some_ ∨ 4096 < s.mc.length ∨ 2 ^ 23 < s.mc.staged + s.mc.length → exec .stage s = .next (ended 3)) ∧
      (¬some_ → s.mc.length ≤ 4096 → s.mc.staged + s.mc.length ≤ 2 ^ 23 → let at_ := Config.pageStoreBase + s.mc.staged
        ∃ t, exec .stage s = .next t ∧
        t = { s with mem := t.mem, poison := t.poison
                     mc := { s.mc with staged := s.mc.staged + s.mc.length, status := 0 } } ∧
        (∀ k < s.mc.length, t.mem.read (at_ + k) = (s.mc.data[k]?).getD 0) ∧
        (∀ a, a < at_ ∨ at_ + s.mc.length ≤ a → t.mem.read a = s.mem.read a) ∧
        ∀ l, l ∈ t.poison ↔ l ∈ s.poison ∧ ¬(at_ ≤ 64 * l ∧ 64 * l + 64 ≤ at_ + s.mc.length)) ∧
      (s.mc.recovery = false → some_ → exec .recover s = .next (ended 3)) ∧
      (s.mc.recovery = true ∨ ¬some_ →
        (imageVerifies Config.fusedKeyHash image = true → exec .recover s =
          .next { s with mc := { s.mc with image := image, recovery := false, status := 0 } }) ∧
        (imageVerifies Config.fusedKeyHash image = false → exec .recover s = .next (ended 2))) ∧
      (s.mc.programming = false →
        (imageVerifies Config.fusedKeyHash image = true →
          exec .commit s = .next { s with mc := { s.mc with programming := true, prog := image, status := 1 } }) ∧
        (imageVerifies Config.fusedKeyHash image = false → exec .commit s = .next (ended 2)))) ∧
    (s.mc.programming = false → s.mc.status = 1 → exec .commit s = .next s) ∧
    (s.mc.programming = true → exec .commit s = .next { s with mc := { s.mc with
      nor := s.mc.prog, norValid := true, programming := false, prog := [], status := 0 } })) ∧
  -- the signature of an image: its key's hash is the fused one, and ECDSA over P-384 and SHA-384 accepts it
  (let be (bs : List Byte) : Nat := bytesToNat bs.reverse;
    (∀ (fused : Nat) (image : List Byte), image.length < 192 → imageVerifies fused image = false) ∧
    (∀ (fused : Nat) (body key sig : List Byte), key.length = 96 → sig.length = 96 →
      (imageVerifies fused (body ++ key ++ sig) = true ↔ sha384 key = fused ∧
        ecdsaVerifies (be (key.take 48)) (be (key.drop 48)) (sha384 body) (be (sig.take 48)) (be (sig.drop 48)) = true)) ∧
    (∀ x y digest r s : Nat, ecdsaVerifies x y digest r s = true ↔
      x < p384 ∧ y < p384 ∧ (y : ZMod p384) ^ 2 = (x : ZMod p384) ^ 3 - 3 * x + b384 ∧ 0 < r ∧ r < n384 ∧ 0 < s ∧ s < n384 ∧
      let w := s ^ (n384 - 2) % n384
      let q := (g384.times 384 (digest * w % n384)).add (CurvePoint.times ⟨x, y, 1⟩ 384 (r * w % n384))
      q.z ≠ 0 ∧ q.x * ((q.z * q.z) ^ (p384 - 2) % p384) % p384 % n384 = r) ∧
    -- the points of the curve: ⟨X, Y, Z⟩ stands for (X / Z^2, Y / Z^3)
    (let stands (q : CurvePoint) (x y : ZMod p384) : Prop := (q.x : ZMod p384) = x * q.z ^ 2 ∧ (q.y : ZMod p384) = y * q.z ^ 3;
      (∀ (q r : CurvePoint) (x y x' y' l : ZMod p384), q.z ≠ 0 → r.z ≠ 0 → stands q x y → stands r x' y' →
        (x' - x) * (q.z * r.z) ^ 2 ≠ 0 → l * (x' - x) = y' - y →
        stands (q.add r) (l ^ 2 - x - x') (l * (x - (l ^ 2 - x - x')) - y)) ∧
      (∀ (q : CurvePoint) (x y l : ZMod p384), stands q x y → l * (2 * y) = 3 * x ^ 2 - 3 →
        stands q.double (l ^ 2 - 2 * x) (l * (x - (l ^ 2 - 2 * x)) - y)) ∧
      (∀ q r : CurvePoint, (q.z = 0 → q.add r = r) ∧ (q.z ≠ 0 → r.z = 0 → q.add r = q)) ∧
      (∀ (q : CurvePoint) (n k : Nat), q.times 0 k = ⟨1, 1, 0⟩ ∧ q.times (n + 1) (2 * k) = (q.times n k).double ∧
        q.times (n + 1) (2 * k + 1) = ((q.times n k).double).add q)) ∧
    -- the constants, and the published examples of FIPS 180-4 and of RFC 6979 for P-384
    p384 =
      0xFFFFFFFFFFFFFFFFFFFFFFFFFFFFFFFFFFFFFFFFFFFFFFFFFFFFFFFFFFFFFFFEFFFFFFFF0000000000000000FFFFFFFF ∧ g384.z = 1 ∧ onCurve g384.x g384.y = true ∧ (g384.times 384 n384).z = 0 ∧
    sha384 [0x61, 0x62, 0x63] =
      0xCB00753F45A35E8BB5A03D699AC65007272C32AB0EDED1631A8B605A43FF5BED8086072BA1E7CC2358BAECA134C825A7 ∧
    ecdsaVerifies
      0xEC3A4E415B4E19A4568618029F427FA5DA9A8BC4AE92E02E06AAE5286B300C64DEF8F0EA9055866064A254515480BC13
      0x8015D9B72D7D57244EA8EF9AC0C621896708A59367F9DFB9F54CA84B3F1C9DB1288B231C3AE0D4FE7344FD2533264720
      (sha384 [0x73, 0x61, 0x6D, 0x70, 0x6C, 0x65])
      0x94EDBB92A5ECB8AAD4736E56C691916B3F88140666CE9FA73D64C4EA95AD133C81A648152E44ACF96E36DD1E80FABE46
      0x99EF4AEB15F178CEA1FE40DB2603138F130E740A19624526203B6351D0A3A94FA329C145786E679E7B82C71A38628AC8 = true) ∧
  -- booting, and what a reset leaves
  (∀ (s : State) (silent : Bool),
    let ok := silent = false ∧ s.mc.norValid = true ∧ s.mc.programming = false ∧ imageVerifies Config.fusedKeyHash s.mc.nor = true
    let st (n : Nat) : Nat := if s.mc.status = 1 then 1 else n
    (ok → s.boot silent = { s with mc := { s.mc with image := s.mc.nor, recovery := false, status := st 0 } }) ∧
    (¬ok → s.boot silent = State.logEvent { s with mc := { s.mc with recovery := true, status := st 4 } } 0 none) ∧
    (Config.populationFits = true → s.train = s) ∧ (Config.populationFits = false → s.train = s.logEvent 5 none)) ∧
  (∀ (s : State) (cls : Nat) (names : Option Word), cls < 256 → let t := s.logEvent cls names
    t = { s with free := t.free, mc := { s.mc with time := t.mc.time, seq := (s.mc.seq + 1) % 2 ^ 32, log := t.mc.log } } ∧
    s.mc.time ≤ t.mc.time ∧ ∃ e kept, t.mc.log = kept ++ [e] ∧ e.1 = s.mc.seq ∧ e.2.1 / 2 ^ 24 = cls ∧ e.2.2.1 = t.mc.time ∧
      (∀ n, names = some n → e.2.2.2.1 = n) ∧
      kept = if s.mc.log.length < 1024 then s.mc.log else s.mc.log.drop 1) ∧
  (∀ s : State, let u := s.unpowered; let r := s.wiped
    u = { State.reset with turns := s.turns, arg := s.arg, free := s.free, mem := u.mem, back := u.mem, poison := u.poison, backPoison := u.poison
                           mc := { Mc.init with
                             nor := s.mc.nor, norValid := s.mc.norValid && !s.mc.programming, shutdown := s.mc.shutdown } } ∧
    (∀ a, u.mem.read a = if Config.hostBase ≤ a then s.back.read a else 0) ∧
    (∀ n, n ∈ u.poison ↔ n ∈ s.backPoison ∧ Config.hostBase / 64 ≤ n) ∧
    r = { State.reset with
      turns := s.turns, arg := s.arg, free := s.free, mem := r.mem, back := r.mem, poison := r.poison, backPoison := r.poison
      scrub := r.scrub, scrb := r.scrb, scrubAt := s.scrubAt
      -- the spans of the damage integrals, 60 s and the powered life, are not ended
      power := { Power.init with powered := s.power.powered, windows := s.power.windows, reliability := s.power.reliability }
      mc := { Mc.init with
        status := if s.mc.status = 1 then 1 else 0, log := s.mc.log, seq := s.mc.seq, time := s.mc.time, nor := s.mc.nor
        norValid := s.mc.norValid, programming := s.mc.programming, prog := s.mc.prog, shutdown := s.mc.shutdown } } ∧
    (∀ a, r.mem.read a = if a < Config.pageStoreBase ∨ Config.hostBase ≤ a then s.back.read a else 0) ∧
    (∀ n, n ∈ r.poison ↔ n ∈ s.backPoison ∧ (n < Config.pageStoreBase / 64 ∨ Config.hostBase / 64 ≤ n)) ∧
    (r.scrub = s.scrub ++ (s.ctxs.filter fun p => p.2.pk && !p.2.dead).map fun p => ⟨p.1, p.2.ptroot, p.2.keySlot⟩) ∧
    exec .powerOnReset s = .next (u.boot s.arg.flag).train ∧
    exec .powerLoss s = .next { u with mc := { u.mc with recovery := true } } ∧
    exec .deviceReset s = .next ((r.logEvent 1 none).boot s.arg.flag).train ∧
    (r.scrub = [] → r.scrb = 0) ∧ (s.scrub = [] → r.scrub ≠ [] → r.scrub.length < 64 → bits r.scrb.toNat 45 44 = 1) ∧
    (s.arg.flag = false → exec .mcReset s = .next { s with
      free := s.free + 1
      mc := { s.mc with
        status := 1, length := 0, data := [], ecc := [], pageErrors := [], programming := false, prog := []
        norValid := if s.mc.programming then Config.freeBool s.free else s.mc.norValid } }) ∧
    (s.arg.flag = true → s.mc.status = 1 → s.mc.programming = false → exec .mcReset s =
      .next { s with mc := { s.mc with status := if s.mc.recovery then 4 else 0 } }) ∧
    (s.arg.flag = true → s.mc.status ≠ 1 ∨ s.mc.programming = true → exec .mcReset s = .next s)) ∧
  -- junction protection
  (∀ s : State, let above (n : Int) : Prop := ∃ t ∈ s.mc.sensors, n ≤ t
    (above 105 → s.power.junc = false → ∃ t u : State, exec .junctionProtect s = .next t ∧ t = u.logEvent 3 none ∧
      u = { s with power := { s.power with mx := 0, vx := 0, sm := 0, fb := 0, junc := true, thr := u.power.thr } } ∧
      ∀ si n, u.thrOf (si, n) =
        if n < (if si then 2 else 66) then s.thrOf (si, n) ||| 0x20 else s.thrOf (si, n)) ∧
    (¬above 105 ∨ s.power.junc = true → exec .junctionProtect s = .next s) ∧
    (s.power.junc = true → ¬above 100 →
      exec .junctionRelease s = .next { s with power := { s.power with junc := false } }) ∧
    (s.power.junc = false ∨ above 100 → exec .junctionRelease s = .next s) ∧
    (above 115 → ∃ cause, exec .junctionShutdown s = .next (State.boot { s.unpowered with
      free := s.free + 1
      mc := { s.unpowered.mc with shutdown := cause } } s.arg.flag).train) ∧
    (¬above 115 → exec .junctionShutdown s = .next s)) ∧
  -- the scrub engine
  (∀ s : State, (s.scrub = [] → exec .scrubEntry s = .next s) ∧
    (∀ e rest, s.scrub = e :: rest →
      (s.dramSref = true → exec .scrubEntry s = .next (s.wake ⟨.dram, 0, e.ctx, 0⟩)) ∧
      (s.dramSref = false → ∃ t, exec .scrubEntry s = .next t ∧ let ph := bits s.scrb.toNat 45 44
        (ph ≠ 2 → ph ≠ 3 → t.scrub = s.scrub ∧ t.ctxs = s.ctxs ∧ t.scrubAt = 0 ∧
          t.scrb = scrbWord s.scrub 2 ((pkFrames t.mem e).length % 2 ^ 32) ∧
          (∀ l < 512, ∀ off < 2 ^ 17, t.stash.read (stashKey e.ctx l off) = 0) ∧
          (∀ k < 64 * 131072, t.tile.read (e.ctx * 64 * 131072 + k) = 0) ∧
          (∀ n ∈ s.lentPages e.ctx, ∀ off < 2 ^ 16, t.mem.read (storePa n + off) = 0) ∧
          (∀ a, (∀ n ∈ s.lentPages e.ctx, a < storePa n ∨ storePa n + 2 ^ 16 ≤ a) → t.mem.read a = s.mem.read a)) ∧
        (ph = 2 → t.scrub = s.scrub ∧ t.ctxs = s.ctxs ∧ t.stash = s.stash ∧ t.tile = s.tile ∧
          (∀ before f after, pkFrames s.mem e = before ++ f :: after → (∀ g ∈ before, g.1 < s.scrubAt) → s.scrubAt ≤ f.1 →
            t.scrb = scrbWord s.scrub 2 (bits s.scrb.toNat 31 0 - 1) ∧ t.scrubAt = f.1 + f.2.2 ∧
            (∀ off < f.2.2, t.mem.read (f.2.1 + off) = 0 ∧ t.back.read (f.2.1 + off) = 0) ∧
            ∀ a, a < f.2.1 ∨ f.2.1 + f.2.2 ≤ a → t.mem.read a = s.mem.read a) ∧
          ((∀ f ∈ pkFrames s.mem e, f.1 < s.scrubAt) → t = { s with scrb := scrbWord s.scrub 3 0, scrubAt := 0 })) ∧
        (ph = 3 → t.scrub = rest ∧ t.scrb = scrbWord rest 1 0 ∧ t.scrubAt = 0 ∧ t.ctx? e.ctx = none ∧
          (∀ n, n ≠ e.ctx → t.ctx? n = s.ctx? n) ∧ t.mem = s.mem))))

/-! ## Power, heat, pages, lines and the host -/

/-- The power controller, the sensors, firmware's answers and page moves, errors, the homes of lines, the host's accesses and
the debug port (R43, R127, R136, R142, R143, R145, R314 to R318, R323, R329, R332, R339, R340, R345, R349, R351 to R355, R357,
R359, R368, R373 to R375). The model's choices in it: logs 4, 12, 13, 16, 17, 45, the tile save of a pre-emption, which
changes no value, log 50, spilled entries that no page takes log 7, ring entries that waited for a page and are offered
again log 22, the numbers of the error counters log 35, table writes that break no rule of R339 log 53, the sensors and spare
clusters log 54, and the order of the pages handed to another die log 57. -/
def Obligations.PowerAndMemoryEvents : Prop :=
  -- rails and budgets
  (∀ s : State, let p := s.power; let hot := ∃ r < 36, 90 * 100000 * 2 ^ 32 ≤ s.thermal r
    let past := p.cap < s.arg.i; let wouldPass := p.cap < s.arg.k
    let wish (i cur : Nat) : Nat :=
      if hot ∨ p.limited = true ∨ past then cur - 1 else min 7 (((s.arg.temps[i]?).getD cur).toNat)
    let want (i cur : Nat) : Nat := if wouldPass then min cur (wish i cur) else wish i cur
    let step (i cur : Nat) : Nat := if cur < want i cur then cur + 1 else if want i cur < cur then cur - 1 else cur
    let mx := step 0 p.mx; let vx := step 1 p.vx; let fb := step 2 p.fb
    let late := mx < want 0 p.mx ∨ vx < want 1 p.vx ∨ fb < want 2 p.fb
    let fell := mx < p.mx ∨ vx < p.vx ∨ fb < p.fb
    (p.junc = true → exec .powerEvaluation s = .next s) ∧
    (p.junc = false → ∃ t, exec .powerEvaluation s = .next t ∧
      t = { s with power := { p with mx := mx, vx := vx, fb := fb, sm := max mx vx, limited := false, thr := t.power.thr } } ∧
      (∀ n, t.thrOf (true, n) = s.thrOf (true, n)) ∧
      ∀ n < 66, t.thrOf (false, n) = s.thrOf (false, n) ||| (if late then 4 else 0) |||
        (if fell ∧ hot then 1 else 0) ||| (if past ∨ wouldPass then 8 else 0)) ∧
    exec .budgetRefill s = .next { s with ctxs := s.ctxs.map fun q => (q.1,
      let e := q.2.ebud.toNat; let share := e / 2 ^ 48; let left := e % 2 ^ 48
      if q.2.resident = false ∨ share = 0 then q.2
      else { q.2 with ebud := BitVec.ofNat 64 (share * 2 ^ 48 + min (left + share) (64 * share)) }) } ∧
    (s.arg.flag = true → ∃ t, exec .currentLimitReport s = .next t ∧
      t = { s with power := { p with limited := true, thr := t.power.thr } } ∧
      ∀ n < 66, t.thrOf (false, n) = s.thrOf (false, n) ||| 2) ∧
    (s.arg.flag = false → ∃ t, exec .currentLimitReport s = .next t ∧
      t = { s with power := { p with thr := t.power.thr, gates := t.power.gates } } ∧
      ∀ cl ∈ regionClusters s.arg.i, t.thrOf cl = s.thrOf cl ||| 2 ∧
        assocGet t.power.gates cl = some (1 + (s.arg.k + 6) % 7))) ∧
  -- what a sample at t adds, in 2^-32 of 10 us: 2 to the power (t - 85) / 10, rounded down
  (∀ t : Int, -128 ≤ t → t ≤ 127 → let base := (2 ^ 32) ^ 10; let g := sampleGain t
    g ^ 10 ≤ base * 2 ^ (t - 85).toNat / 2 ^ (85 - t).toNat ∧
    base * 2 ^ (t - 85).toNat / 2 ^ (85 - t).toNat < (g + 1) ^ 10) ∧
  (∀ s : State, let p := s.power; ∃ t, exec .thermalSample s = .next t ∧
    t = { s with
      mc := { s.mc with sensors := s.arg.temps }
      power := { p with powered := p.powered + 1, windows := t.power.windows, reliability := t.power.reliability
                        thr := t.power.thr, gates := t.power.gates } } ∧
    (∀ r < 36, let g := sampleGain (regionTemp s.arg.temps r)
      assocGet t.power.windows r = some ((g :: (assocGet p.windows r).getD []).take 6000000) ∧
      assocGet t.power.reliability r = some (tableGet p.reliability r + g)) ∧
    ∀ r < 34, ∀ cl ∈ regionClusters r, let full := 100 * 100000 * 2 ^ 32 ≤ t.thermal r
      let worn := (1000000 * 100000 + t.power.powered) * 2 ^ 32 < tableGet t.power.reliability r
      t.thrOf cl = s.thrOf cl ||| (if full then 1 else 0) ||| (if worn then 16 else 0) ∧
      assocGet t.power.gates cl = if full ∨ worn then some (1 + (s.arg.k + 6) % 7) else none) ∧
  -- every cluster lies in exactly one region
  (∀ cl ∈ ((List.range 66).map fun n => (false, n)) ++ [(true, 0), (true, 1)],
    ((List.range 36).filter fun r => decide (cl ∈ regionClusters r)).length = 1) ∧
  -- the pages that instructions keep: of running tasks, of frames, and of tasks that CTXS took
  (∀ s : State, (s.active = true → ∀ n ∈ s.act.pinned, (s.act.ctx, n) ∈ s.pins) ∧
    (∀ p ∈ s.parked, ∀ n ∈ p.2.pinned, (p.2.ctx, n) ∈ s.pins) ∧
    (∀ p ∈ s.ctxs, ∀ fr ∈ p.2.frames, ∀ n ∈ fr.task.pinned, (p.1, n) ∈ s.pins) ∧
    ∀ h ∈ s.held, ∀ n ∈ h.2.pinned, (h.2.ctx, n) ∈ s.pins) ∧
  -- firmware's answers; ring entries that waited are offered again
  (∀ s : State, let i := s.arg.i
    (s.pages[i]? = none ∨ s.mc.recovery = true → exec .pageResolve s = .next s) ∧
    (s.pendRes[i]? = none ∨ s.mc.recovery = true → exec .resResolve s = .next s) ∧
    (∀ p, s.pages[i]? = some p → s.mc.recovery = false →
      let u : State := { s with pages := s.pages.eraseIdx i }
      let gone : State := { u with pages := u.pages ++ [⟨p.ctx, p.va / 2 ^ 16, .noMap, 0, false⟩] }
      let mapped (x : State) (id va : Nat) : Prop := ∀ c, x.ctx? id = some c → c.inHeap va = true ∨ (walk x.mem c.ptroot va).isSome
      let mine (q : PageFault) : Prop := q.passed = true ∧ q.die = p.die
      let turn := p.passed = false ∨ ∀ q ∈ s.pages.take i, ¬mine q
      let done (x : State) : Prop := ∀ t,
        serveAll (x.heldEntries.foldl State.post { x with heldEntries := [] }) = .ok ((), t) → exec .pageResolve s = .next t
      (p.who = .noMap → exec .pageResolve s = .next s) ∧
      -- handed to the firmware core of another die, or not yet its turn
      (p.who ≠ .noMap → s.arg.flag = true → exec .pageResolve s = .next
        (if s.arg.k < 3 ∧ s.arg.k ≠ p.die then { u with pages := u.pages ++ [{ p with die := s.arg.k, passed := true }] } else s)) ∧
      (s.arg.flag = false → ¬turn → exec .pageResolve s = .next s) ∧
      (∀ ws, s.arg.flag = false → p.who ≠ .noMap → turn → s.arg.maps = some ws →
        let v : State := { u with mem := ws.foldl (fun m w => m.writeNat w.1 8 w.2.toNat) u.mem }
        let keeps := ∀ q ∈ s.pins, mapped s q.1 (q.2 * 2 ^ 16) → mapped v q.1 (q.2 * 2 ^ 16)
        -- a leaf that the writes made: sir outside DRAM, and of the page store a page lent to it
        let sound := ∀ q ∈ s.ctxs, ∀ l ∈ leaves v.mem q.2.ptroot, l ∉ leaves s.mem q.2.ptroot →
          let base := leafBase l.2.1 l.2.2.1
          (Config.dramBytes ≤ base → bitOf l.2.1 9 = true) ∧ (Config.pageStoreBase ≤ base → base < Config.hostBase →
            l.2.2.1 = false ∧ assocGet s.store ((base - Config.pageStoreBase) / 2 ^ 16) = some (.page q.1 l.1))
        let grown (a : Nat) : State := v.modCtx p.ctx fun c => c.growArena a
        (¬(mapped v p.ctx p.va ∧ keeps ∧ sound) → exec .pageResolve s = .next s) ∧
        (mapped v p.ctx p.va → keeps → sound →
          (p.who = .device → done v) ∧ (∀ slot, p.who = .slot slot → done (v.pinSlot p.ctx slot (p.va / 2 ^ 16))) ∧
          (∀ a, p.who = .spill a → done ((grown a).spillRoom p.ctx p.die)) ∧ (∀ a, p.who = .image a → done (grown a)) ∧
          (∀ q, p.who = .job q → done (v.wakeJob q)) ∧
          (∀ a, p.who = .arena a → done ((grown a).placeFrame p.ctx a p.die)) ∧
          (∀ a c, p.who = .frame a → s.ctx? p.ctx = some c →
            let w := v.modFrame p.ctx a fun fr =>
              { fr with task := { fr.task with pinned := p.va / 2 ^ 16 :: fr.task.pinned } }
            (c.resident = true → done (w.requeue p.ctx a)) ∧
            (c.resident = false → done (w.modFrame p.ctx a fun fr => { fr with status := .resolved }))))) ∧
      (s.arg.flag = false → turn → s.arg.maps = none →
        (p.who = .device ∨ (∃ a, p.who = .image a) ∨ (∃ slot, p.who = .slot slot) → done gone) ∧
        (∀ a, p.who = .spill a → done (u.postFault p.ctx 0 0 0 codePage 0 p.va a 0)) ∧
        (∀ q, p.who = .job q → done (gone.wakeJob q)) ∧
        (∀ a c fr, s.ctx? p.ctx = some c → c.frames.find? (fun fr => decide (fr.addr = a)) = some fr →
          let report (x : State) : State :=
            x.postFault p.ctx fr.task.lcore fr.task.savedSlot 0 codePage fr.task.pc.toNat p.va a 0
          (p.who = .frame a → done (report (u.modFrame p.ctx a fun f => { f with status := .host }))) ∧
          (p.who = .arena a → done (report (u.unqueue p.ctx fr)))))) ∧
    (∀ p, s.pendRes[i]? = some p → s.mc.recovery = false →
      let u : State := { s with pendRes := s.pendRes.eraseIdx i }
      (s.dramSref = true → exec .resResolve s = .next (s.wake ⟨.dram, 0, p.ctx, 0⟩)) ∧
      (s.dramSref = false →
        (p.who = .device ∨ (∃ a, p.who = .spill a ∨ p.who = .image a) ∨ (∃ slot, p.who = .slot slot) → exec .resResolve s = .next u) ∧
        (∀ q, p.who = .job q → exec .resResolve s = .next (u.wakeJob q)) ∧
        (∀ a, p.who = .arena a → exec .resResolve s = .next (u.placeFrame p.ctx a p.die)) ∧
        (∀ a c, p.who = .frame a → s.ctx? p.ctx = some c →
          (c.resident = true → exec .resResolve s = .next (u.requeue p.ctx a)) ∧
          (c.resident = false → exec .resResolve s =
            .next (u.modFrame p.ctx a fun fr => { fr with status := .resolved }))))) ∧
    (∀ k, assocGet s.cores s.arg.slot.core = some k →
      (k.dirty.length < 32 → exec .dirtyLogMerge s = .next s) ∧
      (32 ≤ k.dirty.length → exec .dirtyLogMerge s = .next { s with
        mem := k.dirty.foldl (fun m e => m.writeNat e 8 (m.readNat e 8 ||| 0xC0)) s.mem
        cores := assocPut s.cores s.arg.slot.core { k with dirty := [] } }))) ∧
  -- a page kept for the KVA of a slot
  (∀ (s : State) (id page : Nat) (slot : SlotId), let t := s.pinSlot id slot page
    (∀ k, s.taskAt slot = some k →
      t.taskAt slot = some (if k.ctx = id then { k with pinned := page :: k.pinned } else k)) ∧
    (∀ other, other ≠ slot → t.taskAt other = s.taskAt other) ∧ t.mem = s.mem ∧ t.pages = s.pages) ∧
  -- pages
  (∀ (s : State) (c : Ctx), let id := s.arg.ctx; let va := s.arg.k; let dst := s.arg.word.toNat; s.ctx? id = some c →
    (walk s.mem c.ptroot va = none → ∀ i ∈ [Instr.pageMove, .migWindowExpiry, .backgroundRequantisation], exec i s = .next s) ∧
    (∀ pte big at_, walk s.mem c.ptroot va = some (pte, big, at_) →
      let n := if big then 2 ^ 21 else 2 ^ 16; let src := leafBase pte big; let page := (va / n, n)
      let inStore := Config.pageStoreBase ≤ dst ∧ dst < Config.hostBase
      let frameOk := s.mc.recovery = false ∧ bits pte 57 46 = id ∧ dst % n = 0 ∧ dst + n ≤ 2 ^ 48 ∧ memExists dst = true ∧
        memExists (dst + n - 1) = true ∧
        (inStore → n = 2 ^ 16 ∧ assocGet s.store ((dst - Config.pageStoreBase) / 2 ^ 16) = none)
      let asleep := s.dramSref = true ∧ (src < Config.dramBytes ∨ dst < Config.dramBytes)
      let kept := ∃ q ∈ s.pins, q.1 = id ∧ q.2 * 2 ^ 16 / n = va / n
      let moves := frameOk ∧ bitOf pte 8 = false ∧ (Config.hostBase ≤ src ↔ dst < Config.hostBase) ∧ ¬kept
      let mig := (if page ∈ c.moveWindows then bits pte 45 43 else 0) + 1
      let others := c.moveWindows.filter fun q => decide (q ≠ page)
      let there := withField (withFrame pte dst) 9 1 (if dst < Config.dramBytes then 0 else 1)
      let e := if 4 ≤ mig then withField (withField there 43 3 0) 8 1 1 else withField there 43 3 mig
      let swaps := frameOk ∧ bitOf pte 2 = false ∧ s.arg.bytes.length = n ∧ dst ≠ src ∧
        (Config.hostBase ≤ dst ↔ Config.hostBase ≤ src);
      (moves → ¬asleep → exec .pageMove s =
        .next ((((s.copyFrame (s.leafKey c pte) src dst n).setEntry id va at_ e big).relendPage id va src dst).modCtx id fun x =>
          { x with moveWindows := if 4 ≤ mig then others else page :: others })) ∧
      (moves → asleep → exec .pageMove s = .next (s.wake ⟨.dram, 0, id, 0⟩)) ∧
      (¬moves → exec .pageMove s = .next s) ∧
      (page ∈ c.moveWindows → exec .migWindowExpiry s = .next ((s.setEntry id va at_ (withField pte 43 3 0) big).modCtx id
        fun x => { x with moveWindows := others })) ∧
      (page ∉ c.moveWindows → exec .migWindowExpiry s = .next s) ∧
      (swaps → asleep → exec .backgroundRequantisation s = .next (s.wake ⟨.dram, 0, id, 0⟩)) ∧
      (swaps → ¬asleep → ∃ t : State, exec .backgroundRequantisation s = .next ((t.setEntry id va at_ there big).relendPage id va src dst) ∧
        t = { s with mem := t.mem, back := s.back.adopt t.mem dst n, poison := t.poison, backPoison := t.backPoison
                     gathers := t.gathers, dirtyMaps := t.dirtyMaps } ∧
        (∀ l, l ∈ t.backPoison ↔ if dst ≤ 64 * l ∧ 64 * l + 64 ≤ dst + n then l ∈ t.poison else l ∈ s.backPoison) ∧
        (∀ d, d ∈ t.dirtyMaps ↔ d ∈ s.dirtyMaps ∧ (d.pa < dst ∨ dst + n ≤ d.pa)) ∧
        t.mem.readLines (s.leafKey c pte) dst n = s.arg.bytes ∧
        (∀ a, a < dst ∨ dst + n ≤ a → t.mem.read a = s.mem.read a) ∧
        ∀ l, l ∈ t.poison ↔ l ∈ s.poison ∧ (l < dst / 64 ∨ (dst + n) / 64 ≤ l)) ∧
      (¬swaps → exec .backgroundRequantisation s = .next s))) ∧
  (∀ (s : State) (key : Option (BitVec 256)) (src dst n : Nat), n % 64 = 0 → let t := s.copyFrame key src dst n
    t = { s with mem := t.mem, back := s.back.adopt t.mem dst n, poison := t.poison, backPoison := t.backPoison
                 gathers := t.gathers, dirtyMaps := t.dirtyMaps } ∧
    (∀ l, l ∈ t.backPoison ↔ if dst ≤ 64 * l ∧ 64 * l + 64 ≤ dst + n then l ∈ t.poison else l ∈ s.backPoison) ∧
    (∀ d, d ∈ t.dirtyMaps ↔ d ∈ s.dirtyMaps ∧ (d.pa < src ∨ src + n ≤ d.pa) ∧ (d.pa < dst ∨ dst + n ≤ d.pa)) ∧
    t.mem.readLines key dst n = s.mem.readLines key src n ∧
    (∀ a, a < dst ∨ dst + n ≤ a → t.mem.read a = s.mem.read a) ∧
    ∀ g, g ∈ t.gathers ↔ g ∈ s.gathers ∧ (g.line < src / 64 ∨ (src + n) / 64 ≤ g.line) ∧
      (g.line < dst / 64 ∨ (dst + n) / 64 ≤ g.line)) ∧
  -- the home of a line: each bit of its slice is the parity of every fifth, or third, bit of its number
  (∀ (s : State) (pa : Nat), let n := pa / 64 % 2 ^ 42
    let parity (w b : Nat) : Bool := (List.range 14).foldl (fun p i => p ^^ n.testBit (w * i + b)) false
    -- sir of the leaf of the page (R312)
    let sir := ((s.pageOwner pa).map fun p => bitOf p.2 9).getD false
    (s.biMap = true → sir = false → ∃ die k, s.home pa = .bi (1 + die) k ∧ die < 2 ∧ k < 16 ∧
      die.testBit 0 = parity 5 4 ∧ ∀ b < 4, k.testBit b = parity 5 b) ∧
    (s.biMap = false ∨ sir = true → ∃ k, s.home pa = .hub k ∧ k < 8 ∧ ∀ b < 3, k.testBit b = parity 3 b)) ∧
  -- the backing store takes, and gives back, the bytes of a range and the poison of its whole lines
  (∀ (s : State) (pa n : Nat), let t := s.reachBack pa n; let u := s.fallBack pa n
    let inside (l : Nat) : Prop := pa ≤ 64 * l ∧ 64 * l + 64 ≤ pa + n
    t = { s with back := t.back, backPoison := t.backPoison } ∧ u = { s with mem := u.mem, poison := u.poison } ∧
    (∀ a, t.back.read a = if pa ≤ a ∧ a < pa + n then s.mem.read a else s.back.read a) ∧
    (∀ a, u.mem.read a = if pa ≤ a ∧ a < pa + n then s.back.read a else s.mem.read a) ∧
    ∀ l, (l ∈ t.backPoison ↔ if inside l then l ∈ s.poison else l ∈ s.backPoison) ∧
      (l ∈ u.poison ↔ if inside l then l ∈ s.backPoison else l ∈ s.poison)) ∧
  -- lines and errors
  (∀ s : State, let pa := s.arg.i / 64 * 64; let bad := s.arg.flag; let none_ := bad = false ∧ s.arg.k ≠ 1
    -- with arg.k = 2 the error is not met at a write-back: the access that finds it counts it
    let met := s.arg.k = 2
    let u : State := if bad = true ∧ met then s else s.reachBack pa 64
    let asleep := s.dramSref = true ∧ pa < Config.dramBytes
    let sel := s.arg.word.toNat; let sir := ((s.pageOwner pa).map fun p => bitOf p.2 9).getD false
    let cs := if sel = 0 then [1]
      else if sel = 1 ∨ Config.hostBase ≤ pa then (if s.biMap = true ∧ sir = false then [3] else [4])
      else if pa < Config.dramBytes then [6, 16 + (sel - 2) % 16] else [5]
    let count (x : State) (cs : List Nat) (bad : Bool) : State :=
      { x with mc := { x.mc with ecc := cs.foldl (fun t n => countEcc t n bad) x.mc.ecc } };
    (s.arg.i < 2 ^ 48 → memExists pa = false → exec .lineEvictionWriteback s = .next s) ∧
    (s.arg.i < 2 ^ 48 → memExists pa = true → asleep → exec .lineEvictionWriteback s = .next (s.wake ⟨.dram, 0, 0, 0⟩)) ∧
    (s.arg.i < 2 ^ 48 → memExists pa = true → ¬asleep →
      (none_ → exec .lineEvictionWriteback s = .next u) ∧
      (bad = false → s.arg.k = 1 → exec .lineEvictionWriteback s =
        .next (if 6 ∈ cs then (count u cs false).countPage pa else count u cs false)) ∧
      (bad = true → let v := count u cs true
        (v.pageOwner pa = none ∨ met → exec .lineEvictionWriteback s = .next (v.poisonLine pa)) ∧
        (∀ id pte, v.pageOwner pa = some (id, pte) → ¬met →
          exec .lineEvictionWriteback s = .next ((v.poisonLine pa).countPoison id 0)))) ∧
    -- a line of stash or tile-store SRAM
    (2 ^ 48 ≤ s.arg.i → none_ → exec .lineEvictionWriteback s = .next s) ∧
    (2 ^ 48 ≤ s.arg.i → bad = false → s.arg.k = 1 →
      exec .lineEvictionWriteback s = .next (count s [if s.arg.i < 2 ^ 49 then 0 else 2] false)) ∧
    (∀ id l off, id < 4096 → l < 512 → off < 2 ^ 17 → s.arg.i = 2 ^ 48 + stashKey id l off → bad = true →
      ∃ t, exec .lineEvictionWriteback s = .next t ∧ stashKey id l off / 64 ∈ t.stashPoison ∧
        t = { (if met then count s [0] true else (count s [0] true).countPoison id 0) with stashPoison := t.stashPoison } ∧
        ∀ n, n ≠ stashKey id l off / 64 → (n ∈ t.stashPoison ↔ n ∈ s.stashPoison)) ∧
    (∀ id off, off < 64 * 131072 → let key := id * 64 * 131072 + off; s.arg.i = 2 ^ 49 + key → bad = true →
      ∃ t, exec .lineEvictionWriteback s = .next t ∧ key / 64 ∈ t.tilePoison ∧
        t = { (if met then count s [2] true else (count s [2] true).countPoison id 0) with tilePoison := t.tilePoison } ∧
        ∀ n, n ≠ key / 64 → (n ∈ t.tilePoison ↔ n ∈ s.tilePoison))) ∧
  (∀ (s : State) (pa : Nat), let t := s.poisonLine pa
    pa / 64 ∈ t.poison ∧ (∀ l, l ≠ pa / 64 → (l ∈ t.poison ↔ l ∈ s.poison)) ∧ t.mem = s.mem ∧
    pa / 64 ∈ t.backPoison ∧ (∀ l, l ≠ pa / 64 → (l ∈ t.backPoison ↔ l ∈ s.backPoison)) ∧
    ∀ g, g ∈ t.gathers ↔ g ∈ s.gathers ∧ g.line ≠ pa / 64) ∧
  (∀ s : State, let pa := s.arg.i; let bs := s.arg.bytes; let n := bs.length; let line := pa / 64 * 64
    let at_ (a k : Nat) : List (Loc × Nat) := [(s.physLoc a, k)]
    let seen (u : State) : State := u.touch .phys .load (at_ line 64)
    let shown (u : State) (a k : Nat) : State := u.reachBack a k
    let stored : State := shown ((s.touch .phys .store (at_ pa n)).writeLocs .phys (at_ pa n) bs) pa n
    -- the context whose discarded page this is, if it is one
    let gone (id : Nat) : Prop := ∃ pte, s.pageOwner pa = some (id, pte) ∧ bitOf pte 10 = true;
    (Config.hostBase ≤ pa → pa < 2 ^ 48 → pa % 64 + n ≤ 64 →
      (bs = [] → exec .hostSnoop s = .next (shown (seen s) line 64)) ∧
      (bs ≠ [] → (∀ id, ¬gone id) → exec .hostSnoop s = .next (shown stored line 64)) ∧
      (∀ id, bs ≠ [] → gone id → exec .hostSnoop s = .next (shown (s.countDropped (.core id 0) []) line 64))) ∧
    (pa < Config.hostBase ∨ 2 ^ 48 ≤ pa ∨ 64 < pa % 64 + n → exec .hostSnoop s = .next s) ∧
    (s.feature 2 = false ∨ 64 < pa % 64 + n ∨ Config.dramBytes < pa + n → exec .hostHdmAccess s = .next s) ∧
    (s.feature 2 = true → pa % 64 + n ≤ 64 → pa + n ≤ Config.dramBytes →
      (s.dramSref = true → exec .hostHdmAccess s =
        .next (State.wake { s with heldHost := s.heldHost ++ [.access pa bs] } ⟨.dram, 0, 0, 0⟩)) ∧
      (bs = [] → s.dramSref = false → exec .hostHdmAccess s = .next (seen s)) ∧
      (bs ≠ [] → s.dramSref = false →
        ((∀ id, ¬gone id) → exec .hostHdmAccess s = .next stored) ∧
        (∀ id, gone id → exec .hostHdmAccess s = .next (s.countDropped (.core id 0) []))))) ∧
  -- the tile save of a pre-emption, and the debug port
  (∀ s : State, exec .preemptTileSave s = .next s ∧
    (s.halted[s.arg.i]? = none → exec .debugResume s = .next s) ∧
    (∀ id addr x, s.halted[s.arg.i]? = some (id, addr, x) →
      exec .debugResume s = .next (State.requeue { s with halted := s.halted.eraseIdx s.arg.i } id addr)) ∧
    (∀ c, s.ctx? s.arg.ctx = some c →
      exec .debugBreakArm s = .next (s.setCtx s.arg.ctx { c with breakArmed := s.arg.flag })))
end

