-- ==== Sys2Proof/Laws/Graph.lean ====
section
/-! SUPPORT. The ends of a connection. -/

namespace Sys2Proof.Machine

/-- Ends are compared by what they are. -/
@[simp] theorem End.same_eq (x y : End) : x.same y = decide (x = y) := by
  cases x <;> cases y <;> simp [End.same]

end Sys2Proof.Machine
end

