-- ==== Sys2Proof/Laws/Memory.lean ====
section
/-! SUPPORT. The canonical form of a memory: what it says, and that every memory operation keeps it. -/

namespace Sys2Proof.Machine

/-- The canonical form as a pairwise order and a bar on the unlisted byte. -/
theorem Memory.wf_iff (m : Memory) :
    m.wf = true ↔ m.Pairwise (fun c d => c.1 < d.1) ∧ ∀ c ∈ m, c.2 ≠ Memory.unlisted := by
  induction m with
  | nil => simp [Memory.wf]
  | cons c rest ih =>
    cases rest with
    | nil => simp [Memory.wf]
    | cons d rest =>
      rw [Memory.wf, Bool.and_eq_true, Bool.and_eq_true, ih]
      simp only [bne_iff_ne, decide_eq_true_eq, List.pairwise_cons, List.mem_cons, forall_eq_or_imp]
      constructor
      · rintro ⟨⟨hc, hcd⟩, ⟨hd, hrest⟩, hne⟩
        exact ⟨⟨⟨hcd, fun e he => hcd.trans (hd e he)⟩, hd, hrest⟩, hc, hne⟩
      · rintro ⟨⟨⟨hcd, -⟩, hd, hrest⟩, hc, hne⟩
        exact ⟨⟨hc, hcd⟩, ⟨hd, hrest⟩, hne⟩

/-- A memory that lists nothing is canonical. -/
theorem Memory.wf_nil : Memory.wf [] = true := rfl

/-- Dropping entries keeps the form. -/
theorem Memory.wf_filter {m : Memory} (f : Host.Cell → Bool) (h : m.wf = true) : Memory.wf (m.filter f) = true := by
  rw [Memory.wf_iff] at h ⊢
  exact ⟨h.1.filter f, fun c hc => h.2 c (List.mem_of_mem_filter hc)⟩

/-- Two canonical memories, the first wholly below the second, form one. -/
theorem Memory.wf_append {m n : Memory} (hm : m.wf = true) (hn : n.wf = true)
    (h : ∀ c ∈ m, ∀ d ∈ n, c.1 < d.1) : Memory.wf (m ++ n) = true := by
  rw [Memory.wf_iff] at hm hn ⊢
  refine ⟨List.pairwise_append.2 ⟨hm.1, hn.1, h⟩, fun c hc => ?_⟩
  rcases List.mem_append.1 hc with hc | hc
  · exact hm.2 c hc
  · exact hn.2 c hc

/-- Where the entries of laid out bytes lie. -/
theorem Memory.mem_cells {a : Nat} {bs : List Byte} {c : Host.Cell} (h : c ∈ Memory.cells a bs) :
    a ≤ c.1 ∧ c.1 < a + bs.length := by
  induction bs generalizing a with
  | nil => simp [Memory.cells] at h
  | cons b bs ih =>
    rw [Memory.cells] at h
    have tail (h : c ∈ Memory.cells (a + 1) bs) : a ≤ c.1 ∧ c.1 < a + (b :: bs).length := by
      have := ih h
      simp only [List.length_cons]
      omega
    split at h
    · exact tail h
    · rcases List.mem_cons.1 h with rfl | h
      · simp
      · exact tail h

/-- The entries of laid out bytes are canonical. -/
theorem Memory.wf_cells (a : Nat) (bs : List Byte) : Memory.wf (Memory.cells a bs) = true := by
  induction bs generalizing a with
  | nil => rfl
  | cons b bs ih =>
    rw [Memory.cells]
    split
    · exact ih (a + 1)
    · rename_i hb
      refine Memory.wf_append (m := [(a, b)]) ?_ (ih (a + 1)) ?_
      · simpa [Memory.wf] using hb
      · rintro c hc d hd
        have := Memory.mem_cells hd
        rw [List.mem_singleton] at hc
        subst hc
        exact this.1

/-- What a part below, a canonical middle and a part above make. -/
theorem Memory.wf_splice {m : Memory} (mid : Memory) (lo hi : Nat) (h : m.wf = true) (hmid : mid.wf = true)
    (hb : ∀ c ∈ mid, lo ≤ c.1 ∧ c.1 < hi) (hle : lo ≤ hi) :
    Memory.wf (m.filter (fun c => decide (c.1 < lo)) ++ (mid ++ m.filter (fun c => decide (hi ≤ c.1)))) = true := by
  refine Memory.wf_append (Memory.wf_filter _ h) (Memory.wf_append hmid (Memory.wf_filter _ h) ?_) ?_
  · rintro c hc d hd
    have := List.of_mem_filter hd
    simp only [decide_eq_true_eq] at this
    exact (hb c hc).2.trans_le this
  · rintro c hc d hd
    have hlt := List.of_mem_filter hc
    simp only [decide_eq_true_eq] at hlt
    rcases List.mem_append.1 hd with hd | hd
    · exact hlt.trans_le (hb d hd).1
    · have := List.of_mem_filter hd
      simp only [decide_eq_true_eq] at this
      omega

/-- A write keeps the canonical form. -/
theorem Memory.wf_writeBytes {m : Memory} (h : m.wf = true) (a : Nat) (bs : List Byte) :
    (m.writeBytes a bs).wf = true :=
  Memory.wf_splice _ a (a + bs.length) h (Memory.wf_cells a bs) (fun _ hc => Memory.mem_cells hc) (Nat.le_add_right _ _)

/-- A write of a number keeps the canonical form. -/
theorem Memory.wf_writeNat {m : Memory} (h : m.wf = true) (a n v : Nat) : (m.writeNat a n v).wf = true :=
  Memory.wf_writeBytes h a _

/-- Clearing a range keeps the canonical form. -/
theorem Memory.wf_clear {m : Memory} (h : m.wf = true) (a n : Nat) : (m.clear a n).wf = true := by
  have := Memory.wf_splice (m := m) [] a (a + n) h rfl (by simp) (Nat.le_add_right _ _)
  simpa [Memory.clear] using this

/-- Taking a range of another canonical memory keeps the canonical form. -/
theorem Memory.wf_adopt {m other : Memory} (h : m.wf = true) (ho : other.wf = true) (a n : Nat) :
    (m.adopt other a n).wf = true := by
  refine Memory.wf_splice _ a (a + n) h (Memory.wf_filter _ ho) (fun c hc => ?_) (Nat.le_add_right _ _)
  have := List.of_mem_filter hc
  simpa using this

end Sys2Proof.Machine
end

