-- ==== Sys2Proof/Laws/State.lean ====
section
/-! SUPPORT. What each update of the moving task leaves alone, field by field, and what a register reads after a write. -/

namespace Sys2Proof.Machine


@[simp] theorem State.setX_copies (s : State) (r : Reg) (v : Word) : (s.setX r v).copies = s.copies := by unfold State.setX; split <;> rfl
@[simp] theorem State.setX_turns (s : State) (r : Reg) (v : Word) : (s.setX r v).turns = s.turns := by unfold State.setX; split <;> rfl
@[simp] theorem State.setX_cur (s : State) (r : Reg) (v : Word) : (s.setX r v).cur = s.cur := by unfold State.setX; split <;> rfl
@[simp] theorem State.setX_active (s : State) (r : Reg) (v : Word) : (s.setX r v).active = s.active := by unfold State.setX; split <;> rfl
@[simp] theorem State.setX_parked (s : State) (r : Reg) (v : Word) : (s.setX r v).parked = s.parked := by unfold State.setX; split <;> rfl
@[simp] theorem State.setX_arg (s : State) (r : Reg) (v : Word) : (s.setX r v).arg = s.arg := by unfold State.setX; split <;> rfl
@[simp] theorem State.setX_free (s : State) (r : Reg) (v : Word) : (s.setX r v).free = s.free := by unfold State.setX; split <;> rfl
@[simp] theorem State.setX_mem (s : State) (r : Reg) (v : Word) : (s.setX r v).mem = s.mem := by unfold State.setX; split <;> rfl
@[simp] theorem State.setX_back (s : State) (r : Reg) (v : Word) : (s.setX r v).back = s.back := by unfold State.setX; split <;> rfl
@[simp] theorem State.setX_stash (s : State) (r : Reg) (v : Word) : (s.setX r v).stash = s.stash := by unfold State.setX; split <;> rfl
@[simp] theorem State.setX_tile (s : State) (r : Reg) (v : Word) : (s.setX r v).tile = s.tile := by unfold State.setX; split <;> rfl
@[simp] theorem State.setX_poison (s : State) (r : Reg) (v : Word) : (s.setX r v).poison = s.poison := by unfold State.setX; split <;> rfl
@[simp] theorem State.setX_backPoison (s : State) (r : Reg) (v : Word) : (s.setX r v).backPoison = s.backPoison := by unfold State.setX; split <;> rfl
@[simp] theorem State.setX_stashPoison (s : State) (r : Reg) (v : Word) : (s.setX r v).stashPoison = s.stashPoison := by unfold State.setX; split <;> rfl
@[simp] theorem State.setX_tilePoison (s : State) (r : Reg) (v : Word) : (s.setX r v).tilePoison = s.tilePoison := by unfold State.setX; split <;> rfl
@[simp] theorem State.setX_ctxs (s : State) (r : Reg) (v : Word) : (s.setX r v).ctxs = s.ctxs := by unfold State.setX; split <;> rfl
@[simp] theorem State.setX_cores (s : State) (r : Reg) (v : Word) : (s.setX r v).cores = s.cores := by unfold State.setX; split <;> rfl
@[simp] theorem State.setX_fw (s : State) (r : Reg) (v : Word) : (s.setX r v).fw = s.fw := by unfold State.setX; split <;> rfl
@[simp] theorem State.setX_tlb (s : State) (r : Reg) (v : Word) : (s.setX r v).tlb = s.tlb := by unfold State.setX; split <;> rfl
@[simp] theorem State.setX_engines (s : State) (r : Reg) (v : Word) : (s.setX r v).engines = s.engines := by unfold State.setX; split <;> rfl
@[simp] theorem State.setX_power (s : State) (r : Reg) (v : Word) : (s.setX r v).power = s.power := by unfold State.setX; split <;> rfl
@[simp] theorem State.setX_featAcc (s : State) (r : Reg) (v : Word) : (s.setX r v).featAcc = s.featAcc := by unfold State.setX; split <;> rfl
@[simp] theorem State.setX_gathers (s : State) (r : Reg) (v : Word) : (s.setX r v).gathers = s.gathers := by unfold State.setX; split <;> rfl
@[simp] theorem State.setX_dirtyMaps (s : State) (r : Reg) (v : Word) : (s.setX r v).dirtyMaps = s.dirtyMaps := by unfold State.setX; split <;> rfl
@[simp] theorem State.setX_pages (s : State) (r : Reg) (v : Word) : (s.setX r v).pages = s.pages := by unfold State.setX; split <;> rfl
@[simp] theorem State.setX_causes (s : State) (r : Reg) (v : Word) : (s.setX r v).causes = s.causes := by unfold State.setX; split <;> rfl
@[simp] theorem State.setX_act_ctx (s : State) (r : Reg) (v : Word) : (s.setX r v).act.ctx = s.act.ctx := by unfold State.setX; split <;> rfl
@[simp] theorem State.setX_act_lcore (s : State) (r : Reg) (v : Word) : (s.setX r v).act.lcore = s.act.lcore := by unfold State.setX; split <;> rfl
@[simp] theorem State.setX_act_record (s : State) (r : Reg) (v : Word) : (s.setX r v).act.record = s.act.record := by unfold State.setX; split <;> rfl
@[simp] theorem State.setX_act_source (s : State) (r : Reg) (v : Word) : (s.setX r v).act.source = s.act.source := by unfold State.setX; split <;> rfl
@[simp] theorem State.setX_act_level (s : State) (r : Reg) (v : Word) : (s.setX r v).act.level = s.act.level := by unfold State.setX; split <;> rfl
@[simp] theorem State.setX_act_priv (s : State) (r : Reg) (v : Word) : (s.setX r v).act.priv = s.act.priv := by unfold State.setX; split <;> rfl
@[simp] theorem State.setX_act_chain (s : State) (r : Reg) (v : Word) : (s.setX r v).act.chain = s.act.chain := by unfold State.setX; split <;> rfl
@[simp] theorem State.setX_act_launch (s : State) (r : Reg) (v : Word) : (s.setX r v).act.launch = s.act.launch := by unfold State.setX; split <;> rfl
@[simp] theorem State.setX_act_savedSlot (s : State) (r : Reg) (v : Word) : (s.setX r v).act.savedSlot = s.act.savedSlot := by unfold State.setX; split <;> rfl

@[simp] theorem State.setP_copies (s : State) (p : PReg) (v : Nat) : (s.setP p v).copies = s.copies := by unfold State.setP; split <;> rfl
@[simp] theorem State.setP_turns (s : State) (p : PReg) (v : Nat) : (s.setP p v).turns = s.turns := by unfold State.setP; split <;> rfl
@[simp] theorem State.setP_cur (s : State) (p : PReg) (v : Nat) : (s.setP p v).cur = s.cur := by unfold State.setP; split <;> rfl
@[simp] theorem State.setP_active (s : State) (p : PReg) (v : Nat) : (s.setP p v).active = s.active := by unfold State.setP; split <;> rfl
@[simp] theorem State.setP_parked (s : State) (p : PReg) (v : Nat) : (s.setP p v).parked = s.parked := by unfold State.setP; split <;> rfl
@[simp] theorem State.setP_arg (s : State) (p : PReg) (v : Nat) : (s.setP p v).arg = s.arg := by unfold State.setP; split <;> rfl
@[simp] theorem State.setP_free (s : State) (p : PReg) (v : Nat) : (s.setP p v).free = s.free := by unfold State.setP; split <;> rfl
@[simp] theorem State.setP_mem (s : State) (p : PReg) (v : Nat) : (s.setP p v).mem = s.mem := by unfold State.setP; split <;> rfl
@[simp] theorem State.setP_back (s : State) (p : PReg) (v : Nat) : (s.setP p v).back = s.back := by unfold State.setP; split <;> rfl
@[simp] theorem State.setP_stash (s : State) (p : PReg) (v : Nat) : (s.setP p v).stash = s.stash := by unfold State.setP; split <;> rfl
@[simp] theorem State.setP_tile (s : State) (p : PReg) (v : Nat) : (s.setP p v).tile = s.tile := by unfold State.setP; split <;> rfl
@[simp] theorem State.setP_poison (s : State) (p : PReg) (v : Nat) : (s.setP p v).poison = s.poison := by unfold State.setP; split <;> rfl
@[simp] theorem State.setP_backPoison (s : State) (p : PReg) (v : Nat) : (s.setP p v).backPoison = s.backPoison := by unfold State.setP; split <;> rfl
@[simp] theorem State.setP_stashPoison (s : State) (p : PReg) (v : Nat) : (s.setP p v).stashPoison = s.stashPoison := by unfold State.setP; split <;> rfl
@[simp] theorem State.setP_tilePoison (s : State) (p : PReg) (v : Nat) : (s.setP p v).tilePoison = s.tilePoison := by unfold State.setP; split <;> rfl
@[simp] theorem State.setP_ctxs (s : State) (p : PReg) (v : Nat) : (s.setP p v).ctxs = s.ctxs := by unfold State.setP; split <;> rfl
@[simp] theorem State.setP_cores (s : State) (p : PReg) (v : Nat) : (s.setP p v).cores = s.cores := by unfold State.setP; split <;> rfl
@[simp] theorem State.setP_fw (s : State) (p : PReg) (v : Nat) : (s.setP p v).fw = s.fw := by unfold State.setP; split <;> rfl
@[simp] theorem State.setP_tlb (s : State) (p : PReg) (v : Nat) : (s.setP p v).tlb = s.tlb := by unfold State.setP; split <;> rfl
@[simp] theorem State.setP_engines (s : State) (p : PReg) (v : Nat) : (s.setP p v).engines = s.engines := by unfold State.setP; split <;> rfl
@[simp] theorem State.setP_power (s : State) (p : PReg) (v : Nat) : (s.setP p v).power = s.power := by unfold State.setP; split <;> rfl
@[simp] theorem State.setP_featAcc (s : State) (p : PReg) (v : Nat) : (s.setP p v).featAcc = s.featAcc := by unfold State.setP; split <;> rfl
@[simp] theorem State.setP_gathers (s : State) (p : PReg) (v : Nat) : (s.setP p v).gathers = s.gathers := by unfold State.setP; split <;> rfl
@[simp] theorem State.setP_dirtyMaps (s : State) (p : PReg) (v : Nat) : (s.setP p v).dirtyMaps = s.dirtyMaps := by unfold State.setP; split <;> rfl
@[simp] theorem State.setP_pages (s : State) (p : PReg) (v : Nat) : (s.setP p v).pages = s.pages := by unfold State.setP; split <;> rfl
@[simp] theorem State.setP_causes (s : State) (p : PReg) (v : Nat) : (s.setP p v).causes = s.causes := by unfold State.setP; split <;> rfl
@[simp] theorem State.setP_act_ctx (s : State) (p : PReg) (v : Nat) : (s.setP p v).act.ctx = s.act.ctx := by unfold State.setP; split <;> rfl
@[simp] theorem State.setP_act_lcore (s : State) (p : PReg) (v : Nat) : (s.setP p v).act.lcore = s.act.lcore := by unfold State.setP; split <;> rfl
@[simp] theorem State.setP_act_record (s : State) (p : PReg) (v : Nat) : (s.setP p v).act.record = s.act.record := by unfold State.setP; split <;> rfl
@[simp] theorem State.setP_act_source (s : State) (p : PReg) (v : Nat) : (s.setP p v).act.source = s.act.source := by unfold State.setP; split <;> rfl
@[simp] theorem State.setP_act_level (s : State) (p : PReg) (v : Nat) : (s.setP p v).act.level = s.act.level := by unfold State.setP; split <;> rfl
@[simp] theorem State.setP_act_priv (s : State) (p : PReg) (v : Nat) : (s.setP p v).act.priv = s.act.priv := by unfold State.setP; split <;> rfl
@[simp] theorem State.setP_act_chain (s : State) (p : PReg) (v : Nat) : (s.setP p v).act.chain = s.act.chain := by unfold State.setP; split <;> rfl
@[simp] theorem State.setP_act_launch (s : State) (p : PReg) (v : Nat) : (s.setP p v).act.launch = s.act.launch := by unfold State.setP; split <;> rfl
@[simp] theorem State.setP_act_savedSlot (s : State) (p : PReg) (v : Nat) : (s.setP p v).act.savedSlot = s.act.savedSlot := by unfold State.setP; split <;> rfl

@[simp] theorem State.setV_copies (s : State) (r : Reg) (v : Nat) : (s.setV r v).copies = s.copies := rfl
@[simp] theorem State.setV_turns (s : State) (r : Reg) (v : Nat) : (s.setV r v).turns = s.turns := rfl
@[simp] theorem State.setV_cur (s : State) (r : Reg) (v : Nat) : (s.setV r v).cur = s.cur := rfl
@[simp] theorem State.setV_active (s : State) (r : Reg) (v : Nat) : (s.setV r v).active = s.active := rfl
@[simp] theorem State.setV_parked (s : State) (r : Reg) (v : Nat) : (s.setV r v).parked = s.parked := rfl
@[simp] theorem State.setV_arg (s : State) (r : Reg) (v : Nat) : (s.setV r v).arg = s.arg := rfl
@[simp] theorem State.setV_free (s : State) (r : Reg) (v : Nat) : (s.setV r v).free = s.free := rfl
@[simp] theorem State.setV_mem (s : State) (r : Reg) (v : Nat) : (s.setV r v).mem = s.mem := rfl
@[simp] theorem State.setV_back (s : State) (r : Reg) (v : Nat) : (s.setV r v).back = s.back := rfl
@[simp] theorem State.setV_stash (s : State) (r : Reg) (v : Nat) : (s.setV r v).stash = s.stash := rfl
@[simp] theorem State.setV_tile (s : State) (r : Reg) (v : Nat) : (s.setV r v).tile = s.tile := rfl
@[simp] theorem State.setV_poison (s : State) (r : Reg) (v : Nat) : (s.setV r v).poison = s.poison := rfl
@[simp] theorem State.setV_backPoison (s : State) (r : Reg) (v : Nat) : (s.setV r v).backPoison = s.backPoison := rfl
@[simp] theorem State.setV_stashPoison (s : State) (r : Reg) (v : Nat) : (s.setV r v).stashPoison = s.stashPoison := rfl
@[simp] theorem State.setV_tilePoison (s : State) (r : Reg) (v : Nat) : (s.setV r v).tilePoison = s.tilePoison := rfl
@[simp] theorem State.setV_ctxs (s : State) (r : Reg) (v : Nat) : (s.setV r v).ctxs = s.ctxs := rfl
@[simp] theorem State.setV_cores (s : State) (r : Reg) (v : Nat) : (s.setV r v).cores = s.cores := rfl
@[simp] theorem State.setV_fw (s : State) (r : Reg) (v : Nat) : (s.setV r v).fw = s.fw := rfl
@[simp] theorem State.setV_tlb (s : State) (r : Reg) (v : Nat) : (s.setV r v).tlb = s.tlb := rfl
@[simp] theorem State.setV_engines (s : State) (r : Reg) (v : Nat) : (s.setV r v).engines = s.engines := rfl
@[simp] theorem State.setV_power (s : State) (r : Reg) (v : Nat) : (s.setV r v).power = s.power := rfl
@[simp] theorem State.setV_featAcc (s : State) (r : Reg) (v : Nat) : (s.setV r v).featAcc = s.featAcc := rfl
@[simp] theorem State.setV_gathers (s : State) (r : Reg) (v : Nat) : (s.setV r v).gathers = s.gathers := rfl
@[simp] theorem State.setV_dirtyMaps (s : State) (r : Reg) (v : Nat) : (s.setV r v).dirtyMaps = s.dirtyMaps := rfl
@[simp] theorem State.setV_pages (s : State) (r : Reg) (v : Nat) : (s.setV r v).pages = s.pages := rfl
@[simp] theorem State.setV_causes (s : State) (r : Reg) (v : Nat) : (s.setV r v).causes = s.causes := rfl
@[simp] theorem State.setV_act_ctx (s : State) (r : Reg) (v : Nat) : (s.setV r v).act.ctx = s.act.ctx := rfl
@[simp] theorem State.setV_act_lcore (s : State) (r : Reg) (v : Nat) : (s.setV r v).act.lcore = s.act.lcore := rfl
@[simp] theorem State.setV_act_record (s : State) (r : Reg) (v : Nat) : (s.setV r v).act.record = s.act.record := rfl
@[simp] theorem State.setV_act_source (s : State) (r : Reg) (v : Nat) : (s.setV r v).act.source = s.act.source := rfl
@[simp] theorem State.setV_act_level (s : State) (r : Reg) (v : Nat) : (s.setV r v).act.level = s.act.level := rfl
@[simp] theorem State.setV_act_priv (s : State) (r : Reg) (v : Nat) : (s.setV r v).act.priv = s.act.priv := rfl
@[simp] theorem State.setV_act_chain (s : State) (r : Reg) (v : Nat) : (s.setV r v).act.chain = s.act.chain := rfl
@[simp] theorem State.setV_act_launch (s : State) (r : Reg) (v : Nat) : (s.setV r v).act.launch = s.act.launch := rfl
@[simp] theorem State.setV_act_savedSlot (s : State) (r : Reg) (v : Nat) : (s.setV r v).act.savedSlot = s.act.savedSlot := rfl

@[simp] theorem State.setPc_copies (s : State) (pc : Word) : (s.setPc pc).copies = s.copies := rfl
@[simp] theorem State.setPc_turns (s : State) (pc : Word) : (s.setPc pc).turns = s.turns := rfl
@[simp] theorem State.setPc_cur (s : State) (pc : Word) : (s.setPc pc).cur = s.cur := rfl
@[simp] theorem State.setPc_active (s : State) (pc : Word) : (s.setPc pc).active = s.active := rfl
@[simp] theorem State.setPc_parked (s : State) (pc : Word) : (s.setPc pc).parked = s.parked := rfl
@[simp] theorem State.setPc_arg (s : State) (pc : Word) : (s.setPc pc).arg = s.arg := rfl
@[simp] theorem State.setPc_free (s : State) (pc : Word) : (s.setPc pc).free = s.free := rfl
@[simp] theorem State.setPc_mem (s : State) (pc : Word) : (s.setPc pc).mem = s.mem := rfl
@[simp] theorem State.setPc_back (s : State) (pc : Word) : (s.setPc pc).back = s.back := rfl
@[simp] theorem State.setPc_stash (s : State) (pc : Word) : (s.setPc pc).stash = s.stash := rfl
@[simp] theorem State.setPc_tile (s : State) (pc : Word) : (s.setPc pc).tile = s.tile := rfl
@[simp] theorem State.setPc_poison (s : State) (pc : Word) : (s.setPc pc).poison = s.poison := rfl
@[simp] theorem State.setPc_backPoison (s : State) (pc : Word) : (s.setPc pc).backPoison = s.backPoison := rfl
@[simp] theorem State.setPc_stashPoison (s : State) (pc : Word) : (s.setPc pc).stashPoison = s.stashPoison := rfl
@[simp] theorem State.setPc_tilePoison (s : State) (pc : Word) : (s.setPc pc).tilePoison = s.tilePoison := rfl
@[simp] theorem State.setPc_ctxs (s : State) (pc : Word) : (s.setPc pc).ctxs = s.ctxs := rfl
@[simp] theorem State.setPc_cores (s : State) (pc : Word) : (s.setPc pc).cores = s.cores := rfl
@[simp] theorem State.setPc_fw (s : State) (pc : Word) : (s.setPc pc).fw = s.fw := rfl
@[simp] theorem State.setPc_tlb (s : State) (pc : Word) : (s.setPc pc).tlb = s.tlb := rfl
@[simp] theorem State.setPc_engines (s : State) (pc : Word) : (s.setPc pc).engines = s.engines := rfl
@[simp] theorem State.setPc_power (s : State) (pc : Word) : (s.setPc pc).power = s.power := rfl
@[simp] theorem State.setPc_featAcc (s : State) (pc : Word) : (s.setPc pc).featAcc = s.featAcc := rfl
@[simp] theorem State.setPc_gathers (s : State) (pc : Word) : (s.setPc pc).gathers = s.gathers := rfl
@[simp] theorem State.setPc_dirtyMaps (s : State) (pc : Word) : (s.setPc pc).dirtyMaps = s.dirtyMaps := rfl
@[simp] theorem State.setPc_pages (s : State) (pc : Word) : (s.setPc pc).pages = s.pages := rfl
@[simp] theorem State.setPc_causes (s : State) (pc : Word) : (s.setPc pc).causes = s.causes := rfl
@[simp] theorem State.setPc_act_ctx (s : State) (pc : Word) : (s.setPc pc).act.ctx = s.act.ctx := rfl
@[simp] theorem State.setPc_act_lcore (s : State) (pc : Word) : (s.setPc pc).act.lcore = s.act.lcore := rfl
@[simp] theorem State.setPc_act_record (s : State) (pc : Word) : (s.setPc pc).act.record = s.act.record := rfl
@[simp] theorem State.setPc_act_source (s : State) (pc : Word) : (s.setPc pc).act.source = s.act.source := rfl
@[simp] theorem State.setPc_act_level (s : State) (pc : Word) : (s.setPc pc).act.level = s.act.level := rfl
@[simp] theorem State.setPc_act_priv (s : State) (pc : Word) : (s.setPc pc).act.priv = s.act.priv := rfl
@[simp] theorem State.setPc_act_chain (s : State) (pc : Word) : (s.setPc pc).act.chain = s.act.chain := rfl
@[simp] theorem State.setPc_act_launch (s : State) (pc : Word) : (s.setPc pc).act.launch = s.act.launch := rfl
@[simp] theorem State.setPc_act_savedSlot (s : State) (pc : Word) : (s.setPc pc).act.savedSlot = s.act.savedSlot := rfl

@[simp] theorem State.raiseFlags_copies (s : State) (f : FFlags) : (s.raiseFlags f).copies = s.copies := rfl
@[simp] theorem State.raiseFlags_turns (s : State) (f : FFlags) : (s.raiseFlags f).turns = s.turns := rfl
@[simp] theorem State.raiseFlags_cur (s : State) (f : FFlags) : (s.raiseFlags f).cur = s.cur := rfl
@[simp] theorem State.raiseFlags_active (s : State) (f : FFlags) : (s.raiseFlags f).active = s.active := rfl
@[simp] theorem State.raiseFlags_parked (s : State) (f : FFlags) : (s.raiseFlags f).parked = s.parked := rfl
@[simp] theorem State.raiseFlags_arg (s : State) (f : FFlags) : (s.raiseFlags f).arg = s.arg := rfl
@[simp] theorem State.raiseFlags_free (s : State) (f : FFlags) : (s.raiseFlags f).free = s.free := rfl
@[simp] theorem State.raiseFlags_mem (s : State) (f : FFlags) : (s.raiseFlags f).mem = s.mem := rfl
@[simp] theorem State.raiseFlags_back (s : State) (f : FFlags) : (s.raiseFlags f).back = s.back := rfl
@[simp] theorem State.raiseFlags_stash (s : State) (f : FFlags) : (s.raiseFlags f).stash = s.stash := rfl
@[simp] theorem State.raiseFlags_tile (s : State) (f : FFlags) : (s.raiseFlags f).tile = s.tile := rfl
@[simp] theorem State.raiseFlags_poison (s : State) (f : FFlags) : (s.raiseFlags f).poison = s.poison := rfl
@[simp] theorem State.raiseFlags_backPoison (s : State) (f : FFlags) : (s.raiseFlags f).backPoison = s.backPoison := rfl
@[simp] theorem State.raiseFlags_stashPoison (s : State) (f : FFlags) : (s.raiseFlags f).stashPoison = s.stashPoison := rfl
@[simp] theorem State.raiseFlags_tilePoison (s : State) (f : FFlags) : (s.raiseFlags f).tilePoison = s.tilePoison := rfl
@[simp] theorem State.raiseFlags_ctxs (s : State) (f : FFlags) : (s.raiseFlags f).ctxs = s.ctxs := rfl
@[simp] theorem State.raiseFlags_cores (s : State) (f : FFlags) : (s.raiseFlags f).cores = s.cores := rfl
@[simp] theorem State.raiseFlags_fw (s : State) (f : FFlags) : (s.raiseFlags f).fw = s.fw := rfl
@[simp] theorem State.raiseFlags_tlb (s : State) (f : FFlags) : (s.raiseFlags f).tlb = s.tlb := rfl
@[simp] theorem State.raiseFlags_engines (s : State) (f : FFlags) : (s.raiseFlags f).engines = s.engines := rfl
@[simp] theorem State.raiseFlags_power (s : State) (f : FFlags) : (s.raiseFlags f).power = s.power := rfl
@[simp] theorem State.raiseFlags_featAcc (s : State) (f : FFlags) : (s.raiseFlags f).featAcc = s.featAcc := rfl
@[simp] theorem State.raiseFlags_gathers (s : State) (f : FFlags) : (s.raiseFlags f).gathers = s.gathers := rfl
@[simp] theorem State.raiseFlags_dirtyMaps (s : State) (f : FFlags) : (s.raiseFlags f).dirtyMaps = s.dirtyMaps := rfl
@[simp] theorem State.raiseFlags_pages (s : State) (f : FFlags) : (s.raiseFlags f).pages = s.pages := rfl
@[simp] theorem State.raiseFlags_causes (s : State) (f : FFlags) : (s.raiseFlags f).causes = s.causes := rfl
@[simp] theorem State.raiseFlags_act_ctx (s : State) (f : FFlags) : (s.raiseFlags f).act.ctx = s.act.ctx := rfl
@[simp] theorem State.raiseFlags_act_lcore (s : State) (f : FFlags) : (s.raiseFlags f).act.lcore = s.act.lcore := rfl
@[simp] theorem State.raiseFlags_act_record (s : State) (f : FFlags) : (s.raiseFlags f).act.record = s.act.record := rfl
@[simp] theorem State.raiseFlags_act_source (s : State) (f : FFlags) : (s.raiseFlags f).act.source = s.act.source := rfl
@[simp] theorem State.raiseFlags_act_level (s : State) (f : FFlags) : (s.raiseFlags f).act.level = s.act.level := rfl
@[simp] theorem State.raiseFlags_act_priv (s : State) (f : FFlags) : (s.raiseFlags f).act.priv = s.act.priv := rfl
@[simp] theorem State.raiseFlags_act_chain (s : State) (f : FFlags) : (s.raiseFlags f).act.chain = s.act.chain := rfl
@[simp] theorem State.raiseFlags_act_launch (s : State) (f : FFlags) : (s.raiseFlags f).act.launch = s.act.launch := rfl
@[simp] theorem State.raiseFlags_act_savedSlot (s : State) (f : FFlags) : (s.raiseFlags f).act.savedSlot = s.act.savedSlot := rfl

@[simp] theorem State.retire_copies (s : State) : (s.retire).copies = s.copies := rfl
@[simp] theorem State.retire_turns (s : State) : (s.retire).turns = s.turns := rfl
@[simp] theorem State.retire_cur (s : State) : (s.retire).cur = s.cur := rfl
@[simp] theorem State.retire_active (s : State) : (s.retire).active = s.active := rfl
@[simp] theorem State.retire_parked (s : State) : (s.retire).parked = s.parked := rfl
@[simp] theorem State.retire_arg (s : State) : (s.retire).arg = s.arg := rfl
@[simp] theorem State.retire_free (s : State) : (s.retire).free = s.free := rfl
@[simp] theorem State.retire_mem (s : State) : (s.retire).mem = s.mem := rfl
@[simp] theorem State.retire_back (s : State) : (s.retire).back = s.back := rfl
@[simp] theorem State.retire_stash (s : State) : (s.retire).stash = s.stash := rfl
@[simp] theorem State.retire_tile (s : State) : (s.retire).tile = s.tile := rfl
@[simp] theorem State.retire_poison (s : State) : (s.retire).poison = s.poison := rfl
@[simp] theorem State.retire_backPoison (s : State) : (s.retire).backPoison = s.backPoison := rfl
@[simp] theorem State.retire_stashPoison (s : State) : (s.retire).stashPoison = s.stashPoison := rfl
@[simp] theorem State.retire_tilePoison (s : State) : (s.retire).tilePoison = s.tilePoison := rfl
@[simp] theorem State.retire_ctxs (s : State) : (s.retire).ctxs = s.ctxs := rfl
@[simp] theorem State.retire_cores (s : State) : (s.retire).cores = s.cores := rfl
@[simp] theorem State.retire_fw (s : State) : (s.retire).fw = s.fw := rfl
@[simp] theorem State.retire_tlb (s : State) : (s.retire).tlb = s.tlb := rfl
@[simp] theorem State.retire_engines (s : State) : (s.retire).engines = s.engines := rfl
@[simp] theorem State.retire_power (s : State) : (s.retire).power = s.power := rfl
@[simp] theorem State.retire_featAcc (s : State) : (s.retire).featAcc = s.featAcc := rfl
@[simp] theorem State.retire_gathers (s : State) : (s.retire).gathers = s.gathers := rfl
@[simp] theorem State.retire_dirtyMaps (s : State) : (s.retire).dirtyMaps = s.dirtyMaps := rfl
@[simp] theorem State.retire_pages (s : State) : (s.retire).pages = s.pages := rfl
@[simp] theorem State.retire_causes (s : State) : (s.retire).causes = s.causes := rfl
@[simp] theorem State.retire_act_ctx (s : State) : (s.retire).act.ctx = s.act.ctx := rfl
@[simp] theorem State.retire_act_lcore (s : State) : (s.retire).act.lcore = s.act.lcore := rfl
@[simp] theorem State.retire_act_record (s : State) : (s.retire).act.record = s.act.record := rfl
@[simp] theorem State.retire_act_source (s : State) : (s.retire).act.source = s.act.source := rfl
@[simp] theorem State.retire_act_level (s : State) : (s.retire).act.level = s.act.level := rfl
@[simp] theorem State.retire_act_priv (s : State) : (s.retire).act.priv = s.act.priv := rfl
@[simp] theorem State.retire_act_chain (s : State) : (s.retire).act.chain = s.act.chain := rfl
@[simp] theorem State.retire_act_launch (s : State) : (s.retire).act.launch = s.act.launch := rfl
@[simp] theorem State.retire_act_savedSlot (s : State) : (s.retire).act.savedSlot = s.act.savedSlot := rfl

@[simp] theorem State.advance_copies (s : State) (n : Nat) : (s.advance n).copies = s.copies := rfl
@[simp] theorem State.advance_turns (s : State) (n : Nat) : (s.advance n).turns = s.turns := rfl
@[simp] theorem State.advance_cur (s : State) (n : Nat) : (s.advance n).cur = s.cur := rfl
@[simp] theorem State.advance_active (s : State) (n : Nat) : (s.advance n).active = s.active := rfl
@[simp] theorem State.advance_parked (s : State) (n : Nat) : (s.advance n).parked = s.parked := rfl
@[simp] theorem State.advance_arg (s : State) (n : Nat) : (s.advance n).arg = s.arg := rfl
@[simp] theorem State.advance_free (s : State) (n : Nat) : (s.advance n).free = s.free := rfl
@[simp] theorem State.advance_mem (s : State) (n : Nat) : (s.advance n).mem = s.mem := rfl
@[simp] theorem State.advance_back (s : State) (n : Nat) : (s.advance n).back = s.back := rfl
@[simp] theorem State.advance_stash (s : State) (n : Nat) : (s.advance n).stash = s.stash := rfl
@[simp] theorem State.advance_tile (s : State) (n : Nat) : (s.advance n).tile = s.tile := rfl
@[simp] theorem State.advance_poison (s : State) (n : Nat) : (s.advance n).poison = s.poison := rfl
@[simp] theorem State.advance_backPoison (s : State) (n : Nat) : (s.advance n).backPoison = s.backPoison := rfl
@[simp] theorem State.advance_stashPoison (s : State) (n : Nat) : (s.advance n).stashPoison = s.stashPoison := rfl
@[simp] theorem State.advance_tilePoison (s : State) (n : Nat) : (s.advance n).tilePoison = s.tilePoison := rfl
@[simp] theorem State.advance_ctxs (s : State) (n : Nat) : (s.advance n).ctxs = s.ctxs := rfl
@[simp] theorem State.advance_cores (s : State) (n : Nat) : (s.advance n).cores = s.cores := rfl
@[simp] theorem State.advance_fw (s : State) (n : Nat) : (s.advance n).fw = s.fw := rfl
@[simp] theorem State.advance_tlb (s : State) (n : Nat) : (s.advance n).tlb = s.tlb := rfl
@[simp] theorem State.advance_engines (s : State) (n : Nat) : (s.advance n).engines = s.engines := rfl
@[simp] theorem State.advance_power (s : State) (n : Nat) : (s.advance n).power = s.power := rfl
@[simp] theorem State.advance_featAcc (s : State) (n : Nat) : (s.advance n).featAcc = s.featAcc := rfl
@[simp] theorem State.advance_gathers (s : State) (n : Nat) : (s.advance n).gathers = s.gathers := rfl
@[simp] theorem State.advance_dirtyMaps (s : State) (n : Nat) : (s.advance n).dirtyMaps = s.dirtyMaps := rfl
@[simp] theorem State.advance_pages (s : State) (n : Nat) : (s.advance n).pages = s.pages := rfl
@[simp] theorem State.advance_causes (s : State) (n : Nat) : (s.advance n).causes = s.causes := rfl
@[simp] theorem State.advance_act_ctx (s : State) (n : Nat) : (s.advance n).act.ctx = s.act.ctx := rfl
@[simp] theorem State.advance_act_lcore (s : State) (n : Nat) : (s.advance n).act.lcore = s.act.lcore := rfl
@[simp] theorem State.advance_act_record (s : State) (n : Nat) : (s.advance n).act.record = s.act.record := rfl
@[simp] theorem State.advance_act_source (s : State) (n : Nat) : (s.advance n).act.source = s.act.source := rfl
@[simp] theorem State.advance_act_level (s : State) (n : Nat) : (s.advance n).act.level = s.act.level := rfl
@[simp] theorem State.advance_act_priv (s : State) (n : Nat) : (s.advance n).act.priv = s.act.priv := rfl
@[simp] theorem State.advance_act_chain (s : State) (n : Nat) : (s.advance n).act.chain = s.act.chain := rfl
@[simp] theorem State.advance_act_launch (s : State) (n : Nat) : (s.advance n).act.launch = s.act.launch := rfl
@[simp] theorem State.advance_act_savedSlot (s : State) (n : Nat) : (s.advance n).act.savedSlot = s.act.savedSlot := rfl

@[simp] theorem State.touch_turns (s : State) (w : Who) (acc : Acc) (ls : List (Loc × Nat)) : (s.touch w acc ls).turns = s.turns := rfl
@[simp] theorem State.touch_cur (s : State) (w : Who) (acc : Acc) (ls : List (Loc × Nat)) : (s.touch w acc ls).cur = s.cur := rfl
@[simp] theorem State.touch_act (s : State) (w : Who) (acc : Acc) (ls : List (Loc × Nat)) : (s.touch w acc ls).act = s.act := rfl
@[simp] theorem State.touch_active (s : State) (w : Who) (acc : Acc) (ls : List (Loc × Nat)) : (s.touch w acc ls).active = s.active := rfl
@[simp] theorem State.touch_parked (s : State) (w : Who) (acc : Acc) (ls : List (Loc × Nat)) : (s.touch w acc ls).parked = s.parked := rfl
@[simp] theorem State.touch_arg (s : State) (w : Who) (acc : Acc) (ls : List (Loc × Nat)) : (s.touch w acc ls).arg = s.arg := rfl
@[simp] theorem State.touch_free (s : State) (w : Who) (acc : Acc) (ls : List (Loc × Nat)) : (s.touch w acc ls).free = s.free := rfl
@[simp] theorem State.touch_mem (s : State) (w : Who) (acc : Acc) (ls : List (Loc × Nat)) : (s.touch w acc ls).mem = s.mem := rfl
@[simp] theorem State.touch_back (s : State) (w : Who) (acc : Acc) (ls : List (Loc × Nat)) : (s.touch w acc ls).back = s.back := rfl
@[simp] theorem State.touch_stash (s : State) (w : Who) (acc : Acc) (ls : List (Loc × Nat)) : (s.touch w acc ls).stash = s.stash := rfl
@[simp] theorem State.touch_tile (s : State) (w : Who) (acc : Acc) (ls : List (Loc × Nat)) : (s.touch w acc ls).tile = s.tile := rfl
@[simp] theorem State.touch_poison (s : State) (w : Who) (acc : Acc) (ls : List (Loc × Nat)) : (s.touch w acc ls).poison = s.poison := rfl
@[simp] theorem State.touch_backPoison (s : State) (w : Who) (acc : Acc) (ls : List (Loc × Nat)) : (s.touch w acc ls).backPoison = s.backPoison := rfl
@[simp] theorem State.touch_stashPoison (s : State) (w : Who) (acc : Acc) (ls : List (Loc × Nat)) : (s.touch w acc ls).stashPoison = s.stashPoison := rfl
@[simp] theorem State.touch_tilePoison (s : State) (w : Who) (acc : Acc) (ls : List (Loc × Nat)) : (s.touch w acc ls).tilePoison = s.tilePoison := rfl
@[simp] theorem State.touch_cores (s : State) (w : Who) (acc : Acc) (ls : List (Loc × Nat)) : (s.touch w acc ls).cores = s.cores := rfl
@[simp] theorem State.touch_fw (s : State) (w : Who) (acc : Acc) (ls : List (Loc × Nat)) : (s.touch w acc ls).fw = s.fw := rfl
@[simp] theorem State.touch_engines (s : State) (w : Who) (acc : Acc) (ls : List (Loc × Nat)) : (s.touch w acc ls).engines = s.engines := rfl
@[simp] theorem State.touch_power (s : State) (w : Who) (acc : Acc) (ls : List (Loc × Nat)) : (s.touch w acc ls).power = s.power := rfl
@[simp] theorem State.touch_pages (s : State) (w : Who) (acc : Acc) (ls : List (Loc × Nat)) : (s.touch w acc ls).pages = s.pages := rfl
@[simp] theorem State.touch_pendRes (s : State) (w : Who) (acc : Acc) (ls : List (Loc × Nat)) : (s.touch w acc ls).pendRes = s.pendRes := rfl
@[simp] theorem State.touch_bi (s : State) (w : Who) (acc : Acc) (ls : List (Loc × Nat)) : (s.touch w acc ls).bi = s.bi := rfl
@[simp] theorem State.touch_si (s : State) (w : Who) (acc : Acc) (ls : List (Loc × Nat)) : (s.touch w acc ls).si = s.si := rfl
@[simp] theorem State.touch_dramSref (s : State) (w : Who) (acc : Acc) (ls : List (Loc × Nat)) : (s.touch w acc ls).dramSref = s.dramSref := rfl
@[simp] theorem State.touch_queues (s : State) (w : Who) (acc : Acc) (ls : List (Loc × Nat)) : (s.touch w acc ls).queues = s.queues := rfl
@[simp] theorem State.touch_mc (s : State) (w : Who) (acc : Acc) (ls : List (Loc × Nat)) : (s.touch w acc ls).mc = s.mc := rfl
@[simp] theorem State.touch_ticks (s : State) (w : Who) (acc : Acc) (ls : List (Loc × Nat)) : (s.touch w acc ls).ticks = s.ticks := rfl
@[simp] theorem State.touch_ctxs (s : State) (w : Who) (acc : Acc) (ls : List (Loc × Nat)) : (s.touch w acc ls).ctxs = s.ctxs := rfl
@[simp] theorem State.touch_tlb (s : State) (w : Who) (acc : Acc) (ls : List (Loc × Nat)) : (s.touch w acc ls).tlb = s.tlb := rfl
@[simp] theorem State.touch_causes (s : State) (w : Who) (acc : Acc) (ls : List (Loc × Nat)) : (s.touch w acc ls).causes = s.causes := rfl

@[simp] theorem State.wake_turns (s : State) (w : WakeCause) : (s.wake w).turns = s.turns := by unfold State.wake; split <;> rfl
@[simp] theorem State.wake_cur (s : State) (w : WakeCause) : (s.wake w).cur = s.cur := by unfold State.wake; split <;> rfl
@[simp] theorem State.wake_act (s : State) (w : WakeCause) : (s.wake w).act = s.act := by unfold State.wake; split <;> rfl
@[simp] theorem State.wake_active (s : State) (w : WakeCause) : (s.wake w).active = s.active := by unfold State.wake; split <;> rfl
@[simp] theorem State.wake_parked (s : State) (w : WakeCause) : (s.wake w).parked = s.parked := by unfold State.wake; split <;> rfl
@[simp] theorem State.wake_arg (s : State) (w : WakeCause) : (s.wake w).arg = s.arg := by unfold State.wake; split <;> rfl
@[simp] theorem State.wake_free (s : State) (w : WakeCause) : (s.wake w).free = s.free := by unfold State.wake; split <;> rfl
@[simp] theorem State.wake_mem (s : State) (w : WakeCause) : (s.wake w).mem = s.mem := by unfold State.wake; split <;> rfl
@[simp] theorem State.wake_back (s : State) (w : WakeCause) : (s.wake w).back = s.back := by unfold State.wake; split <;> rfl
@[simp] theorem State.wake_stash (s : State) (w : WakeCause) : (s.wake w).stash = s.stash := by unfold State.wake; split <;> rfl
@[simp] theorem State.wake_tile (s : State) (w : WakeCause) : (s.wake w).tile = s.tile := by unfold State.wake; split <;> rfl
@[simp] theorem State.wake_poison (s : State) (w : WakeCause) : (s.wake w).poison = s.poison := by unfold State.wake; split <;> rfl
@[simp] theorem State.wake_backPoison (s : State) (w : WakeCause) : (s.wake w).backPoison = s.backPoison := by unfold State.wake; split <;> rfl
@[simp] theorem State.wake_stashPoison (s : State) (w : WakeCause) : (s.wake w).stashPoison = s.stashPoison := by unfold State.wake; split <;> rfl
@[simp] theorem State.wake_tilePoison (s : State) (w : WakeCause) : (s.wake w).tilePoison = s.tilePoison := by unfold State.wake; split <;> rfl
@[simp] theorem State.wake_cores (s : State) (w : WakeCause) : (s.wake w).cores = s.cores := by unfold State.wake; split <;> rfl
@[simp] theorem State.wake_fw (s : State) (w : WakeCause) : (s.wake w).fw = s.fw := by unfold State.wake; split <;> rfl
@[simp] theorem State.wake_engines (s : State) (w : WakeCause) : (s.wake w).engines = s.engines := by unfold State.wake; split <;> rfl
@[simp] theorem State.wake_power (s : State) (w : WakeCause) : (s.wake w).power = s.power := by unfold State.wake; split <;> rfl
@[simp] theorem State.wake_pages (s : State) (w : WakeCause) : (s.wake w).pages = s.pages := by unfold State.wake; split <;> rfl
@[simp] theorem State.wake_pendRes (s : State) (w : WakeCause) : (s.wake w).pendRes = s.pendRes := by unfold State.wake; split <;> rfl
@[simp] theorem State.wake_bi (s : State) (w : WakeCause) : (s.wake w).bi = s.bi := by unfold State.wake; split <;> rfl
@[simp] theorem State.wake_si (s : State) (w : WakeCause) : (s.wake w).si = s.si := by unfold State.wake; split <;> rfl
@[simp] theorem State.wake_dramSref (s : State) (w : WakeCause) : (s.wake w).dramSref = s.dramSref := by unfold State.wake; split <;> rfl
@[simp] theorem State.wake_queues (s : State) (w : WakeCause) : (s.wake w).queues = s.queues := by unfold State.wake; split <;> rfl
@[simp] theorem State.wake_mc (s : State) (w : WakeCause) : (s.wake w).mc = s.mc := by unfold State.wake; split <;> rfl
@[simp] theorem State.wake_ticks (s : State) (w : WakeCause) : (s.wake w).ticks = s.ticks := by unfold State.wake; split <;> rfl
@[simp] theorem State.wake_ctxs (s : State) (w : WakeCause) : (s.wake w).ctxs = s.ctxs := by unfold State.wake; split <;> rfl
@[simp] theorem State.wake_tlb (s : State) (w : WakeCause) : (s.wake w).tlb = s.tlb := by unfold State.wake; split <;> rfl
@[simp] theorem State.wake_gathers (s : State) (w : WakeCause) : (s.wake w).gathers = s.gathers := by unfold State.wake; split <;> rfl
@[simp] theorem State.wake_dirtyMaps (s : State) (w : WakeCause) : (s.wake w).dirtyMaps = s.dirtyMaps := by unfold State.wake; split <;> rfl

@[simp] theorem State.modCtx_turns (s : State) (id : Nat) (g : Ctx → Ctx) : (s.modCtx id g).turns = s.turns := by unfold State.modCtx; split <;> rfl
@[simp] theorem State.modCtx_cur (s : State) (id : Nat) (g : Ctx → Ctx) : (s.modCtx id g).cur = s.cur := by unfold State.modCtx; split <;> rfl
@[simp] theorem State.modCtx_act (s : State) (id : Nat) (g : Ctx → Ctx) : (s.modCtx id g).act = s.act := by unfold State.modCtx; split <;> rfl
@[simp] theorem State.modCtx_active (s : State) (id : Nat) (g : Ctx → Ctx) : (s.modCtx id g).active = s.active := by unfold State.modCtx; split <;> rfl
@[simp] theorem State.modCtx_parked (s : State) (id : Nat) (g : Ctx → Ctx) : (s.modCtx id g).parked = s.parked := by unfold State.modCtx; split <;> rfl
@[simp] theorem State.modCtx_arg (s : State) (id : Nat) (g : Ctx → Ctx) : (s.modCtx id g).arg = s.arg := by unfold State.modCtx; split <;> rfl
@[simp] theorem State.modCtx_free (s : State) (id : Nat) (g : Ctx → Ctx) : (s.modCtx id g).free = s.free := by unfold State.modCtx; split <;> rfl
@[simp] theorem State.modCtx_mem (s : State) (id : Nat) (g : Ctx → Ctx) : (s.modCtx id g).mem = s.mem := by unfold State.modCtx; split <;> rfl
@[simp] theorem State.modCtx_back (s : State) (id : Nat) (g : Ctx → Ctx) : (s.modCtx id g).back = s.back := by unfold State.modCtx; split <;> rfl
@[simp] theorem State.modCtx_stash (s : State) (id : Nat) (g : Ctx → Ctx) : (s.modCtx id g).stash = s.stash := by unfold State.modCtx; split <;> rfl
@[simp] theorem State.modCtx_tile (s : State) (id : Nat) (g : Ctx → Ctx) : (s.modCtx id g).tile = s.tile := by unfold State.modCtx; split <;> rfl
@[simp] theorem State.modCtx_poison (s : State) (id : Nat) (g : Ctx → Ctx) : (s.modCtx id g).poison = s.poison := by unfold State.modCtx; split <;> rfl
@[simp] theorem State.modCtx_backPoison (s : State) (id : Nat) (g : Ctx → Ctx) : (s.modCtx id g).backPoison = s.backPoison := by unfold State.modCtx; split <;> rfl
@[simp] theorem State.modCtx_stashPoison (s : State) (id : Nat) (g : Ctx → Ctx) : (s.modCtx id g).stashPoison = s.stashPoison := by unfold State.modCtx; split <;> rfl
@[simp] theorem State.modCtx_tilePoison (s : State) (id : Nat) (g : Ctx → Ctx) : (s.modCtx id g).tilePoison = s.tilePoison := by unfold State.modCtx; split <;> rfl
@[simp] theorem State.modCtx_cores (s : State) (id : Nat) (g : Ctx → Ctx) : (s.modCtx id g).cores = s.cores := by unfold State.modCtx; split <;> rfl
@[simp] theorem State.modCtx_fw (s : State) (id : Nat) (g : Ctx → Ctx) : (s.modCtx id g).fw = s.fw := by unfold State.modCtx; split <;> rfl
@[simp] theorem State.modCtx_engines (s : State) (id : Nat) (g : Ctx → Ctx) : (s.modCtx id g).engines = s.engines := by unfold State.modCtx; split <;> rfl
@[simp] theorem State.modCtx_power (s : State) (id : Nat) (g : Ctx → Ctx) : (s.modCtx id g).power = s.power := by unfold State.modCtx; split <;> rfl
@[simp] theorem State.modCtx_pages (s : State) (id : Nat) (g : Ctx → Ctx) : (s.modCtx id g).pages = s.pages := by unfold State.modCtx; split <;> rfl
@[simp] theorem State.modCtx_pendRes (s : State) (id : Nat) (g : Ctx → Ctx) : (s.modCtx id g).pendRes = s.pendRes := by unfold State.modCtx; split <;> rfl
@[simp] theorem State.modCtx_bi (s : State) (id : Nat) (g : Ctx → Ctx) : (s.modCtx id g).bi = s.bi := by unfold State.modCtx; split <;> rfl
@[simp] theorem State.modCtx_si (s : State) (id : Nat) (g : Ctx → Ctx) : (s.modCtx id g).si = s.si := by unfold State.modCtx; split <;> rfl
@[simp] theorem State.modCtx_dramSref (s : State) (id : Nat) (g : Ctx → Ctx) : (s.modCtx id g).dramSref = s.dramSref := by unfold State.modCtx; split <;> rfl
@[simp] theorem State.modCtx_queues (s : State) (id : Nat) (g : Ctx → Ctx) : (s.modCtx id g).queues = s.queues := by unfold State.modCtx; split <;> rfl
@[simp] theorem State.modCtx_mc (s : State) (id : Nat) (g : Ctx → Ctx) : (s.modCtx id g).mc = s.mc := by unfold State.modCtx; split <;> rfl
@[simp] theorem State.modCtx_ticks (s : State) (id : Nat) (g : Ctx → Ctx) : (s.modCtx id g).ticks = s.ticks := by unfold State.modCtx; split <;> rfl
@[simp] theorem State.modCtx_tlb (s : State) (id : Nat) (g : Ctx → Ctx) : (s.modCtx id g).tlb = s.tlb := by unfold State.modCtx; split <;> rfl
@[simp] theorem State.modCtx_gathers (s : State) (id : Nat) (g : Ctx → Ctx) : (s.modCtx id g).gathers = s.gathers := by unfold State.modCtx; split <;> rfl
@[simp] theorem State.modCtx_dirtyMaps (s : State) (id : Nat) (g : Ctx → Ctx) : (s.modCtx id g).dirtyMaps = s.dirtyMaps := by unfold State.modCtx; split <;> rfl
@[simp] theorem State.modCtx_causes (s : State) (id : Nat) (g : Ctx → Ctx) : (s.modCtx id g).causes = s.causes := by unfold State.modCtx; split <;> rfl

@[simp] theorem State.modCore_turns (s : State) (id l : Nat) (g : LCore → LCore) : (s.modCore id l g).turns = s.turns := by simp [State.modCore]
@[simp] theorem State.modCore_cur (s : State) (id l : Nat) (g : LCore → LCore) : (s.modCore id l g).cur = s.cur := by simp [State.modCore]
@[simp] theorem State.modCore_act (s : State) (id l : Nat) (g : LCore → LCore) : (s.modCore id l g).act = s.act := by simp [State.modCore]
@[simp] theorem State.modCore_active (s : State) (id l : Nat) (g : LCore → LCore) : (s.modCore id l g).active = s.active := by simp [State.modCore]
@[simp] theorem State.modCore_parked (s : State) (id l : Nat) (g : LCore → LCore) : (s.modCore id l g).parked = s.parked := by simp [State.modCore]
@[simp] theorem State.modCore_arg (s : State) (id l : Nat) (g : LCore → LCore) : (s.modCore id l g).arg = s.arg := by simp [State.modCore]
@[simp] theorem State.modCore_free (s : State) (id l : Nat) (g : LCore → LCore) : (s.modCore id l g).free = s.free := by simp [State.modCore]
@[simp] theorem State.modCore_mem (s : State) (id l : Nat) (g : LCore → LCore) : (s.modCore id l g).mem = s.mem := by simp [State.modCore]
@[simp] theorem State.modCore_back (s : State) (id l : Nat) (g : LCore → LCore) : (s.modCore id l g).back = s.back := by simp [State.modCore]
@[simp] theorem State.modCore_stash (s : State) (id l : Nat) (g : LCore → LCore) : (s.modCore id l g).stash = s.stash := by simp [State.modCore]
@[simp] theorem State.modCore_tile (s : State) (id l : Nat) (g : LCore → LCore) : (s.modCore id l g).tile = s.tile := by simp [State.modCore]
@[simp] theorem State.modCore_poison (s : State) (id l : Nat) (g : LCore → LCore) : (s.modCore id l g).poison = s.poison := by simp [State.modCore]
@[simp] theorem State.modCore_backPoison (s : State) (id l : Nat) (g : LCore → LCore) : (s.modCore id l g).backPoison = s.backPoison := by simp [State.modCore]
@[simp] theorem State.modCore_stashPoison (s : State) (id l : Nat) (g : LCore → LCore) : (s.modCore id l g).stashPoison = s.stashPoison := by simp [State.modCore]
@[simp] theorem State.modCore_tilePoison (s : State) (id l : Nat) (g : LCore → LCore) : (s.modCore id l g).tilePoison = s.tilePoison := by simp [State.modCore]
@[simp] theorem State.modCore_cores (s : State) (id l : Nat) (g : LCore → LCore) : (s.modCore id l g).cores = s.cores := by simp [State.modCore]
@[simp] theorem State.modCore_fw (s : State) (id l : Nat) (g : LCore → LCore) : (s.modCore id l g).fw = s.fw := by simp [State.modCore]
@[simp] theorem State.modCore_engines (s : State) (id l : Nat) (g : LCore → LCore) : (s.modCore id l g).engines = s.engines := by simp [State.modCore]
@[simp] theorem State.modCore_power (s : State) (id l : Nat) (g : LCore → LCore) : (s.modCore id l g).power = s.power := by simp [State.modCore]
@[simp] theorem State.modCore_pages (s : State) (id l : Nat) (g : LCore → LCore) : (s.modCore id l g).pages = s.pages := by simp [State.modCore]
@[simp] theorem State.modCore_pendRes (s : State) (id l : Nat) (g : LCore → LCore) : (s.modCore id l g).pendRes = s.pendRes := by simp [State.modCore]
@[simp] theorem State.modCore_bi (s : State) (id l : Nat) (g : LCore → LCore) : (s.modCore id l g).bi = s.bi := by simp [State.modCore]
@[simp] theorem State.modCore_si (s : State) (id l : Nat) (g : LCore → LCore) : (s.modCore id l g).si = s.si := by simp [State.modCore]
@[simp] theorem State.modCore_dramSref (s : State) (id l : Nat) (g : LCore → LCore) : (s.modCore id l g).dramSref = s.dramSref := by simp [State.modCore]
@[simp] theorem State.modCore_queues (s : State) (id l : Nat) (g : LCore → LCore) : (s.modCore id l g).queues = s.queues := by simp [State.modCore]
@[simp] theorem State.modCore_mc (s : State) (id l : Nat) (g : LCore → LCore) : (s.modCore id l g).mc = s.mc := by simp [State.modCore]
@[simp] theorem State.modCore_ticks (s : State) (id l : Nat) (g : LCore → LCore) : (s.modCore id l g).ticks = s.ticks := by simp [State.modCore]
@[simp] theorem State.modCore_tlb (s : State) (id l : Nat) (g : LCore → LCore) : (s.modCore id l g).tlb = s.tlb := by simp [State.modCore]
@[simp] theorem State.modCore_gathers (s : State) (id l : Nat) (g : LCore → LCore) : (s.modCore id l g).gathers = s.gathers := by simp [State.modCore]
@[simp] theorem State.modCore_dirtyMaps (s : State) (id l : Nat) (g : LCore → LCore) : (s.modCore id l g).dirtyMaps = s.dirtyMaps := by simp [State.modCore]
@[simp] theorem State.modCore_causes (s : State) (id l : Nat) (g : LCore → LCore) : (s.modCore id l g).causes = s.causes := by simp [State.modCore]

@[simp] theorem State.countPort_turns (s : State) (w : Who) (ls : List (Loc × Nat)) : (s.countPort w ls).turns = s.turns := by unfold State.countPort; split <;> [rfl; (split <;> simp)]
@[simp] theorem State.countPort_cur (s : State) (w : Who) (ls : List (Loc × Nat)) : (s.countPort w ls).cur = s.cur := by unfold State.countPort; split <;> [rfl; (split <;> simp)]
@[simp] theorem State.countPort_act (s : State) (w : Who) (ls : List (Loc × Nat)) : (s.countPort w ls).act = s.act := by unfold State.countPort; split <;> [rfl; (split <;> simp)]
@[simp] theorem State.countPort_active (s : State) (w : Who) (ls : List (Loc × Nat)) : (s.countPort w ls).active = s.active := by unfold State.countPort; split <;> [rfl; (split <;> simp)]
@[simp] theorem State.countPort_parked (s : State) (w : Who) (ls : List (Loc × Nat)) : (s.countPort w ls).parked = s.parked := by unfold State.countPort; split <;> [rfl; (split <;> simp)]
@[simp] theorem State.countPort_arg (s : State) (w : Who) (ls : List (Loc × Nat)) : (s.countPort w ls).arg = s.arg := by unfold State.countPort; split <;> [rfl; (split <;> simp)]
@[simp] theorem State.countPort_free (s : State) (w : Who) (ls : List (Loc × Nat)) : (s.countPort w ls).free = s.free := by unfold State.countPort; split <;> [rfl; (split <;> simp)]
@[simp] theorem State.countPort_mem (s : State) (w : Who) (ls : List (Loc × Nat)) : (s.countPort w ls).mem = s.mem := by unfold State.countPort; split <;> [rfl; (split <;> simp)]
@[simp] theorem State.countPort_back (s : State) (w : Who) (ls : List (Loc × Nat)) : (s.countPort w ls).back = s.back := by unfold State.countPort; split <;> [rfl; (split <;> simp)]
@[simp] theorem State.countPort_stash (s : State) (w : Who) (ls : List (Loc × Nat)) : (s.countPort w ls).stash = s.stash := by unfold State.countPort; split <;> [rfl; (split <;> simp)]
@[simp] theorem State.countPort_tile (s : State) (w : Who) (ls : List (Loc × Nat)) : (s.countPort w ls).tile = s.tile := by unfold State.countPort; split <;> [rfl; (split <;> simp)]
@[simp] theorem State.countPort_poison (s : State) (w : Who) (ls : List (Loc × Nat)) : (s.countPort w ls).poison = s.poison := by unfold State.countPort; split <;> [rfl; (split <;> simp)]
@[simp] theorem State.countPort_backPoison (s : State) (w : Who) (ls : List (Loc × Nat)) : (s.countPort w ls).backPoison = s.backPoison := by unfold State.countPort; split <;> [rfl; (split <;> simp)]
@[simp] theorem State.countPort_stashPoison (s : State) (w : Who) (ls : List (Loc × Nat)) : (s.countPort w ls).stashPoison = s.stashPoison := by unfold State.countPort; split <;> [rfl; (split <;> simp)]
@[simp] theorem State.countPort_tilePoison (s : State) (w : Who) (ls : List (Loc × Nat)) : (s.countPort w ls).tilePoison = s.tilePoison := by unfold State.countPort; split <;> [rfl; (split <;> simp)]
@[simp] theorem State.countPort_cores (s : State) (w : Who) (ls : List (Loc × Nat)) : (s.countPort w ls).cores = s.cores := by unfold State.countPort; split <;> [rfl; (split <;> simp)]
@[simp] theorem State.countPort_fw (s : State) (w : Who) (ls : List (Loc × Nat)) : (s.countPort w ls).fw = s.fw := by unfold State.countPort; split <;> [rfl; (split <;> simp)]
@[simp] theorem State.countPort_engines (s : State) (w : Who) (ls : List (Loc × Nat)) : (s.countPort w ls).engines = s.engines := by unfold State.countPort; split <;> [rfl; (split <;> simp)]
@[simp] theorem State.countPort_power (s : State) (w : Who) (ls : List (Loc × Nat)) : (s.countPort w ls).power = s.power := by unfold State.countPort; split <;> [rfl; (split <;> simp)]
@[simp] theorem State.countPort_pages (s : State) (w : Who) (ls : List (Loc × Nat)) : (s.countPort w ls).pages = s.pages := by unfold State.countPort; split <;> [rfl; (split <;> simp)]
@[simp] theorem State.countPort_pendRes (s : State) (w : Who) (ls : List (Loc × Nat)) : (s.countPort w ls).pendRes = s.pendRes := by unfold State.countPort; split <;> [rfl; (split <;> simp)]
@[simp] theorem State.countPort_bi (s : State) (w : Who) (ls : List (Loc × Nat)) : (s.countPort w ls).bi = s.bi := by unfold State.countPort; split <;> [rfl; (split <;> simp)]
@[simp] theorem State.countPort_si (s : State) (w : Who) (ls : List (Loc × Nat)) : (s.countPort w ls).si = s.si := by unfold State.countPort; split <;> [rfl; (split <;> simp)]
@[simp] theorem State.countPort_dramSref (s : State) (w : Who) (ls : List (Loc × Nat)) : (s.countPort w ls).dramSref = s.dramSref := by unfold State.countPort; split <;> [rfl; (split <;> simp)]
@[simp] theorem State.countPort_queues (s : State) (w : Who) (ls : List (Loc × Nat)) : (s.countPort w ls).queues = s.queues := by unfold State.countPort; split <;> [rfl; (split <;> simp)]
@[simp] theorem State.countPort_mc (s : State) (w : Who) (ls : List (Loc × Nat)) : (s.countPort w ls).mc = s.mc := by unfold State.countPort; split <;> [rfl; (split <;> simp)]
@[simp] theorem State.countPort_ticks (s : State) (w : Who) (ls : List (Loc × Nat)) : (s.countPort w ls).ticks = s.ticks := by unfold State.countPort; split <;> [rfl; (split <;> simp)]
@[simp] theorem State.countPort_tlb (s : State) (w : Who) (ls : List (Loc × Nat)) : (s.countPort w ls).tlb = s.tlb := by unfold State.countPort; split <;> [rfl; (split <;> simp)]
@[simp] theorem State.countPort_gathers (s : State) (w : Who) (ls : List (Loc × Nat)) : (s.countPort w ls).gathers = s.gathers := by unfold State.countPort; split <;> [rfl; (split <;> simp)]
@[simp] theorem State.countPort_dirtyMaps (s : State) (w : Who) (ls : List (Loc × Nat)) : (s.countPort w ls).dirtyMaps = s.dirtyMaps := by unfold State.countPort; split <;> [rfl; (split <;> simp)]
@[simp] theorem State.countPort_causes (s : State) (w : Who) (ls : List (Loc × Nat)) : (s.countPort w ls).causes = s.causes := by unfold State.countPort; split <;> [rfl; (split <;> simp)]

@[simp] theorem State.setX_act_pinned (s : State) (r : Reg) (v : Word) : (s.setX r v).act.pinned = s.act.pinned := by unfold State.setX; split <;> rfl
@[simp] theorem State.setX_act_v (s : State) (r : Reg) (v : Word) : (s.setX r v).act.v = s.act.v := by unfold State.setX; split <;> rfl
@[simp] theorem State.setX_act_p (s : State) (r : Reg) (v : Word) : (s.setX r v).act.p = s.act.p := by unfold State.setX; split <;> rfl
@[simp] theorem State.setX_act_frm (s : State) (r : Reg) (v : Word) : (s.setX r v).act.frm = s.act.frm := by unfold State.setX; split <;> rfl
@[simp] theorem State.setX_act_pc (s : State) (r : Reg) (v : Word) : (s.setX r v).act.pc = s.act.pc := by unfold State.setX; split <;> rfl
@[simp] theorem State.setX_act_retired (s : State) (r : Reg) (v : Word) : (s.setX r v).act.retired = s.act.retired := by unfold State.setX; split <;> rfl

@[simp] theorem State.setP_act_pinned (s : State) (p : PReg) (v : Nat) : (s.setP p v).act.pinned = s.act.pinned := by unfold State.setP; split <;> rfl
@[simp] theorem State.setP_act_x (s : State) (p : PReg) (v : Nat) : (s.setP p v).act.x = s.act.x := by unfold State.setP; split <;> rfl
@[simp] theorem State.setP_act_v (s : State) (p : PReg) (v : Nat) : (s.setP p v).act.v = s.act.v := by unfold State.setP; split <;> rfl
@[simp] theorem State.setP_act_frm (s : State) (p : PReg) (v : Nat) : (s.setP p v).act.frm = s.act.frm := by unfold State.setP; split <;> rfl
@[simp] theorem State.setP_act_pc (s : State) (p : PReg) (v : Nat) : (s.setP p v).act.pc = s.act.pc := by unfold State.setP; split <;> rfl
@[simp] theorem State.setP_act_retired (s : State) (p : PReg) (v : Nat) : (s.setP p v).act.retired = s.act.retired := by unfold State.setP; split <;> rfl

@[simp] theorem State.setV_act_pinned (s : State) (r : Reg) (v : Nat) : (s.setV r v).act.pinned = s.act.pinned := rfl
@[simp] theorem State.setV_act_x (s : State) (r : Reg) (v : Nat) : (s.setV r v).act.x = s.act.x := rfl
@[simp] theorem State.setV_act_p (s : State) (r : Reg) (v : Nat) : (s.setV r v).act.p = s.act.p := rfl
@[simp] theorem State.setV_act_frm (s : State) (r : Reg) (v : Nat) : (s.setV r v).act.frm = s.act.frm := rfl
@[simp] theorem State.setV_act_pc (s : State) (r : Reg) (v : Nat) : (s.setV r v).act.pc = s.act.pc := rfl
@[simp] theorem State.setV_act_retired (s : State) (r : Reg) (v : Nat) : (s.setV r v).act.retired = s.act.retired := rfl

@[simp] theorem State.setPc_act_pinned (s : State) (pc : Word) : (s.setPc pc).act.pinned = s.act.pinned := rfl
@[simp] theorem State.setPc_act_x (s : State) (pc : Word) : (s.setPc pc).act.x = s.act.x := rfl
@[simp] theorem State.setPc_act_v (s : State) (pc : Word) : (s.setPc pc).act.v = s.act.v := rfl
@[simp] theorem State.setPc_act_p (s : State) (pc : Word) : (s.setPc pc).act.p = s.act.p := rfl
@[simp] theorem State.setPc_act_frm (s : State) (pc : Word) : (s.setPc pc).act.frm = s.act.frm := rfl
@[simp] theorem State.setPc_act_retired (s : State) (pc : Word) : (s.setPc pc).act.retired = s.act.retired := rfl

@[simp] theorem State.raiseFlags_act_pinned (s : State) (f : FFlags) : (s.raiseFlags f).act.pinned = s.act.pinned := rfl
@[simp] theorem State.raiseFlags_act_x (s : State) (f : FFlags) : (s.raiseFlags f).act.x = s.act.x := rfl
@[simp] theorem State.raiseFlags_act_v (s : State) (f : FFlags) : (s.raiseFlags f).act.v = s.act.v := rfl
@[simp] theorem State.raiseFlags_act_p (s : State) (f : FFlags) : (s.raiseFlags f).act.p = s.act.p := rfl
@[simp] theorem State.raiseFlags_act_pc (s : State) (f : FFlags) : (s.raiseFlags f).act.pc = s.act.pc := rfl
@[simp] theorem State.raiseFlags_act_retired (s : State) (f : FFlags) : (s.raiseFlags f).act.retired = s.act.retired := rfl

@[simp] theorem State.retire_act_x (s : State) : (s.retire).act.x = s.act.x := rfl
@[simp] theorem State.retire_act_v (s : State) : (s.retire).act.v = s.act.v := rfl
@[simp] theorem State.retire_act_p (s : State) : (s.retire).act.p = s.act.p := rfl
@[simp] theorem State.retire_act_frm (s : State) : (s.retire).act.frm = s.act.frm := rfl
@[simp] theorem State.retire_act_pc (s : State) : (s.retire).act.pc = s.act.pc := rfl

@[simp] theorem State.advance_act_x (s : State) (n : Nat) : (s.advance n).act.x = s.act.x := rfl
@[simp] theorem State.advance_act_v (s : State) (n : Nat) : (s.advance n).act.v = s.act.v := rfl
@[simp] theorem State.advance_act_p (s : State) (n : Nat) : (s.advance n).act.p = s.act.p := rfl
@[simp] theorem State.advance_act_frm (s : State) (n : Nat) : (s.advance n).act.frm = s.act.frm := rfl

@[simp] theorem State.setPc_act_pc (s : State) (pc : Word) : (s.setPc pc).act.pc = pc := rfl
@[simp] theorem State.advance_act_pinned (s : State) (n : Nat) : (s.advance n).act.pinned = [] := rfl
@[simp] theorem State.advance_act_pc (s : State) (n : Nat) : (s.advance n).act.pc = s.act.pc + BitVec.ofNat 64 n := rfl

/-- x0 reads zero. -/
@[simp] theorem State.x_zero (s : State) : s.x 0 = 0 := rfl

/-- A write to x0 is discarded. -/
@[simp] theorem State.setX_zero (s : State) (v : Word) : s.setX 0 v = s := rfl

/-- A written register other than x0 reads the value. -/
theorem State.x_setX_same (s : State) {r : Reg} (h : r ≠ 0) (v : Word) : (s.setX r v).x r = v := by
  simp [State.x, State.setX, h]

/-- A write leaves every other register. -/
theorem State.x_setX_other (s : State) {r q : Reg} (h : q ≠ r) (v : Word) : (s.setX r v).x q = s.x q := by
  unfold State.x State.setX
  split <;> [rfl; skip]
  split
  · rfl
  · have : r.val ≠ q.val := fun e => h (Fin.ext e.symm)
    simp [this]

/-- A write to p0 is discarded. -/
@[simp] theorem State.setP_zero (s : State) (v : Nat) : s.setP 0 v = s := rfl

@[simp] theorem State.advance_x (s : State) (n : Nat) (r : Reg) : (s.advance n).x r = s.x r := rfl
@[simp] theorem State.raiseFlags_x (s : State) (f : FFlags) (r : Reg) : (s.raiseFlags f).x r = s.x r := rfl
@[simp] theorem State.setV_x (s : State) (d : Reg) (v : Nat) (r : Reg) : (s.setV d v).x r = s.x r := rfl
@[simp] theorem State.setP_x (s : State) (d : PReg) (v : Nat) (r : Reg) : (s.setP d v).x r = s.x r := by
  unfold State.setP; split <;> rfl
@[simp] theorem State.advance_vreg (s : State) (n : Nat) (r : Reg) : (s.advance n).vreg r = s.vreg r := rfl
@[simp] theorem State.advance_preg (s : State) (n : Nat) (p : PReg) : (s.advance n).preg p = s.preg p := rfl

end Sys2Proof.Machine
end

