-- ==== Sys2Proof/Laws/Ops.lean ====
section
/-! SUPPORT. What the shared forms of a meaning answer, and what the shared operations over memory can change. Keeps P op says
that op takes a state with P to states with P; its rules follow the shape of an operation. -/

namespace Sys2Proof.Machine

/-! ## The forms of a meaning -/

theorem perform_ok {len : Nat} {op : Op Unit} {s t : State} (h : op s = .ok ((), t)) : perform len op s = .next t := by
  simp [perform, h]

theorem perform_error {len : Nat} {op : Op Unit} {s : State} {e : Trap} (h : op s = .error e) :
    perform len op s = .next (s.trapped len e) := by
  simp [perform, h]

theorem finish_ok {op : Op Unit} {s t : State} (h : op s = .ok ((), t)) : finish op s = .next (t.advance 4) := by
  simp [finish, perform, bind, StateT.bind, Except.bind, h, modify, modifyGet, MonadStateOf.modifyGet, StateT.modifyGet, pure,
    Except.pure]

theorem finish_error {op : Op Unit} {s : State} {e : Trap} (h : op s = .error e) :
    finish op s = .next (s.trapped 4 e) := by
  simp [finish, perform, bind, StateT.bind, Except.bind, h]

theorem finishC_ok {op : Op Unit} {s t : State} (h : op s = .ok ((), t)) : finishC op s = .next (t.advance 2) := by
  simp [finishC, perform, bind, StateT.bind, Except.bind, h, modify, modifyGet, MonadStateOf.modifyGet, StateT.modifyGet, pure,
    Except.pure]

theorem finishC_error {op : Op Unit} {s : State} {e : Trap} (h : op s = .error e) :
    finishC op s = .next (s.trapped 2 e) := by
  simp [finishC, perform, bind, StateT.bind, Except.bind, h]

theorem event_ok {op : Op Unit} {s t : State} (h : op s = .ok ((), t)) : event op s = .next t := by
  simp [event, h]

theorem event_error {op : Op Unit} {s : State} {e : Trap} (h : op s = .error e) : event op s = .next s := by
  simp [event, h]

/-- A meaning run by perform always answers a next state. -/
theorem perform_next (len : Nat) (op : Op Unit) (s : State) : ∃ t, perform len op s = .next t := by
  unfold perform
  split <;> exact ⟨_, rfl⟩

/-- An event always answers a next state. -/
theorem event_next (op : Op Unit) (s : State) : ∃ t, event op s = .next t := by
  unfold event
  split <;> exact ⟨_, rfl⟩

/-! ## Steps of an operation -/

theorem op_pure {α : Type} (a : α) (s : State) : (pure a : Op α) s = .ok (a, s) := rfl

theorem op_get (s : State) : (get : Op State) s = .ok (s, s) := rfl

theorem op_set (s t : State) : (set t : Op Unit) s = .ok ((), t) := rfl

theorem op_modify (f : State → State) (s : State) : (modify f : Op Unit) s = .ok ((), f s) := rfl

theorem op_throw {α : Type} (e : Trap) (s : State) : (throw e : Op α) s = .error e := rfl

theorem op_bind_ok {α β : Type} {op : Op α} {f : α → Op β} {s t : State} {a : α} (h : op s = .ok (a, t)) :
    (op >>= f) s = f a t := by
  simp [bind, StateT.bind, Except.bind, h]

theorem op_bind_error {α β : Type} {op : Op α} {f : α → Op β} {s : State} {e : Trap} (h : op s = .error e) :
    (op >>= f) s = .error e := by
  simp [bind, StateT.bind, Except.bind, h]

/-- An operation made of two answers exactly when both do. -/
theorem op_bind_eq_ok {α β : Type} {op : Op α} {f : α → Op β} {s u : State} {b : β} :
    (op >>= f) s = .ok (b, u) ↔ ∃ a t, op s = .ok (a, t) ∧ f a t = .ok (b, u) := by
  constructor
  · intro h
    cases hop : op s with
    | error e => rw [op_bind_error hop] at h; cases h
    | ok p => exact ⟨p.1, p.2, rfl, by rwa [op_bind_ok hop] at h⟩
  · rintro ⟨a, t, h, h'⟩
    rw [op_bind_ok h, h']

/-! ## What an operation leads to

`Leads R s op`: whenever op answers from s, R holds between s and the state after it. Its rules follow the shape of an
operation, so that a relation is shown of an operation by showing it of its parts. -/

/-- Whenever the operation answers from s, the relation holds between s and the state after it. -/
def Leads {α : Type} (R : State → State → Prop) (s : State) (op : Op α) : Prop := ∀ a t, op s = .ok (a, t) → R s t

variable {α β : Type} {R : State → State → Prop} {s : State}

theorem Leads.pure (hr : ∀ s, R s s) (a : α) : Leads R s (Pure.pure a : Op α) := by
  intro b t e
  cases e
  exact hr s

theorem Leads.get (hr : ∀ s, R s s) : Leads R s (MonadState.get : Op State) := by
  intro b t e
  cases e
  exact hr s

theorem Leads.throw (e : Trap) : Leads R s (throw e : Op α) := by
  intro b t h
  cases h

theorem Leads.raise (code : Nat) : Leads R s (raise code : Op α) := Leads.throw _

theorem Leads.raiseAt (code va : Nat) : Leads R s (raiseAt code va : Op α) := Leads.throw _

theorem Leads.set {t : State} (h : R s t) : Leads R s (MonadStateOf.set t : Op Unit) := by
  intro b u e
  cases e
  exact h

theorem Leads.modify {f : State → State} (h : R s (f s)) : Leads R s (modify f : Op Unit) := by
  intro b t e
  cases e
  exact h

theorem Leads.bind {op : Op α} {f : α → Op β} (ht : ∀ s t u, R s t → R t u → R s u) (h : Leads R s op)
    (h' : ∀ a t, op s = .ok (a, t) → Leads R t (f a)) : Leads R s (op >>= f) := by
  intro b u e
  obtain ⟨a, t, e1, e2⟩ := op_bind_eq_ok.1 e
  exact ht s t u (h a t e1) (h' a t e1 b u e2)

/-- An operation that looks at the state first goes on from the state it saw. -/
theorem Leads.getBind {f : State → Op α} (h : Leads R s (f s)) : Leads R s ((MonadState.get : Op State) >>= f) := by
  intro b u e
  exact h b u e

theorem Leads.ite {c : Prop} [Decidable c] {x y : Op α} (hx : c → Leads R s x) (hy : ¬c → Leads R s y) :
    Leads R s (if c then x else y) := by
  split
  · exact hx ‹_›
  · exact hy ‹_›

theorem Leads.require (hr : ∀ s, R s s) (c : Bool) (code : Nat) : Leads R s (Machine.require c code) := by
  unfold Machine.require
  exact Leads.ite (fun _ => Leads.pure hr _) (fun _ => Leads.raise _)

/-- Running an operation for its outcome leads where the operation leads: a trap leaves the state as it was. -/
theorem Leads.attempt (hr : ∀ s, R s s) {op : Op α} (h : Leads R s op) : Leads R s (attempt op) := by
  intro b t e
  unfold Machine.attempt at e
  cases hop : op s with
  | error x => rw [hop] at e; cases e; exact hr s
  | ok p => rw [hop] at e; cases e; exact h p.1 p.2 hop

theorem Leads.theCtx (hr : ∀ s, R s s) (id : Nat) : Leads R s (theCtx id) := by
  unfold Machine.theCtx
  refine Leads.getBind ?_
  split
  · exact Leads.pure hr _
  · exact Leads.raise _

/-- What an operation and taking a fault lead to, a meaning run by perform leads to. -/
theorem perform_leads {len : Nat} {op : Op Unit} {t : State} (h : Leads R s op) (htrap : ∀ e, R s (s.trapped len e))
    (e : perform len op s = .next t) : R s t := by
  unfold perform at e
  cases hop : op s with
  | error x => rw [hop] at e; cases e; exact htrap x
  | ok p => rw [hop] at e; cases e; exact h p.1 p.2 hop

/-- What an operation leads to, an event leads to; a trap changes nothing. -/
theorem event_leads {op : Op Unit} {t : State} (hr : ∀ s, R s s) (h : Leads R s op) (e : event op s = .next t) : R s t := by
  unfold event at e
  cases hop : op s with
  | error x => rw [hop] at e; cases e; exact hr s
  | ok p => rw [hop] at e; cases e; exact h p.1 p.2 hop

/-! ## The range checks -/

/-- What a check of addresses can change: the cached translations, and accessed bits in memory. -/
def sameButTables (s t : State) : Prop := t = { s with tlb := t.tlb, mem := t.mem }

theorem sameButTables.refl (s : State) : sameButTables s s := rfl

theorem sameButTables.trans (s t u : State) (h : sameButTables s t) (h' : sameButTables t u) : sameButTables s u := by
  unfold sameButTables at *
  rw [h', h]

theorem globalLoc_tables (id : Nat) (c : Ctx) (acc : Acc) (ea : Nat) : Leads sameButTables s (globalLoc id c acc ea) := by
  unfold globalLoc
  refine Leads.getBind ?_
  split
  · split
    · exact Leads.pure sameButTables.refl _
    · exact Leads.raiseAt _ _
  · split
    · split
      · exact Leads.pure sameButTables.refl _
      · exact Leads.raiseAt _ _
    · split
      · exact Leads.raiseAt _ _
      · split
        · exact Leads.raiseAt _ _
        · exact Leads.bind sameButTables.trans (Leads.set rfl) (fun _ _ _ => Leads.pure sameButTables.refl _)

theorem resolve_tables (w : Who) (acc : Acc) (va : Nat) : Leads sameButTables s (resolve w acc va) := by
  cases w with
  | phys =>
    simp only [resolve]
    exact Leads.ite (fun _ => Leads.getBind (Leads.pure sameButTables.refl _)) (fun _ => Leads.raiseAt _ _)
  | core id l =>
    simp only [resolve]
    refine Leads.ite (fun _ => Leads.raiseAt _ _) (fun _ => ?_)
    refine Leads.bind sameButTables.trans (Leads.theCtx sameButTables.refl id) (fun c t _ => ?_)
    refine Leads.ite (fun _ => ?_) (fun _ => globalLoc_tables id c acc va)
    refine Leads.ite (fun _ => Leads.raiseAt _ _) (fun _ => ?_)
    split
    · exact Leads.raiseAt _ _
    · split
      · exact Leads.pure sameButTables.refl _
      · refine Leads.ite (fun _ => Leads.raiseAt _ _) (fun _ => ?_)
        refine Leads.bind sameButTables.trans (globalLoc_tables id c acc _) (fun loc u _ => ?_)
        split <;> exact Leads.pure sameButTables.refl _

theorem resolveAll_tables (w : Who) (acc : Acc) (ps : List (Nat × Nat)) : Leads sameButTables s (resolveAll w acc ps) := by
  induction ps generalizing s with
  | nil => exact Leads.pure sameButTables.refl _
  | cons p rest ih =>
    unfold resolveAll
    exact Leads.bind sameButTables.trans (resolve_tables w acc p.1) fun _ _ _ =>
      Leads.bind sameButTables.trans ih fun _ _ _ => Leads.pure sameButTables.refl _

/-- What an access that passes its checks can change: as those, and what is known of partials and of lines stored through a map. -/
def sameButChecked (s t : State) : Prop := t = { s with tlb := t.tlb, mem := t.mem, gathers := t.gathers, dirtyMaps := t.dirtyMaps }

theorem sameButChecked.refl (s : State) : sameButChecked s s := rfl

theorem sameButChecked.trans (s t u : State) (h : sameButChecked s t) (h' : sameButChecked t u) : sameButChecked s u := by
  unfold sameButChecked at *
  rw [h', h]

theorem sameButTables.checked {s t : State} (h : sameButTables s t) : sameButChecked s t := by
  unfold sameButTables sameButChecked at *
  rw [h]

/-- A check of a range answers the locations of its pieces, and then notes the access (R136, R157, R162). -/
theorem checkRange_eq_ok {w : Who} {acc : Acc} {va n : Nat} {t : State} {ls : List (Loc × Nat)} :
    checkRange w acc va n s = .ok (ls, t) ↔ ∃ u, resolveAll w acc (piecesOf va n) s = .ok (ls, u) ∧ t = u.touch w acc ls := by
  unfold checkRange
  rw [op_bind_eq_ok]
  constructor
  · rintro ⟨ls', u, h, h'⟩
    rw [op_bind_ok (op_modify _ _)] at h'
    cases h'
    exact ⟨u, h, rfl⟩
  · rintro ⟨u, h, rfl⟩
    exact ⟨ls, u, h, rfl⟩

/-- A check of a range changes the cached translations, accessed bits, and what is known of partials and of lines stored through a
map, and nothing else (R136, R162, R312). -/
theorem checkRange_checked (w : Who) (acc : Acc) (va n : Nat) : Leads sameButChecked s (checkRange w acc va n) := by
  intro ls t h
  obtain ⟨u, hu, rfl⟩ := checkRange_eq_ok.1 h
  have := resolveAll_tables w acc _ ls u hu
  unfold sameButTables at this
  unfold sameButChecked
  rw [this]
  rfl

/-- A read of a range changes what its check changes. -/
theorem readRange_checked (w : Who) (va n : Nat) : Leads sameButChecked s (readRange w va n) := by
  unfold readRange
  refine Leads.bind sameButChecked.trans (checkRange_checked w .load va n) (fun ls t _ => ?_)
  exact Leads.getBind (Leads.pure sameButChecked.refl _)

/-! ## Stores keep the canonical form of memory -/

/-- Storing under a key or without one keeps the canonical form (R375). -/
theorem Memory.wf_writePlain {m : Memory} (h : m.wf = true) (key : Option (BitVec 256)) (pa : Nat) (bs : List Byte) :
    (m.writePlain key pa bs).wf = true := by
  cases key <;> exact Memory.wf_writeBytes h _ _

/-- The bits of a dirty log written into their entries keep the canonical form (R314). -/
theorem Memory.wf_dirty (es : List Nat) {m : Memory} (h : m.wf = true) :
    (es.foldl (fun m e => m.writeNat e 8 (m.readNat e 8 ||| 0xC0)) m).wf = true := by
  induction es generalizing m with
  | nil => exact h
  | cons e es ih => exact ih (Memory.wf_writeNat h _ _ _)

theorem State.logDirty_wf (s : State) (core : PCore) (pte : Option Nat) (h : s.mem.wf = true) :
    (s.logDirty core pte).mem.wf = true := by
  cases pte with
  | none => exact h
  | some a =>
    simp only [State.logDirty]
    split
    · exact h
    · split
      · exact Memory.wf_dirty _ h
      · exact h

@[simp] theorem State.logDirty_stash (s : State) (core : PCore) (pte : Option Nat) : (s.logDirty core pte).stash = s.stash := by
  cases pte with
  | none => rfl
  | some a =>
    simp only [State.logDirty]
    split
    · rfl
    · split <;> rfl

/-- A store at a location keeps the canonical form of memory and of the stashes. -/
theorem State.writeLoc_wf (s : State) (w : Who) (loc : Loc) (bs : List Byte) (h : s.mem.wf = true) (h' : s.stash.wf = true) :
    (s.writeLoc w loc bs).mem.wf = true ∧ (s.writeLoc w loc bs).stash.wf = true := by
  cases loc with
  | stash key => exact ⟨h, Memory.wf_writeBytes h' _ _⟩
  | mem pa kind dsc pte via key =>
    simp only [State.writeLoc]
    split
    · exact ⟨h, h'⟩
    · cases w with
      | phys => exact ⟨Memory.wf_writePlain h key pa bs, h'⟩
      | core id l => cases via <;>
        exact ⟨State.logDirty_wf _ _ _ (Memory.wf_writePlain h key pa bs), by simpa [State.noteMapped] using h'⟩

/-- A store over several locations keeps them too. -/
theorem State.writeLocs_wf (w : Who) (ls : List (Loc × Nat)) (bs : List Byte) (s : State) (h : s.mem.wf = true)
    (h' : s.stash.wf = true) : (s.writeLocs w ls bs).mem.wf = true ∧ (s.writeLocs w ls bs).stash.wf = true := by
  induction ls generalizing s bs with
  | nil => exact ⟨h, h'⟩
  | cons p ls ih =>
    obtain ⟨hm, hs⟩ := s.writeLoc_wf w p.1 (bs.take p.2) h h'
    exact ih _ _ hm hs

end Sys2Proof.Machine
end

