-- ==== Sys2Proof/Laws/Spill.lean ====
section
/-! SUPPORT. Association lists after a change, and what giving spilled entries their places can change (R43). -/

namespace Sys2Proof.Machine

/-- The value that was put. -/
@[simp] theorem assocGet_assocPut_same {κ α : Type} [DecidableEq κ] (t : List (κ × α)) (k : κ) (v : α) :
    assocGet (assocPut t k v) k = some v := by
  induction t with
  | nil => simp [assocPut, assocGet]
  | cons p t ih =>
    obtain ⟨k', v'⟩ := p
    by_cases h : k' = k <;> simp [assocPut, assocGet, h, ih]

/-- Every other key's value stands. -/
@[simp] theorem assocGet_assocPut_other {κ α : Type} [DecidableEq κ] (t : List (κ × α)) {k j : κ} (h : j ≠ k) (v : α) :
    assocGet (assocPut t k v) j = assocGet t j := by
  induction t with
  | nil => simp [assocPut, assocGet, h.symm]
  | cons p t ih =>
    obtain ⟨k', v'⟩ := p
    by_cases e : k' = k
    · simp [assocPut, assocGet, e, h.symm]
    · by_cases e' : k' = j
      · subst e'
        simp [assocPut, assocGet, e]
      · simp [assocPut, assocGet, e, e', ih]

/-- What giving spilled entries of a context their places can change: that context's places, and PAGEs raised for them. -/
structure spills (id : Nat) (s t : State) : Prop where
  rest : t = { s with pages := t.pages, ctxs := t.ctxs }
  pages : ∃ ps, t.pages = s.pages ++ ps ∧ ∀ p ∈ ps, p.ctx = id ∧ ∃ a, p.who = .spill a
  own : ∀ c, s.ctx? id = some c → ∃ places, t.ctx? id = some { c with spill := c.spill ++ places }
  none_ : s.ctx? id = none → t.ctx? id = none
  others : ∀ j, j ≠ id → t.ctx? j = s.ctx? j

theorem spills.refl (id : Nat) (s : State) : spills id s s :=
  ⟨rfl, ⟨[], by simp⟩, fun c h => ⟨[], by simp [h]⟩, fun h => h, fun _ _ => rfl⟩

theorem spills.trans {id : Nat} {s t u : State} (h : spills id s t) (h' : spills id t u) : spills id s u := by
  obtain ⟨r, ⟨ps, hp, hq⟩, o, n, e⟩ := h
  obtain ⟨r', ⟨ps', hp', hq'⟩, o', n', e'⟩ := h'
  refine ⟨by rw [r', r], ⟨ps ++ ps', by rw [hp', hp, List.append_assoc], ?_⟩, ?_, fun h => n' (n h), ?_⟩
  · intro p hm
    rcases List.mem_append.1 hm with h | h
    exacts [hq p h, hq' p h]
  · intro c hc
    obtain ⟨x, hx⟩ := o c hc
    obtain ⟨y, hy⟩ := o' _ hx
    exact ⟨x ++ y, by simpa using hy⟩
  · intro j hj
    rw [e' j hj, e j hj]

/-- One place. -/
theorem State.spillPlace_spills (s : State) (id die : Nat) : spills id s (s.spillPlace id die) := by
  unfold State.spillPlace
  split
  · exact spills.refl id s
  · rename_i c hc
    dsimp only
    split
    · refine ⟨rfl, ⟨[], by simp [State.setCtx]⟩, fun d hd => ⟨[c.freePlace], ?_⟩, fun h => by simp [hc] at h, fun j hj => ?_⟩
      · rw [hc] at hd
        cases hd
        simp [State.ctx?, State.setCtx]
      · simp [State.ctx?, State.setCtx, hj]
    · split
      · exact spills.refl id s
      · exact ⟨rfl, ⟨_, rfl, by simp⟩, fun d hd => ⟨[], by simpa [State.ctx?] using hd⟩, fun h => h, fun _ _ => rfl⟩

/-- Giving spilled entries their places changes no more than spills says (R43). -/
theorem State.spillRoom_spills (s : State) (id die : Nat) : spills id s (s.spillRoom id die) := by
  unfold State.spillRoom
  split
  · exact spills.refl id s
  · generalize List.range _ = l
    rename_i h
    clear h
    induction l generalizing s with
    | nil => exact spills.refl id s
    | cons n l ih => exact (s.spillPlace_spills id die).trans (ih _)

/-- Nothing happens while the places taken hold all that is spilled. -/
theorem State.spillRoom_fits {s : State} {id : Nat} {c : Ctx} (hc : s.ctx? id = some c) (h : s.spilledOf c ≤ 64 * c.spill.length)
    (die : Nat) : s.spillRoom id die = s := by
  have : (s.spilledOf c + 63) / 64 - c.spill.length = 0 := by omega
  simp [State.spillRoom, hc, this]

end Sys2Proof.Machine
end

