-- ==== Sys2Proof/Tests/Slice0.lean ====
section
/-! SUPPORT. Tests: an ill-formed term for each check, words of the spec's encodings, and a witness for the hypotheses of each
statement. Words are written out from the encoding tables of the spec, results by hand from its rules. -/

namespace Sys2Proof.Tests

open Sys2Proof Sys2Proof.Machine

set_option maxRecDepth 20000
set_option Elab.async false
set_option exponentiation.threshold 2048

/-! ## Helpers -/

/-- The package that an outcome leaves; the reset one where it leaves none. -/
def after (o : Host.Outcome State Fault Refusal) : State :=
  match o with
  | .next s => s
  | .fault _ | .refused _ => State.reset

/-- Whether an outcome is a given next state. -/
def nextIs (o : Host.Outcome State Fault Refusal) (t : State) : Bool :=
  match o with
  | .next s => decide (s = t)
  | .fault _ | .refused _ => false

/-- A task of context 1 on an SI core, its heap the first 2 GiB (log 9). -/
def base : State := State.reset.loadTask

/-- The base package with some scalar registers set. -/
def withX (xs : List (Reg × Word)) : State :=
  { base with act := { base.act with x := xs.foldl (fun x p => x.set p.1.val p.2 p.1.isLt) base.act.x } }

/-- The base package as firmware runs it. -/
def privileged_ (s : State) : State := { s with act := { s.act with priv := true } }

/-- The context of the base package. -/
def ctx1 (s : State) : Ctx := (s.ctx? 1).getD Ctx.blank

/-- Bytes placed in the running core's stash. -/
def inStash (s : State) (off : Nat) (bs : List Byte) : State := { s with stash := s.stash.writeBytes (stashKey 1 0 off) bs }

/-- 64-bit words as bytes. -/
def words64 (ws : List Nat) : List Byte := ws.flatMap (natToBytes 8)

/-- First address of the local stash window (R121). -/
def local0 : Nat := 0xFFFF00000000

/-! ## Well-formedness (R65 to R87) -/

/-- An ill-formed term for each check. -/
theorem test_wellformed_refuses : ∀ i ∈ [Instr.cVaddf 0 0 false, .jalr 0 1 0, .ldq 1 2 0, .stq 3 2 0, .cas2 1 2 4 false false,
    .cas2 2 3 5 false false, .send 2 1 1, .sendr 6 1 1 1, .wlpop 1, .vdivUnsigned 1 2 3 0 .f32, .vmaxUnsigned 1 2 3 0 .bf16,
    .vminUnsigned 1 2 3 0 .f64, .vsqrt 1 2 0 .i8, .vrcp 1 2 0 .i64, .vrsq 1 2 0 .f64, .vexp2 1 2 0 .i16, .vlog2 1 2 0 .f64,
    .vtanh 1 2 0 .i8, .vsin 1 2 0 .f64, .vand 1 2 3 0 .f32, .vor 1 2 3 0 .f16, .vxor 1 2 3 0 .bf16, .vnot 1 2 0 .f64,
    .vshl 1 2 3 0 .f32, .vshr 1 2 3 0 .f32, .vsar 1 2 3 0 .f32, .vcmpLo 1 2 3 0 .f32, .vcmpLs 1 2 3 0 .f32,
    .vcvtUnsigned 1 2 24 0 .f32, .vqnt 1 2 0 0 .i8, .vqnt 1 2 20 0 .f32, .vdqt 1 2 0 0 .f64, .vdqt 1 2 31 0 .f32,
    .vredMaxUnsigned 1 2 0 .f32, .vredMinUnsigned 1 2 0 .f32, .vscanMaxUnsigned 1 2 0 .f32, .vargmMaxUnsigned 1 2 0 .f32,
    .vargmMinUnsigned 1 2 0 .f32, .vidx 1 0 .f32, .vrng 1 0 .f32, .vrngc 1 2 3 0 .f16, .mma 1 2 3 3 0 0, .mma 1 2 3 0 16 0,
    .mmag 0 2 3 3 0 0, .mmag 0 2 3 0 16 0, .mmag 2 2 3 1 0 0, .mfs 1 0x1A, .mts 0x206 1], ¬i.WellFormed := by decide +kernel

/-- Terms at the limits of the same checks. -/
theorem test_wellformed_admits : ∀ i ∈ [Instr.cVaddf 0 0 true, .jalr 1 0 0, .ldq 30 2 0, .cas2 2 3 30 false false, .send 28 1 1,
    .vcvtUnsigned 1 2 24 0 .i8, .vqnt 1 2 19 0 .bf16, .mma 1 2 3 2 15 3, .mmag 8 2 3 2 15 0, .mfs 1 0x205, .mts 0x019 1],
    i.WellFormed := by decide +kernel

/-! ## Words of R62 to R90, written out field by field -/

/-- The 16-bit forms (R65, R66). -/
theorem test_decode_short : decode 0b0000_00001_00010_0_0 = some (.cVaddf 1 2 false) ∧
    decode 0b0010_11111_00000_1_0 = some (.cVmulf 31 0 true) ∧ decode 0b1010_00011_00100_0_0 = some (.cVand 3 4) ∧
    decode 0b1101_00011_00100_0_0 = some (.cVmov 3 4) ∧ decode 0b1111_00001_00001_1_0 = some (.cVabsf 1 1 true) ∧
    decode 0b1101_00011_00100_1_0 = none ∧ decode 0 = none := by decide +kernel

/-- Scalar ALU, immediates and LDHI (R72, R73). -/
theorem test_decode_scalar : decode 0b000001_00001_00010_00011_00100_11001_1 = some (.sel 1 2 3 4) ∧
    decode 0b000001_00001_00010_00011_11111_11010_1 = some (.ext 1 2 3 31) ∧
    decode 0b000001_00001_00010_00000_00000_10000_1 = some (.clz 1 2) ∧
    decode 0b000001_00001_00010_00001_00000_10000_1 = none ∧
    decode 0b000110_00001_00010_000000000_111111_1 = some (.shli 1 2 63) ∧
    decode 0b000110_00001_00010_000000001_000000_1 = none ∧
    decode 0b001100_00101_10000000000000000000_1 = some (.ldhi 5 0x80000) := by decide +kernel

/-- Jumps and branches (R70, R73, R74). -/
theorem test_decode_control : decode 0b010000_1111111111111111111111111_1 = some (.j 0x1FFFFFF) ∧
    decode 0b010001_0000000000000000000000010_1 = some (.jal 2) ∧
    decode 0b010010_00000_00111_000000000000000_1 = some (.jr 7 0) ∧
    decode 0b010010_11110_00111_111111111111111_1 = some (.jalr 30 7 0x7FFF) ∧
    decode 0b011001_00101_00000_000000000000100_1 = some (.dbnz 5 4) ∧
    decode 0b011001_00101_00001_000000000000100_1 = none ∧
    decode 0b011010_00010_00011_000000000000100_1 = some (.bpa 2 3 4) ∧
    decode 0b011010_10010_00011_000000000000100_1 = some (.bpn 2 3 4) ∧
    decode 0b011010_01010_00011_000000000000100_1 = none := by decide +kernel

/-- Memory, atomics and fences (R75 to R78). -/
theorem test_decode_memory : decode 0b011011_00010_00011_111_000000010000_1 = some (.ldq 2 3 16) ∧
    decode 0b011011_00011_00011_111_000000010000_1 = none ∧ decode 0b011100_00010_00011_100_000000010000_1 = none ∧
    decode 0b011101_00001_00010_00011_10100_00000_1 = some (.ldx .z16 1 2 3) ∧
    decode 0b011101_00000_00010_00011_00000_00011_1 = some (.smap 2 3) ∧
    decode 0b011110_00010_00001_00100_10100_01001_1 = some (.cas2 2 1 4 true false) ∧
    decode 0b011110_00010_00001_00100_10000_01001_1 = none ∧
    decode 0b011111_00000_00000_100_010_000000000_1 = some (.fence .pkg .rel) ∧
    decode 0b011111_00000_00000_110_010_000000000_1 = none ∧
    decode 0b011111_00000_00000_100_000_000000000_1 = none := by decide +kernel

/-- Tasks, messages, barriers, lists, launches (R79). -/
theorem test_decode_tasks : decode 0b100000_00100_00001_00010_00000_00100_1 = some (.bind 1 2 4) ∧
    decode 0b100001_00000_00000_00000_00000_00000_1 = some .taskEnd ∧
    decode 0b100001_00000_00001_00010_00000_01000_1 = some (.endwDq 1 2) ∧
    decode 0b100001_00000_00000_00000_00000_01001_1 = some .yld ∧
    decode 0b100010_00100_00001_00010_00011_00001_1 = some (.sendr 4 1 2 3) ∧
    decode 0b100011_00000_00001_00010_00000_00000_1 = some (.bari 1 2) ∧
    decode 0b100100_00010_00000_00000_00000_00001_1 = some (.wlpop 2) ∧
    decode 0b100101_00001_00010_00000_00000_00000_1 = some (.launch 1 2) := by decide +kernel

/-- The vector majors (R80 to R82, R90). -/
theorem test_decode_vector : decode 0xA400000D = some (.vadd 0 0 0 0 .f32) ∧
    decode 0b101000_00001_00000_00000_000_0000_000_1 = some (.vwid 1) ∧
    decode 0b101000_00001_00010_00011_100_0001_010_1 = some (.plb 1 2 3 4 .i32) ∧
    decode 0b101001_00001_00010_00011_001_0100_000_1 = some (.vdivUnsigned 1 2 3 1 .i8) ∧
    decode 0b101001_00001_00010_00011_001_0100_110_1 = none ∧
    decode 0b101010_00001_00010_00000_001_0011_101_1 = some (.vexp2 1 2 1 .f16) ∧
    decode 0b101011_00001_00010_00011_001_0110_011_1 = some (.vsar 1 2 3 1 .i64) ∧
    decode 0b101100_00001_00010_00011_001_0010_110_1 = some (.vcmpLt 1 2 3 1 .f32) ∧
    decode 0b101100_00001_00010_11001_000_0110_000_1 = some (.vcvt 1 2 0b11001 0 .i8) ∧
    decode 0b101101_00001_00010_00000_001_1011_001_1 = some (.vargmMinUnsigned 1 2 1 .i16) ∧
    decode 0b101110_00001_00010_00011_001_0011_001_1 = some (.vins 1 2 3 1 .i16) ∧
    decode 0b101111_00001_00010_00011_001_0101_110_1 = some (.vsct 1 2 3 1 .f32) ∧
    decode 0b110000_00001_00000_00000_001_0000_010_1 = some (.vrng 1 1 .i32) ∧
    decode 0b110001_00001_00010_00011_00100_101_10_1 = some (.vfma 1 2 3 4 5 .f32) ∧
    decode 0b110010_00001_00010_00011_00100_101_11_1 = some (.vfms 1 2 3 4 5 .f64) := by decide +kernel

/-- Engines, tensors, nets, prefix and KV, generation, islands, system (R83 to R87). -/
theorem test_decode_engines : decode 0b110101_00001_00010_00011_10_001111_11_1 = some (.mma 1 2 3 2 15 3) ∧
    decode 0b110101_00001_00010_00011_10_010000_11_1 = none ∧
    decode 0b110110_01000_00010_00011_10_000000_00_1 = some (.mmag 8 2 3 2 0 0) ∧
    decode 0b110111_00001_00010_00011_00010_00100_1 = some (.cpy 1 2 3 2) ∧
    decode 0b110111_00001_00010_00011_00001_00101_1 = none ∧
    decode 0b111000_00000_00010_00011_00000_00000_1 = some (.tdef 2 3) ∧
    decode 0b111010_00001_00010_00000_00111_00010_1 = some (.nld 1 2 7) ∧
    decode 0b111010_00001_00010_00000_01000_00010_1 = none ∧
    decode 0b111011_00001_00010_00011_00000_00110_1 = some (.mskt 1 2 3) ∧
    decode 0b111100_00001_00010_00011_00000_00100_1 = some (.latx 1 2 3) ∧
    decode 0b111101_00000_00010_00000_00000_00001_1 = some (.mbnd 2) ∧
    decode 0b111110_00001_00000_0000001110_00000_1 = some (.mfs 1 0xE) ∧
    decode 0b111110_00000_00001_0000010011_00001_1 = some (.mts 0x13 1) ∧
    decode 0b111110_00000_00000_1111111111_00010_1 = some (.trap 1023) ∧
    decode 0b111110_00000_00000_0000000000_00101_1 = some .eret ∧
    decode 0b111110_00000_00010_00011_00000_01000_1 = some (.ctxr 2 3) ∧
    decode 0b111110_00001_00000_0000011010_00000_1 = none := by decide +kernel

/-- A step from a loaded package runs the word where it fetches (log 9). -/
theorem test_step_runs : (after (step (State.reset.withFetchWord 32 0b000010_00001_00000_000000000000111_1))).x 1 = 7 := by decide +kernel

/-! ## Witnesses: each statement's hypotheses met on concrete states, with what it concludes there -/

/-- EncodeThenDecode and DecodeThenEncode: ADDI x1, x0, 7. -/
theorem witness_encoding : (Instr.addi 1 0 7).WellFormed ∧ encode (.addi 1 0 7) = some 0b000010_00001_00000_000000000000111_1 ∧
    decode 0b000010_00001_00000_000000000000111_1 = some (.addi 1 0 7) := by decide +kernel

/-- StepRunsDecoded. -/
theorem witness_step_decoded : let s := State.reset.withFetchWord 32 0b000010_00001_00000_000000000000111_1
    s.turns = [] ∧ s.active = true ∧ s.act.retired < 2 ^ 20 ∧
      (∃ s', fetchWord s = .ok ((4, 0b000010_00001_00000_000000000000111_1), s')) :=
  ⟨rfl, rfl, by decide, _, rfl⟩

/-- TurnsAreTaken: a slot, an event, and an encoded instruction as an event. -/
theorem witness_turns : let ev (i : Instr) : State := { base with turns := [.event i {}] }
    nextIs (step { base with turns := [.slot ⟨.si 1, 0⟩] }) ({ base with turns := [] }.switch ⟨.si 1, 0⟩) = true ∧
    nextIs (step (ev .siIdle)) (after (exec .siIdle { base with turns := [], arg := {} })) = true ∧
    (match step (ev .taskEnd) with | .fault .notAnEvent => true | _ => false) = true := by decide +kernel

/-- StepWithoutInstruction: an empty slot, a task at its limit, a fetch outside the heap, a word of zeros. -/
theorem witness_step_without : let far : State := { base with act := { base.act with pc := 0x80000000 } }
    let old : State := { base with act := { base.act with retired := 2 ^ 20 } }
    nextIs (step State.reset) State.reset = true ∧ nextIs (step old) (old.slice old.act.pc) = true ∧
    fetchWord far = .error (.fault codePage 0x80000000 false 0) ∧ (step far matches .next _) ∧
    fetchWord base = .ok ((2, 0), base) ∧ decode 0 = none ∧ nextIs (step base) (base.takeFault 2 codeIll 0 false 0) = true := by
  decide +kernel

/-- MemoriesStayCanonical, RegistersStaySound and UserTaskIsolation at the first step of a loaded package. -/
theorem witness_invariants : let s := State.reset.withFetchWord 32 0b011100_00001_00000_000_000000000000_1
    s.memoriesWf = true ∧ s.registersWf = true ∧ s.act.priv = false ∧ (Instr.st .b8 1 0 0).encoded = true ∧
      (after (step s)).memoriesWf = true ∧ (after (step s)).registersWf = true := by decide +kernel

/-- Division: its corners (R149). -/
theorem witness_division : let s := withX [(1, 0x8000000000000000), (2, BitVec.allOnes 64), (3, 7)]
    (after (exec (.div 4 1 2) s)).x 4 = 0x8000000000000000 ∧ (after (exec (.rem 4 1 2) s)).x 4 = 0 ∧
    (after (exec (.div 4 3 0) s)).x 4 = BitVec.allOnes 64 ∧ (after (exec (.rem 4 3 0) s)).x 4 = 7 ∧
    (after (exec (.rem 4 1 3) s)).x 4 = -1 ∧ (after (exec (.divz 4 2 3) s)).x 4 = 0x2492492492492492 := by decide +kernel

/-- ScalarArithmetic: wraps, high parts, counts and compares (R148). -/
theorem witness_arithmetic : let s := withX [(1, BitVec.allOnes 64), (2, 2), (3, 0x10), (5, 65)]
    (after (exec (.add 4 1 2) s)).x 4 = 1 ∧ (after (exec (.mulh 4 1 2) s)).x 4 = BitVec.allOnes 64 ∧
    (after (exec (.mulhz 4 1 2) s)).x 4 = 1 ∧ (after (exec (.shl 4 2 5) s)).x 4 = 4 ∧
    (after (exec (.sar 4 1 5) s)).x 4 = BitVec.allOnes 64 ∧ (after (exec (.clz 4 3) s)).x 4 = 59 ∧
    (after (exec (.ctz 4 0) s)).x 4 = 64 ∧ (after (exec (.popc 4 1) s)).x 4 = 64 ∧ (after (exec (.slt 4 1 2) s)).x 4 = 1 ∧
    (after (exec (.slo 4 1 2) s)).x 4 = 0 ∧ (after (exec (.min 4 1 2) s)).x 4 = BitVec.allOnes 64 ∧
    (after (exec (.maxz 4 1 2) s)).x 4 = BitVec.allOnes 64 ∧ (after (exec (.andn 4 1 2) s)).x 4 = -3 ∧
    (after (exec (.add 0 1 2) s)).x 0 = 0 := by decide +kernel

/-- FieldAndImmediateForms (R150 to R152). -/
theorem witness_fields : let s := withX [(1, 0xABCD), (2, 4), (3, -1), (4, 60)]
    (after (exec (.ext 5 1 2 7) s)).x 5 = 0xBC ∧ (after (exec (.ins 3 1 4 31) s)).x 3 = 0xDFFFFFFFFFFFFFFF ∧
    (after (exec (.addx 5 1 2 3) s)).x 5 = 0xABED ∧ (after (exec (.sel 5 1 2 0) s)).x 5 = 4 ∧
    (after (exec (.sloi 5 1 0x7FFF) s)).x 5 = 1 ∧ (after (exec (.addi 5 2 0x7FFC) s)).x 5 = 0 ∧
    (after (exec (.ldhi 5 0x80000) s)).x 5 = 0xFFFFFFFC00000000 ∧ (after (exec (.adpc 5 1) s)).x 5 = 0x18000 := by decide +kernel

/-- JumpsAndBranches: an even and an odd target, a branch taken and not (R153 to R156). -/
theorem witness_jumps : let s := withX [(1, 0x2000), (2, 1)]
    (s.x 1 + 0).getLsbD 0 = false ∧ (s.x 2 + 0).getLsbD 0 = true ∧ (after (exec (.jalr 2 1 0) s)).act.pc = 0x2000 ∧
    (after (exec (.jalr 2 1 0) s)).x 2 = 0x10004 ∧ nextIs (exec (.jr 2 0) s) (s.takeFault 4 codeAlign 1 false 0) = true ∧
    (after (exec (.j 0x1FFFFFF) s)).act.pc = 0xFFFE ∧ (after (exec (.beq 0 0 4) s)).act.pc = 0x10008 ∧
    (after (exec (.blt 0 2 4) s)).act.pc = 0x10008 ∧ (after (exec (.bhs 0 2 4) s)).act.pc = 0x10004 ∧
    (after (exec (.dbnz 2 4) s)).act.pc = 0x10004 ∧ (after (exec (.dbnz 2 4) s)).x 2 = 0 ∧
    (after (exec (.bpa 0 0 4) s)).act.pc = 0x10008 ∧ (after (exec (.bpn 0 1 4) s)).act.pc = 0x10008 := by decide +kernel

/-- The checks of one load of the base package. -/
def loadAt (a n : Nat) (s : State) : Except Trap (List (Loc × Nat) × State) := checkRange (.core 1 0) .load a n s

/-- Whether checks end in a given fault. -/
def failsAt (o : Except Trap (List (Loc × Nat) × State)) (code a : Nat) : Bool := decide (o = .error (.fault code a false 0))

/-- Whether checks give one piece and leave the package as it was. -/
def givesAt (o : Except Trap (List (Loc × Nat) × State)) (loc : Loc) (n : Nat) (s : State) : Bool := decide (o = .ok ([(loc, n)], s))

/-- AccessChecks: each clause at a boundary address. -/
theorem witness_access : base.ctx? 1 = some (ctx1 base) ∧ (ctx1 base).inHeap 0x80000000 = false ∧ base.tlb = [] ∧
    (walk base.mem (ctx1 base).ptroot 0x80000000).isNone = true ∧ failsAt (loadAt 0x80000000 8 base) codePage 0x80000000 = true ∧
    failsAt (loadAt (2 ^ 48) 8 base) codeProt (2 ^ 48) = true ∧
    givesAt (loadAt (local0 + 98303) 1 base) (.stash (stashKey 1 0 98303)) 1 base = true ∧
    failsAt (loadAt (local0 + 98304) 1 base) codeProt (local0 + 98304) = true ∧
    givesAt (loadAt (0xFFFE00000000 + 511 * 0x20000) 8 base) (.stash (stashKey 1 511 0)) 8 base = true := by decide +kernel

/-- AccessChecks: the heap's last bytes, an instruction fetch from a window, and DRAM in self-refresh. -/
theorem witness_access_heap : (ctx1 base).inHeap 0x7FFFFFF8 = true ∧
    givesAt (loadAt 0x7FFFFFF8 8 base) (.mem 0x7FFFFFF8 1 false none none none) 8 base = true ∧
    failsAt (checkRange (.core 1 0) .fetch local0 2 base) codeProt local0 = true ∧
    failsAt (loadAt 0 8 { base with dramSref := true }) codeRes 0 = true := by decide +kernel

/-- A tree of one 64 KiB page for context 1 at 0x80000000: its tables at 0x100000, its frame at 0x300000, permissions rwx. -/
def paged : State :=
  let m := base.mem.writeNat 0x100000 8 (0x11 * 2 ^ 11 * 2 + 1)
  let m := m.writeNat (0x220000 + 8 * 0x400) 8 (0x23 * 2 ^ 11 + 1)
  let m := m.writeNat 0x230000 8 (2 ^ 46 + 0x30 * 2 ^ 11 + 0xF)
  { base with mem := m, ctxs := [(1, { ctx1 base with ptroot := 0x100000 })] }

/-- CheckFrame: a walk that caches its entry and sets the accessed bit. -/
theorem witness_check_frame : let t := match loadAt 0x80000040 8 paged with
      | .ok (_, t) => t
      | .error _ => base
    loadAt 0x80000040 8 paged = .ok ([(.mem 0x300040 0 false (some 0x230000) none none, 8)], t) ∧
    t.tlb = [⟨1, 0x8000, 2 ^ 46 + 0x30 * 2 ^ 11 + 0x4F, false, 0x230000⟩] ∧
    t.mem.readNat 0x230000 8 = 2 ^ 46 + 0x30 * 2 ^ 11 + 0x4F := by decide +kernel

/-- LoadsDeliver and StoresComplete: a store, its load back, sign and zero, a pair; an address that fails. -/
theorem witness_loads : let s := withX [(1, BitVec.ofNat 64 (local0 + 64)), (2, 0x1234567890ABCDEF), (3, 1)]
    let t := after (exec (.st .b64 2 1 0) s)
    checkRange s.who .store (local0 + 64) 8 s = .ok ([(.stash (stashKey 1 0 64), 8)], s) ∧ s.anyPoison [(.stash 64, 8)] = false ∧
    (after (exec (.ld .s8 4 1 0) t)).x 4 = 0xFFFFFFFFFFFFFFEF ∧ (after (exec (.ld .z16 4 1 0) t)).x 4 = 0xCDEF ∧
    (after (exec (.ldx .s32 4 1 3) t)).x 4 = 0x000000007890ABCD ∧ (after (exec (.ldq 4 1 0) t)).x 4 = 0x1234567890ABCDEF ∧
    (after (exec (.ldq 4 1 0) t)).x 5 = 0 ∧ nextIs (exec (.ld .b64 4 2 0) s)
      (s.takeFault 4 codeProt 0x1234567890ABCDEF false 0) = true ∧
    nextIs (exec (.stx .b8 2 2 3) s) (s.takeFault 4 codeProt 0x1234567890ABCDF0 false 0) = true := by decide +kernel

/-- LoadsDeliver on a poisoned line, with and without trap-on-poison (R145). -/
theorem witness_poison : let s := { withX [(1, 0x1000)] with poison := [0x40] }
    let trap := { s with ctxs := [(1, { ctx1 base with flt := 1 })] }
    s.anyPoison [(.mem 0x1000 1 false none none none, 8)] = true ∧ s.trapsPoison = false ∧ trap.trapsPoison = true ∧
    (after (exec (.ld .b64 4 1 0) s)).x 4 = BitVec.allOnes 64 ∧
    nextIs (exec (.ld .b64 4 1 0) trap) (trap.takeFault 4 codePois 0x1000 true 0) = true := by decide +kernel

/-- StoreFrame: a store in one piece to the heap, untraced. -/
theorem witness_store_frame : let s := withX [(1, 0x1000), (2, 0x55)]
    s.eaM 1 0 = 0x1000 ∧ s.traces 0x1000 [(.mem 0x1000 1 false none none none, 8)] = false ∧
    checkRange s.who .store 0x1000 8 s = .ok ([(.mem 0x1000 1 false none none none, 8)], s) ∧
    (after (exec (.st .b64 2 1 0) s)).mem.readBytes 0x1000 8 = natToBytes 8 0x55 := by decide +kernel

/-- AtomicsComplete: each form on 32 bits; a misaligned address, one of more than 48 bits, poison. -/
theorem witness_atomics : let a : Word := BitVec.ofNat 64 (local0 + 64)
    let s := inStash (withX [(1, a), (2, 3), (3, a + 2), (4, 0xFFFFFFFFFFFFFFFE)]) 64 (natToBytes 8 0xFFFFFFFE)
    let old (i : Instr) (d : Reg) : Word := (after (exec i s)).x d
    let new (i : Instr) : Nat := (after (exec i s)).stash.readNat (stashKey 1 0 64) 4
    checkRange s.who .atomic (local0 + 64) 4 s = .ok ([(.stash (stashKey 1 0 64), 4)], s) ∧
    old (.amoAdd 5 1 2 false false false) 5 = 0xFFFFFFFFFFFFFFFE ∧ new (.amoAdd 5 1 2 false false false) = 1 ∧
    new (.amoMin 5 1 2 false false false) = 0xFFFFFFFE ∧ new (.amoMax 5 1 2 false false false) = 3 ∧
    new (.amoSwp 5 1 2 false false false) = 3 ∧ new (.amoCas 4 1 2 false false false) = 3 ∧
    new (.amoCas 2 1 2 false false false) = 0xFFFFFFFE ∧ new (.redAdd 1 2 false false false) = 1 ∧
    new (.redMax 1 2 false false false) = 3 ∧ new (.amoXor 5 1 2 false false false) = 0xFFFFFFFD ∧
    old (.cas2 6 1 2 false false) 6 = 0xFFFFFFFE ∧
    nextIs (exec (.amoAdd 5 3 2 false false false) s) (s.takeFault 4 codeAlign (local0 + 66) false 0) = true ∧
    nextIs (exec (.redAdd 4 2 false false true) s) (s.takeFault 4 codeProt 0xFFFFFFFFFFFFFFFE false 0) = true := by decide +kernel

/-- AtomicsComplete: 1.5 + 2.5 in f32 (R169). -/
theorem witness_atomic_fadd : let s := inStash (withX [(1, BitVec.ofNat 64 local0), (2, 0x40200000)]) 0 (natToBytes 4 0x3FC00000)
    (after (exec (.amoFadd 5 1 2 false false false) s)).x 5 = 0x3FC00000 ∧
    (after (exec (.redFadd 1 2 false false false) s)).stash.readNat (stashKey 1 0 0) 4 = 0x40800000 := by decide +kernel

/-- CacheMaintenance: nothing, too much, the windows, and one line written back and dropped (R163). -/
theorem witness_cache : let s := withX [(1, 0x1000), (2, 64), (3, 65537), (4, BitVec.ofNat 64 local0), (5, 0x77)]
    let t := after (exec (.st .b64 5 1 0) s)
    checkRange t.who .load 0x1000 64 t = .ok ([(.mem 0x1000 1 false none none none, 64)], t) ∧
    (after (exec (.cfl 1 2) t)).back.readNat 0x1000 8 = 0x77 ∧ (after (exec (.cinv 1 2) t)).mem.readNat 0x1000 8 = 0 ∧
    nextIs (exec (.cfl 1 0) s) (s.advance 4) = true ∧ nextIs (exec (.cinv 1 3) s) (s.takeFault 4 codeIll 0 false 0) = true ∧
    nextIs (exec (.cfl 4 2) s) (s.takeFault 4 codeProt local0 false 0) = true := by decide +kernel

/-- StashMaps: a map made, replaced and cleared; a bad range, a bad base (R161, R162). -/
theorem witness_maps : let s := withX [(1, 2 ^ 17 * 4 + 0x100), (2, 0x2000), (3, 2 ^ 17 * 1536 + 64), (4, 0x2001), (5, 98304), (6, 1)]
    let maps (t : State) : List MapEntry := (t.lcore 1 0).maps
    let t := after (exec (.smap 1 2) s)
    maps t = [⟨0x100, 4, 0x2000⟩] ∧ maps (after (exec (.smap 1 0) t)) = [] ∧
    nextIs (exec (.smap 3 2) s) (s.takeFault 4 codeProt 0 false 0) = true ∧
    nextIs (exec (.smap 1 4) s) (s.takeFault 4 codeAlign 0 false 0) = true ∧
    nextIs (exec (.swb 5 6) s) (s.takeFault 4 codeProt 0 false 0) = true ∧
    (after (exec (.swb 6 0) s)).act.pc = 0x10004 ∧ (after (exec (.sdrop 0 5) t)).act.pc = 0x10008 := by decide +kernel

/-- The worked example of R164 to R166: a ring of 4 entries of 256 bytes, its descriptor at stash offset 0x100. -/
def ringAt (take put give : Nat) : State :=
  inStash (withX [(1, BitVec.ofNat 64 (local0 + 0x100)), (2, 1), (3, 3), (4, 2 ^ 63 + 1), (5, 2 ^ 13)]) 0x100
    (words64 [0x28004000] ++ natToBytes 4 take ++ natToBytes 4 put ++ natToBytes 4 0 ++ natToBytes 4 give ++ natToBytes 8 0)

/-- Words 1 and 2 of the descriptor. -/
def ringWords (s : State) : Nat × Nat :=
  (s.stash.readNat (stashKey 1 0 0x108) 8, s.stash.readNat (stashKey 1 0 0x110) 8)

/-- CircularBuffers: the steps of the worked example, the refusals, an empty buffer and reserved bits. -/
theorem witness_rings :
    (after (exec (.cbtake 6 1) (ringAt 0 3 0))).x 6 = 0xFFFF00004000 ∧
    (after (exec (.cbtake 6 1) (ringAt 1 3 0))).x 6 = 0xFFFF00004100 ∧
    ringWords (after (exec (.cbtake 6 1) (ringAt 1 3 0))) = (3 * 2 ^ 32 + 2, 0) ∧
    (after (exec (.cbtake 6 1) (ringAt 3 3 0))).x 6 = BitVec.allOnes 64 ∧
    ringWords (after (exec (.cbgive 1 2) (ringAt 2 4 0))) = (4 * 2 ^ 32 + 2, 2 ^ 32) ∧
    ringWords (after (exec (.cbgive 1 3) (ringAt 2 4 0))) = (4 * 2 ^ 32 + 2, 2 ^ 16) ∧
    ringWords (after (exec (.cbgive 1 4) (ringAt 2 4 0))) = (4 * 2 ^ 32 + 2, 2 ^ 16) ∧
    ringWords (after (exec (.cbgive 1 4) (ringAt 2 4 1))) = (5 * 2 ^ 32 + 2, 2 ^ 32) ∧
    nextIs (exec (.cbgive 1 5) (ringAt 2 4 0)) ((ringAt 2 4 0).takeFault 4 codeIll 0 false 0) = true ∧
    nextIs (exec (.cbgive 1 0) (ringAt 2 4 0)) ((ringAt 2 4 0).advance 4) = true := by decide +kernel

/-- CircularBuffers: an entry handed to the reader that waits (R187). -/
theorem witness_ring_hand :
    let s := { inStash (ringAt 0 0 0) 0x118 (natToBytes 8 0x2000) with
      ctxs := [(1, { ctx1 base with waits := [⟨.cb (local0 + 0x100), 0x2000, 0, none⟩] })] }
    let t := after (exec (.cbgive 1 4) s)
    ringWords t = (2 ^ 32 + 1, 0) ∧ t.stash.readNat (stashKey 1 0 0x118) 8 = 0 ∧
    (ctx1 t).waits.map (·.got) = [some (natToBytes 8 0xFFFF00004000, [])] := by decide +kernel

/-! ## The vector pipe -/

/-- A vector register from its elements of w bits. -/
def vecOf (w : Nat) : List Nat → BitVec 1024
  | [] => 0
  | x :: xs => BitVec.ofNat 1024 x ||| vecOf w xs <<< w

/-- The base package with vector registers and p1 set. -/
def withV (vs : List (Reg × BitVec 1024)) (p : BitVec 128) : State :=
  let s := withX [(1, 6), (2, 9), (3, 2), (4, 100), (5, 0x1000), (6, 8)]
  { s with act := { s.act with
    v := vs.foldl (fun v q => v.set q.1.val q.2 q.1.isLt) s.act.v
    p := s.act.p.set 1 p } }

/-- The first elements of a vector register. -/
def firstOf (n : Nat) (t : ElemType) (r : Reg) (o : Host.Outcome State Fault Refusal) : List Nat :=
  (List.range n).map ((after o).elem t r)

/-- PredicateForms: VWID on the small island, PLB on both sides of its bound, PFST and PCNT of a governed predicate. -/
theorem witness_predicates : let s := withV [] 0x0110
    (after (exec (.vwid 9) s)).x 9 = 256 ∧ (after (exec (.plb 2 1 2 0 .i32) s)).preg 2 = 0x111 ∧
    (after (exec (.pnot 2 1 0) s)).preg 2 = 0xFFFFFEEF ∧ (after (exec (.pand 2 1 0 1) s)).preg 2 = 0x110 ∧
    (after (exec (.pxor 2 1 0 1) s)).preg 2 = 0 ∧ (after (exec (.por 0 1 1 1) s)).preg 0 = s.preg 0 ∧
    (after (exec (.pfst 2 1 0 .i32) s)).preg 2 = 0x10 ∧ (after (exec (.pcnt 9 1 0 .i32) s)).x 9 = 2 := by decide +kernel

/-- VectorIntegerForms: wraps, signs, division by zero, counts beyond the width, an inactive element, an index out of range. -/
theorem witness_vector_integers : let s := withV [(1, vecOf 8 [0x7F, 0x80, 0xFF, 5]), (2, vecOf 8 [1, 9, 0, 0xFE]), (3, vecOf 8 [7, 7, 7, 7])] 0x7
    let gives (i : Instr) : List Nat := firstOf 4 .i8 3 (exec i s)
    gives (.vadd 3 1 2 1 .i8) = [0x80, 0x89, 0xFF, 7] ∧ gives (.vdiv 3 1 2 1 .i8) = [0x7F, 0xF2, 0xFF, 7] ∧
    gives (.vdivUnsigned 3 1 2 0 .i8) = [0x7F, 0x0E, 0xFF, 0] ∧ gives (.vmax 3 1 2 0 .i8) = [0x7F, 9, 0, 5] ∧
    gives (.vminUnsigned 3 1 2 0 .i8) = [1, 9, 0, 5] ∧ gives (.vabs 3 1 0 .i8) = [0x7F, 0x80, 1, 5] ∧
    gives (.vshl 3 1 2 0 .i8) = [0xFE, 0, 0xFF, 0x40] ∧ gives (.vsar 3 1 2 0 .i8) = [0x3F, 0xC0, 0xFF, 0] ∧
    gives (.vperm 3 1 2 0 .i8) = [0x80, 0, 0x7F, 0] ∧ gives (.vsel 3 1 2 1 .i8) = [0x7F, 0x80, 0xFF, 0xFE] ∧
    gives (.vbcast 3 4 1 .i8) = [100, 100, 100, 7] ∧ gives (.vidx 3 0 .i8) = [0, 1, 2, 3] := by decide +kernel

/-- VectorFloatForms on f32: 1.5 + 2.25, an overflow, inf - inf, an exact root; FRM gathers the flags of active elements. -/
theorem witness_vector_floats :
    let s := withV [(1, vecOf 32 [0x3FC00000, 0x7F7FFFFF, 0x7F800000]), (2, vecOf 32 [0x40100000, 0x7F7FFFFF, 0xFF800000])] 0x11
    let gives (i : Instr) : List Nat := firstOf 3 .f32 3 (exec i s)
    gives (.vadd 3 1 2 0 .f32) = [0x40700000, 0x7F800000, 0x7FC00000] ∧ gives (.vadd 3 1 2 1 .f32) = [0x40700000, 0x7F800000, 0] ∧
    gives (.vmul 3 1 2 1 .f32) = [0x40580000, 0x7F800000, 0] ∧ gives (.vmax 3 1 2 0 .f32) = [0x40100000, 0x7F7FFFFF, 0x7F800000] ∧
    gives (.vneg 3 1 1 .f32) = [0xBFC00000, 0xFF7FFFFF, 0] ∧ gives (.vfma 3 1 2 2 1 .f32) = [0x40B40000, 0x7F800000, 0] ∧
    firstOf 1 .f32 3 (exec (.vsqrt 3 2 1 .f32) s) = [0x3FC00000] := by decide +kernel

/-- VectorCompares: signed and unsigned orders of i8, a quiet NaN of f32. -/
theorem witness_vector_compares : let s := withV [(1, vecOf 8 [0x7F, 0x80]), (2, vecOf 8 [0x80, 0x80])] 0
    let f := withV [(1, vecOf 32 [0x3F800000, 0x7FC00000]), (2, vecOf 32 [0x40000000, 0x7FC00000])] 0
    let low (i : Instr) (s : State) : Nat := (after (exec i s)).preg 2 % 256
    low (.vcmpLt 2 1 2 0 .i8) s = 0 ∧ low (.vcmpLo 2 1 2 0 .i8) s = 1 ∧ low (.vcmpEq 2 1 2 0 .i8) s = 0xFE ∧
    low (.vcmpLt 2 1 2 0 .f32) f = 1 ∧ low (.vcmpEq 2 1 2 0 .f32) f = 0 ∧ low (.vcmpNe 2 1 2 0 .f32) f = 0x11 := by decide +kernel

/-- VectorConversions: i32 to i8 saturates; a group that is not aligned. -/
theorem witness_conversions : let s := withV [(1, vecOf 32 [5, 0x1000, 0xFFFFFF00])] 0
    firstOf 4 .i8 3 (exec (.vcvt 3 1 8 0 .i8) s) = [5, 0x7F, 0x80, 0] ∧
    firstOf 3 .i8 3 (exec (.vcvtUnsigned 3 1 8 0 .i8) s) = [5, 0xFF, 0xFF] ∧
    nextIs (exec (.vqnt 3 2 0 0 .f32) s) (s.takeFault 4 codeIll 0 false 0) = true ∧
    (after (exec (.vdqt 4 1 0 0 .f32) s)).act.pc = 0x10004 := by decide +kernel

/-- ReductionsAndScans: signed, unsigned, the lowest index of an extreme, no element active. -/
theorem witness_reductions : let s := withV [(1, vecOf 32 [3, 0xFFFFFFFE, 9, 9])] 0x1111
    let none_ := withV [(1, vecOf 32 [3])] 0
    let x (i : Instr) (s : State) : Word := (after (exec i s)).x 9
    x (.vredAdd 9 1 1 .i32) s = 19 ∧ x (.vredMax 9 1 1 .i32) s = 9 ∧ x (.vredMin 9 1 1 .i32) s = 0xFFFFFFFFFFFFFFFE ∧
    x (.vredMaxUnsigned 9 1 1 .i32) s = 0xFFFFFFFE ∧ x (.vargmMax 9 1 1 .i32) s = 2 ∧
    x (.vargmMinUnsigned 9 1 1 .i32) s = 0 ∧ x (.vargmMax 9 1 1 .i32) none_ = BitVec.allOnes 64 ∧
    firstOf 4 .i32 3 (exec (.vscanAdd 3 1 1 .i32) s) = [3, 1, 10, 19] := by decide +kernel

/-- ElementAccessAndRandom: the last element, one past it, and a draw. -/
theorem witness_elements : let s := withV [(1, vecOf 32 [0, 1, 2, 3, 4, 5, 6, 0xFFFFFFF7])] 0
    let last := s.setX 3 7
    (after (exec (.vext 9 1 3 0 .i32) last)).x 9 = 0xFFFFFFF7 ∧ (after (exec (.vext 9 1 6 0 .i32) s)).x 9 = 0 ∧
    firstOf 8 .i32 1 (exec (.vins 1 4 3 0 .i32) s) = [0, 1, 100, 3, 4, 5, 6, 0xFFFFFFF7] ∧
    nextIs (exec (.vins 1 4 6 0 .i32) s) (s.advance 4) = true ∧ (after (exec (.vrng 2 0 .i32) s)).act.pc = 0x10004 ∧
    (after (exec (.vrngc 2 1 1 0 .i32) s)).act.pc = 0x10004 := by decide +kernel

/-- ShortForms: C.VADDF of two registers of ones. -/
theorem witness_short : let s := withV [(1, vecOf 32 [0x3F800000]), (2, vecOf 32 [0x3F800000])] 0
    firstOf 1 .f32 1 (exec (.cVaddf 1 2 false) s) = [0x40000000] ∧ (after (exec (.cVaddf 1 2 false) s)).act.pc = 0x10002 := by decide +kernel

/-- VectorMemory: a contiguous load, a strided store and its load back, a gather; an unknown tensor and a bad id. -/
theorem witness_vector_memory : let s := withV [(1, vecOf 32 [10, 11, 12, 13]), (2, vecOf 32 [2, 0])] 0x11
    let m := after (exec (.vsts 1 5 6 0 .i32) s)
    firstOf 2 .i32 3 (exec (.vlds 3 5 6 1 .i32) m) = [10, 11] ∧ firstOf 3 .i32 3 (exec (.vld 3 5 0 0 .i32) m) = [10, 0, 11] ∧
    firstOf 2 .i32 3 (exec (.vgth 3 5 2 1 .i32) m) = [11, 10] ∧
    nextIs (exec (.vldt 3 1 0 0 .i32) s) (s.takeFault 4 codeTens 0 false 0) = true ∧
    nextIs (exec (.vldt 3 4 0 0 .i32) (s.setX 4 65536)) ((s.setX 4 65536).takeFault 4 codeProt 0 false 0) = true := by decide +kernel

/-- VectorMemory: an f32 tensor of 4 rows of 16 at 0x1000, row 1 from column 14: the columns past 15 read zero. -/
theorem witness_vector_tensor :
    let t : Tensor := [0x1000, 16 * 2 ^ 32 + 4, 64, 0x7F06, 0, 0, 0, 0]
    let s := { withV [] 0 with ctxs := [(1, { ctx1 base with tensors := [(1, t)] })] }
    let s := (s.setX 1 1).setX 2 (14 * 2 ^ 32 + 1)
    let m := { s with mem := s.mem.writeBytes (0x1000 + 64 + 56) (natToBytes 4 0xAA ++ natToBytes 4 0xBB ++ natToBytes 4 0xCC) }
    firstOf 3 .f32 3 (exec (.vldt 3 1 2 0 .f32) m) = [0xAA, 0xBB, 0] ∧
    nextIs (exec (.vldt 3 1 2 0 .i32) m) (m.takeFault 4 codeTens 0 false 0) = true := by decide +kernel

/-! ## Tasks, records, waits, messages, barriers, lists -/

/-- A record of context 1 for core 0. -/
def rec1 (state : Nat) (join : Int) : TaskRecord := ⟨0x5000, 0x6000, join, 0, 1, 2, 0, state⟩

/-- The base package with a record at 0x2000 and some registers. -/
def withRecord (state : Nat) (join : Int) (xs : List (Reg × Word)) : State :=
  let s := withX ((1, 0x2000) :: xs)
  { s with mem := s.mem.writeBytes 0x2000 (rec1 state join).bytes }

/-- The record at 0x2000. -/
def theRecord (s : State) : TaskRecord := TaskRecord.ofNat (s.mem.readNat 0x2000 32)

/-- Codes of the tasks that wait in the queue of core 0. -/
def queued (s : State) : List Nat := (s.lcore 1 0).queue.map fun e => match e.body with
  | .entry r => r.code
  | .saved a => a
  | .msg m => m.handler

/-- TasksAndRecords: spawns and their checks. -/
theorem witness_spawn : let s := withRecord 2 1 [(2, 0x5000 + 2 ^ 57), (3, 0x6000), (4, 2 ^ 60), (5, 0x5001), (6, 2 ^ 48)]
    let fails (i : Instr) (code a : Nat) : Bool := nextIs (exec i s) (s.takeFault 4 code a false 0)
    (after (exec (.spawn 7 2 3) s)).x 7 = 1 ∧ queued (after (exec (.spawn 7 2 3) s)) = [0x5000] ∧
    (after (exec (.spawnj 7 2 1) s)).x 7 = 2 ∧ (theRecord (after (exec (.spawnj 7 2 1) s))).join = 2 ∧
    fails (.spawn 7 4 3) codeProt 0 = true ∧ fails (.spawn 7 0 3) codeProt 0 = true ∧
    fails (.spawn 7 5 3) codeAlign 0x5001 = true ∧ fails (.spawn 7 2 6) codeProt 0 = true := by decide +kernel

/-- TasksAndRecords: a decrement that fires, the increments, a bind that fires, poison. -/
theorem witness_records : let s := withRecord 2 1 [(2, 1), (3, 0x7000), (4, 0x6000), (5, 0x7001), (6, 0x2010)]
    let unbound := withRecord 3 0 [(3, 0x7000), (4, 0x6000)]
    let lost := { s with poison := [0x80] }
    let t := after (exec (.jdec 1 2) s)
    theRecord t = { rec1 4 0 with frame := 0x6000 } ∧ queued t = [0x5000] ∧
    theRecord (after (exec (.jadd 1 2) s)) = rec1 2 2 ∧
    theRecord (after (exec (.bind 1 3 4) unbound)) = { rec1 4 0 with code := 0x7000, bseq := 1 } ∧
    queued (after (exec (.bind 1 3 4) unbound)) = [0x7000] ∧
    nextIs (exec (.jdec 1 2) lost) ((lost.countPoison 1 0).advance 4) = true ∧
    nextIs (exec (.jdec 6 2) s) (s.takeFault 4 codeAlign 0x2010 false 0) = true ∧
    nextIs (exec (.bind 1 5 4) s) (s.takeFault 4 codeAlign 0x7001 false 0) = true ∧
    nextIs (exec (.bind 1 0 4) s) (s.takeFault 4 codeProt 0 false 0) = true := by decide +kernel

/-- TaskEnds: END, ENDJ on another record and on the task's own, YLD. -/
theorem witness_ends : let s := withRecord 5 1 [(2, 0x2010)]
    let own := { s with act := { s.act with record := 0x2000 } }
    (after (exec .taskEnd own)).active = false ∧ (after (exec .taskEnd own)).trans = [⟨1, 0, 0x2000, 7⟩] ∧
    theRecord (after (exec (.endj 1) s)) = rec1 5 0 ∧ (after (exec (.endj 1) s)).active = false ∧
    theRecord (after (exec (.endj 1) own)) = rec1 7 0 ∧ (after (exec (.endj 1) own)).trans = [] ∧
    nextIs (exec (.endj 2) s) (s.takeFault 4 codeAlign 0x2010 false 0) = true ∧
    (after (exec .yld own)).trans = [⟨1, 0, 0x2000, 6⟩] ∧ queued (after (exec .yld s)) = [(ctx1 s).freePlace] := by decide +kernel

/-- The registered waits of context 1 and whether the slot is free. -/
def waitsOf (i : Instr) (s : State) : List Wait × Bool := ((ctx1 (after (exec i s))).waits, (after (exec i s)).active)

/-- Waits: each kind registered, a task whose record is done, a bad queue, a bad handle, an unknown barrier. -/
theorem witness_waits : let s := withRecord 2 1 [(2, 0x3000), (3, 2), (4, 3), (5, 2 ^ 63), (6, 0x8000), (29, 0x9000)]
    let done := withRecord 7 1 []
    let fails (i : Instr) (code a : Nat) : Bool := nextIs (exec i s) (s.takeFault 4 code a false 0)
    waitsOf (.endwRoom 3 1) s = ([⟨.room 2 0, 0x2000, 0, none⟩], false) ∧
    waitsOf (.endwJob 0 1) s = ([⟨.job 0, 0x2000, 0, none⟩], false) ∧
    waitsOf (.endwBar 0 1) s = ([⟨.bar 0 0, 0x2000, 0, some (List.replicate 8 0, [])⟩], false) ∧
    theRecord (after (exec (.endwJoin 1 2) s)) = { rec1 2 1 with code := 0x3000, frame := 0x9000, bseq := 1 } ∧
    fails (.endwRoom 4 1) codeProt 0 = true ∧ fails (.endwJob 5 1) codeProt 0 = true ∧ fails (.endwFeed 0 1) codeProt 0 = true ∧
    nextIs (exec (.endwJob 0 1) done) (done.takeFault 4 codeProt 0x2000 false 0) = true := by decide +kernel

/-- Waits: ENDW.CB takes an entry that is there, or leaves its record; the logit queue with a row and without one. -/
theorem witness_waits_queues : let s := { ringAt 0 1 0 with mem := base.mem.writeBytes 0x2000 (rec1 2 1).bytes }
    let s := (s.setX 7 0x2000).setX 8 0x8001
    let e := { inStash s 0x10C (natToBytes 4 0) with logits := [] }
    waitsOf (.endwCb 1 7) s = ([⟨.cb (local0 + 0x100), 0x2000, 0, some (natToBytes 8 0xFFFF00004000, [])⟩], false) ∧
    waitsOf (.endwCb 1 7) e = ([⟨.cb (local0 + 0x100), 0x2000, 0, none⟩], false) ∧
    (after (exec (.endwCb 1 7) e)).stash.readNat (stashKey 1 0 0x118) 8 = 0x2000 ∧
    waitsOf (.endwDq 8 7) s = ([⟨.logit 0x8000 0, 0x2000, 0, none⟩], false) ∧
    nextIs (exec (.endwDq 0 7) s) (s.takeFault 4 codeProt 0 false 0) = true := by decide +kernel

/-- A subgroup of 1 x 2 cores of a rectangle of 2 x 4 at the origin. -/
def inGroup (xs : List (Reg × Word)) : State :=
  (withX xs).modCore 1 0 fun k => { k with orgn := 0, rsz := 0x204 }

/-- The bits of barrier 0: episode, cores arrived, maximum. -/
def barrier0 (s : State) : Option (Nat × List Nat × Word) := (assocGet (ctx1 s).bars 0).map fun b => (b.episode, b.arrived, b.max)

/-- MessagesBarriersLists: messages and their checks. -/
theorem witness_messages : let s := withX [(1, 0x3000), (2, 5 + 2 ^ 9), (3, 7 * 2 ^ 9), (4, 10), (5, 11), (6, 2 ^ 12), (8, 0x3001)]
    let fails (i : Instr) (code a : Nat) : Bool := nextIs (exec i s) (s.takeFault 4 code a false 0)
    (after (exec (.send 4 1 2) s)).msgs = [⟨1, 5, some s.cur, ⟨1, 0, 0x3000, 0, [10, 11, 0x1000, 0], none⟩⟩] ∧
    (after (exec (.sendr 4 1 2 1) s)).msgs.map (·.msg.refusal) = [0x3000] ∧
    fails (.send 4 1 3) codeIll 0 = true ∧ fails (.send 4 1 4) codePriv 0 = true ∧ fails (.send 4 1 6) codeProt 0 = true ∧
    fails (.send 4 8 2) codeAlign 0x3001 = true ∧ fails (.send 4 0 2) codeProt 0 = true ∧
    fails (.sendr 4 1 2 8) codeAlign 0x3001 = true := by decide +kernel

/-- MessagesBarriersLists: a barrier set up, one arrival of two, its release, a core outside; the work list. -/
theorem witness_barriers : let s := inGroup [(2, 2 * 2 ^ 15 + 2 ^ 12), (3, 7), (4, 3 * 2 ^ 15 + 2 ^ 12), (5, 2 * 2 ^ 15 + 3 * 2 ^ 12), (6, 16)]
    let t := after (exec (.bari 0 2) s)
    let u := after (exec (.barm 0 3) t)
    let other := { u with act := { u.act with lcore := 1 } }
    let out := { u with act := { u.act with lcore := 2 } }
    barrier0 t = some (0, [], 0) ∧ barrier0 u = some (0, [0], 7) ∧ barrier0 (after (exec (.bara 0) other)) = some (1, [], 0) ∧
    nextIs (exec (.bara 0) out) (out.takeFault 4 codeProt 0 false 0) = true ∧
    nextIs (exec (.bara 0) s) (s.takeFault 4 codeProt 0 false 0) = true ∧
    nextIs (exec (.bari 0 4) s) (s.takeFault 4 codeProt 0 false 0) = true ∧
    nextIs (exec (.bari 0 5) s) (s.takeFault 4 codeIll 0 false 0) = true ∧
    nextIs (exec (.bari 6 2) s) (s.takeFault 4 codeProt 0 false 0) = true := by decide +kernel

/-- MessagesBarriersLists: the work list. -/
theorem witness_work_list : let s := withX [(1, 5), (2, 6)]
    let t := after (exec (.wlpush 1 2) s)
    (s.lcore 1 0).work = [] ∧ (t.lcore 1 0).work = [(5, 6)] ∧ (after (exec (.wlcnt 3) t)).x 3 = 1 ∧
    (after (exec (.wlpop 4) t)).x 4 = 5 ∧ (after (exec (.wlpop 4) t)).x 5 = 6 ∧ (after (exec (.wlpop 4) s)).x 4 = 0 ∧
    ((after (exec (.wlpush 0 2) s)).lcore 1 0).errs = BitVec.ofNat 64 (2 ^ errWl) := by decide +kernel

/-- LaunchAndFeeds: a posted block, BLOCK and RECT, an unconfigured feed. -/
theorem witness_launch : let s := withX [(1, 0x3000), (2, 0x3001), (3, 0x30)]
    let block (rect mbz : Nat) : State :=
      { s with mem := s.mem.writeBytes 0x3000 (words64 [0x5000, 0x6000, 9, rect, 0x2000, mbz, 0, 0]) }
    let t := after (exec (.launch 4 1) (block (2 ^ 9 + 2 ^ 12) 0))
    t.x 4 = 0 ∧ (ctx1 t).launchQ = [⟨0x5000, 0x6000, 9, 0, 0, 2, 2, 0x2000, some 0, none⟩] ∧
    (after (exec (.launch 4 1) (block 0 1))).x 4 = 3 ∧ (after (exec (.launch 4 1) (block (2 ^ 9 + 1) 0))).x 4 = 2 ∧
    nextIs (exec (.launch 4 2) s) (s.takeFault 4 codeAlign 0x3001 false 0) = true ∧
    (after (exec (.fpop 4 1) s)).x 4 = BitVec.allOnes 64 ∧
    nextIs (exec (.fpop 4 3) s) (s.takeFault 4 codeProt 0 false 0) = true := by decide +kernel

/-! ## System registers, faults, firmware instructions, tensors -/

/-- SystemRegisters: reads of a user task, an RO register, a privileged one, the first number outside the table. -/
theorem witness_system_registers : let s := withX [(1, BitVec.allOnes 64), (2, 0), (3, 0x35)]
    let p := privileged_ s
    let frm (s : State) (r : Reg) : Word := (after (exec (.mts 0x00E r) s)).act.frm
    (after (exec (.mfs 9 0x005) s)).x 9 = 1 ∧ (after (exec (.mfs 9 0x006) s)).x 9 = 256 ∧ (after (exec (.mfs 9 0x016) s)).x 9 = 15 ∧
    (after (exec (.mfs 9 0x018) s)).x 9 = 1 ∧ nextIs (exec (.mfs 9 0x205) s) (s.takeFault 4 codePriv 0 false 0) = true ∧
    nextIs (exec (.mts 0x019 1) s) (s.takeFault 4 codePriv 0 false 0) = true ∧ nextIs (exec (.mts 0x019 1) p) (p.advance 4) = true ∧
    nextIs (exec (.mfs 9 0x01A) s) (s.takeFault 4 codeIll 0 false 0) = true ∧
    (after (exec (.mts 0x205 3) p)).fwRegs.fwscr = 0x35 ∧ frm s 3 = 0 ∧ frm s 2 = 0 := by decide +kernel

/-- SystemRegisters: the stored fields of LVL, MBOX and FLT, and ERRS cleared by ones (R47, R51, R321). -/
theorem witness_register_fields : let s := withX [(1, BitVec.allOnes 64)]
    (ctx1 (after (exec (.mts 0x013 0) s))).lvl = 0x80012492 ∧ (ctx1 (after (exec (.mts 0x012 1) s))).mbox = ((ctx1 s).mbox &&& ~~~0x00FFFFF0) ||| 0x00FFFFF0 ∧
    (ctx1 (after (exec (.mts 0x015 1) s))).flt = 1 ∧
    ((after (exec (.mts 0x014 1) (s.setErr 1 0 errCb))).lcore 1 0).errs = 0 := by decide +kernel

/-- FaultsAndTraps: TRAP, SYSC, BRK armed and not; a fault of firmware. -/
theorem witness_faults : let s := withX [(1, 11), (2, 12)]
    let armed := { s with ctxs := [(1, { ctx1 base with breakArmed := true })] }
    let t := after (exec (.trap 7) s)
    let u := after (exec (.trap 7) (privileged_ s))
    t.active = false ∧ (ctx1 t).frames.map (fun f => (f.code, f.status, f.task.pc)) = [(9, .host, 0x10000)] ∧
    (after (exec (.sysc 5) s)).sysc = [⟨1, (ctx1 s).freePlace, 5, [11, 12, 0, 0]⟩] ∧
    (ctx1 (after (exec (.sysc 5) s))).frames.map (fun f => f.task.pc) = [0x10004] ∧
    nextIs (exec (.brk 3) s) (s.advance 4) = true ∧ (after (exec (.brk 3) armed)).halted = [(1, (ctx1 s).freePlace, 3)] ∧
    u.fwRegs.epc = 0x10000 ∧ u.fwRegs.ecause = 9 ∧ u.active = true := by decide +kernel

/-- The base package with a fault ring of 2^4 entries at 0x8000. -/
def faulty (put take : Nat) : State :=
  { base with
    mem := base.mem.writeBytes 0x8000 (words64 [put, take])
    ctxs := [(1, { ctx1 base with faultRing := 0x8000, faultLcap := 4 })] }

/-- FaultRecords: a record at put 17, and a full ring. -/
theorem witness_fault_records : let t := (faulty 17 2).postFault 1 0 3 2 codeProt 0x55 0 0 0
    let u := (faulty 18 2).postFault 1 0 3 2 codeProt 0x55 0 0 0
    t.mem.readNat 0x8000 8 = 18 ∧ t.mem.readNat (0x8040 + 64) 8 = 2 ^ 52 + 3 * 2 ^ 21 + 2 * 2 ^ 8 + codeProt ∧
    t.mem.readNat (0x8040 + 72) 8 = 0x55 ∧ (ctx1 t).flt = BitVec.ofNat 64 (2 ^ 32 + codeProt * 2 ^ 8) ∧
    u.mem = (faulty 18 2).mem ∧ (ctx1 u).flt = 1 <<< 48 := by decide +kernel

/-- The fault code that firmware finds after an instruction. -/
def fwCause (i : Instr) (s : State) : Nat := (after (exec i s)).fwRegs.ecause.toNat

/-- FirmwareInstructions in user mode, and each in privileged mode. -/
theorem witness_firmware : let s := withX [(1, 0x4000), (2, 3), (3, 4), (4, 0x4001), (5, 8), (6, 2 ^ 52 + 2)]
    let e : TlbEntry := ⟨1, 0x8000, 0x3F, false, 0x300000⟩
    let p := privileged_ { s with tlb := [e], parked := [(⟨.si 3, 0⟩, { base.act with pc := 0x77770 })] }
    let k (a : Word) : State := { p with fw := [(p.cur, { FwRegs.init with epc := a })] }
    let saved := after (exec (.ctxs 1 2) p)
    (∀ i ∈ [Instr.eret, .tlbi 1 2, .ctxs 1 2, .ctxr 1 2], nextIs (exec i s) (s.takeFault 4 codePriv 0 false 0) = true) ∧
    fwCause .eret (k 0x3001) = codeAlign ∧
    (after (exec .eret (k 0x3000))).act.pc = 0x3000 ∧ (after (exec (.tlbi 0 2) p)).tlb = [] ∧ (after (exec (.tlbi 0 6) p)).tlb = [] ∧
    fwCause (.tlbi 0 3) p = codeProt ∧
    fwCause (.ctxs 4 2) p = codeAlign ∧ nextIs (exec (.ctxs 1 3) p) (p.advance 4) = true ∧
    saved.parked = [] ∧ saved.mem.readNat 0x4000 8 = 0x77770 ∧
    (after (exec (.ctxr 1 3) saved)).parked.map (fun q => (q.1, q.2.pc)) = [(⟨.si 4, 0⟩, 0x77770)] ∧
    fwCause (.ctxr 1 2) p = codeProt ∧
    fwCause (.ctxr 1 5) saved = codeProt := by decide +kernel

/-- TensorTable: a descriptor accepted, one of a bad format, the last id and the first beyond it, a word read. -/
theorem witness_tensor_table : let s := withX [(1, 1023), (2, 0x3000), (3, 1024), (4, 65536), (5, 0x3010), (6, 1023 + 3 * 2 ^ 16), (7, 2 ^ 19)]
    let desc (w3 : Nat) : State := { s with mem := s.mem.writeBytes 0x3000 (words64 [0x1000, 16 * 2 ^ 32 + 4, 64, w3, 0, 0, 0, 0]) }
    let fails (i : Instr) (code a : Nat) (s : State) : Bool := nextIs (exec i s) (s.takeFault 4 code a false 0)
    let t := after (exec (.tdef 1 2) (desc 0x7F06))
    (ctx1 t).tensors.map (fun p => (p.1, p.2)) = [(1023, [0x1000, 16 * 2 ^ 32 + 4, 64, 0x7F06, 0, 0, 0, 0])] ∧
    (after (exec (.tqry 9 6) t)).x 9 = 0x7F06 ∧ (after (exec (.tqry 9 3) t)).x 9 = BitVec.allOnes 64 ∧
    (ctx1 (after (exec (.tund 1) t))).tensors = [] ∧ fails (.tdef 1 2) codeTens 0 (desc 0x7F0D) = true ∧
    fails (.tdef 3 2) codeTens 0 (desc 0x7F06) = true ∧ fails (.tdef 4 2) codeProt 0 s = true ∧ fails (.tund 4) codeProt 0 s = true ∧
    fails (.tdef 1 5) codeAlign 0x3010 s = true ∧ fails (.tqry 9 7) codeProt 0 s = true := by decide +kernel

/-! ## Engines -/

/-- The base package with an unlimited budget, a bf16 tensor 1 of 1 row and 32 columns at 0x9000, an f32 tensor 2 of 1 row and 16
columns at 0xA000, and a copy block of two rows of 8 bytes at 0x3000. -/
def engined : State :=
  let s := withX [(1, 0x3000), (2, 1 + 32 * 2 ^ 20), (3, 1), (4, 7 * 2 ^ 16 + 2 ^ 19), (5, 2), (6, 2 ^ 16 + 2), (7, 0x100000000), (8, 0x3010), (10, 3)]
  { s with
    mem := (s.mem.writeBytes 0x3000 (words64 [0x5000, 0x6000, 2 * 2 ^ 32 + 8, 0x10 * 2 ^ 32 + 8])).writeBytes 0x6000
      (words64 [0x1122334455667788, 0x99])
    ctxs := [(1, { ctx1 base with
      ebud := BitVec.allOnes 64
      tensors := [(1, [0x9000, 32 * 2 ^ 32 + 1, 64, 0x7F04, 0, 0, 0, 0]), (2, [0xA000, 16 * 2 ^ 32 + 1, 64, 0x7F06, 0, 0, 0, 0])] })] }

/-- The queues of the issuing cluster. -/
def matrixQ : EngineQueue := (ctx1 base).matrixQueue 0
def copyQ : EngineQueue := (ctx1 base).copyQueue 0

/-- An event of the device on a queue. -/
def onQueue (q : EngineQueue) (i : Instr) (s : State) : State := after (exec i { s with arg := { eng := q } })

/-- The package with the steps of its jobs set to none, so that no class is measured (log 20). -/
def unmeasured (s : State) : State := { s with engines := s.engines.map fun p => (p.1, p.2.map fun j => { j with steps := 0 }) }

/-- The status word of job 0 of core 0, slot 0. -/
def job0 (s : State) : Word := s.jobStatus 1 0

/-- EngineIssue: a tile zeroed, one that does not fit; a product entered and one whose formats differ; handles. -/
theorem witness_issue : let s := engined
    let fails (i : Instr) (code d : Nat) : Bool := nextIs (exec i s) (s.takeFault 4 code 0 false d)
    let t := after (exec (.mzero 9 0) s)
    let u := after (exec (.mma 3 3 2 0 0 0) t)
    (t.queueOf matrixQ).map Job.kind = [.mzero 0 64 16] ∧ t.x 9 = 0 ∧ job0 t = 0 ∧
    (u.queueOf matrixQ).map Job.num = [0, 1] ∧ (after (exec (.mzero 9 0) t)).x 9 = 1 ∧
    fails (.mzero 9 4) codeProt 0 = true ∧ fails (.mzero 9 3) codeProt 0 = true ∧ fails (.mma 7 3 2 0 0 0) codeProt 0 = true ∧
    fails (.mma 3 5 2 0 0 0) codeTens 2 = true ∧ fails (.mldt 9 10 0) codeTens 1 = true ∧
    ((after (exec (.mldt 9 5 0) s)).queueOf matrixQ).length = 1 ∧ ((after (exec (.mstt 9 5 0) s)).queueOf matrixQ).length = 1 ∧
    fails (.mmag 8 3 2 0 0 0) codeTens 2 = true ∧ fails (.mmag 4 3 2 0 0 0) codeIll 0 = true := by decide +kernel

/-- EngineIssue: an empty budget stalls a command of a class (R225). -/
theorem witness_issue_stalls : let s := { engined with ctxs := [(1, { ctx1 engined with ebud := 1 <<< 48 })] }
    nextIs (exec (.mma 3 3 2 0 0 0) s) s = true ∧ nextIs (exec (.cpy 9 1 0 0) s) s = true ∧
    nextIs (exec (.mzero 9 0) s) s = false := by decide +kernel

/-- EngineIssue: copies, a channel product, a fence, a handle polled, a remote command whose capability is not authentic. -/
theorem witness_issue_others : let s := { engined with mem := engined.mem.writeBytes 0x3080 (words64 [3 * 2 ^ 56, 0, 0, 0, 0, 0, 0, 0]) }
    let s := s.setX 11 0x3080
    let m := { s with mem := s.mem.writeBytes 0x3000 (words64 [1, 0x5000, 0x6000, 1]) }
    let fails (i : Instr) (code a d : Nat) : Bool := nextIs (exec i s) (s.takeFault 4 code a false d)
    ((after (exec (.cpy 9 1 0 0) s)).queueOf copyQ).map Job.kind = [.cpy 0x5000 0x6000 2 8 16 8 0] ∧
    ((after (exec (.cpyg 9 1 1) s)).queueOf ((ctx1 s).gatherQueue 0)).length = 1 ∧
    ((after (exec (.mvc 9 3 1 0) m)).queueOf (.cmvu 1)).length = 1 ∧ fails (.mvc 9 1 1 0) codeProt 0 0 = true ∧
    fails (.cpy 9 8 0 0) codeAlign 0x3010 0 = true ∧ fails (.cpyg 9 1 2) codeAlign (1 + 32 * 2 ^ 20) 0 = true ∧
    ((after (exec (.qfen 9 3) s)).queueOf matrixQ).map Job.kind = [.qfen [matrixQ]] ∧ fails (.qfen 9 0) codeProt 0 0 = true ∧
    (after (exec (.jpoll 9 0) s)).x 9 = 6 ∧ fails (.jpoll 9 7) codeProt 0 0 = true ∧
    (after (exec (.msend 9 11 0) s)).remotes.map Remote.num = [0] ∧ fails (.msend 9 8 0) codeAlign 0x3010 0 = true := by decide +kernel

/-- EngineJobs: MZERO and CPY performed, MLDT and MSTT of an f32 row, with their status. -/
theorem witness_jobs : let s := engined
    let z := onQueue matrixQ .mzeroJob (after (exec (.mzero 9 0) s))
    let c := onQueue copyQ .cpyJob (unmeasured (after (exec (.cpy 9 1 0 3) s)))
    let l := onQueue matrixQ .mldtJob (after (exec (.mldt 9 5 0)
      { s with mem := s.mem.writeBytes 0xA000 (natToBytes 4 0x3FC00000 ++ natToBytes 4 0x40200000) }))
    let o := onQueue matrixQ .msttJob (after (exec (.mstt 9 5 0) { l with mem := s.mem }))
    job0 z = 1 ∧ z.queueOf matrixQ = [] ∧ c.mem.readNat 0x5000 8 = 0x1122334455667788 ∧ c.mem.readNat 0x5010 8 = 0x99 ∧
    c.queueOf copyQ = [] ∧ job0 l = 1 ∧ l.tile.readNat (tileAt 1 0 0 16 0 1) 4 = 0x40200000 ∧
    o.mem.readNat 0xA000 8 = 0x402000003FC00000 ∧ (o.jobStatus 1 1).toNat % 16 = 1 := by decide +kernel

/-- A product of tensor 1 with itself, entered for a row and a column that lie outside it. -/
def productJob : Job :=
  ⟨.mma [0x9000, 32 * 2 ^ 32 + 1, 64, 0x7F04, 0, 0, 0, 0] [0x9000, 32 * 2 ^ 32 + 1, 64, 0x7F04, 0, 0, 0, 0] none 1 1 0 0 64 16 32 false,
    1, 0, 0, 0, 0, .whole, 0, 1, false, 0, false, false, []⟩

/-- EngineJobs: the hypotheses of a product, whose elements all lie outside its tensors; two products of a block (R110). -/
theorem witness_product : let s := { engined with engines := [(matrixQ, [productJob])], arg := { eng := matrixQ } }
    let d : TDesc := ⟨0x9000, 1, 32, 64, 0, 0, 0x7F, .elem .bf16⟩
    let e (r : Nat) : Elem := ⟨r, decodeF .bf16 r, false⟩
    s.heads productJob ∧ parseTensor [0x9000, 32 * 2 ^ 32 + 1, 64, 0x7F04, 0, 0, 0, 0] = some d ∧
    (∀ i k, EngReads (readElem (.core 1 0) d (1 + i) (0 + k)) s Elem.zero) ∧
    (accumulate false 1 0 [e 0x3F80, e 0x4000] [e 0x4040, e 0x3F00]).bits = 0x40800000 ∧
    (accumulate true 1 7 [e 0xFF, e 2] [e 3, e 5]).bits = 14 := by
  refine ⟨⟨by decide +kernel, rfl, rfl, rfl⟩, by decide +kernel, ?_, by decide +kernel, by decide +kernel⟩
  intro i k tile pois u flags met made
  have h : TDesc.coords ⟨0x9000, 1, 32, 64, 0, 0, 0x7F, .elem .bf16⟩ (1 + i) (0 + k) = none := by simp [TDesc.coords]
  refine ⟨made, ?_⟩
  simp only [readElem, h]
  cases met <;> rfl

/-- EngineJobs: a gather with a row skipped, a page without a mapping, a fence, a row put into a ring, an MSEND refused. -/
theorem witness_jobs_others : let s := { engined with mem := engined.mem.writeBytes 0x7000 (natToBytes 4 0xFFFFFFFF ++ natToBytes 4 1) }
    let g := onQueue ((ctx1 s).gatherQueue 0) .cpygJob (after (exec (.cpyg 9 1 5) (s.setX 5 0x7000)))
    let far := after (exec (.cpy 9 1 0 3) { s with mem := s.mem.writeNat 0x3008 8 0x80000000 })
    let p := onQueue copyQ .cpyJob far
    let f := onQueue matrixQ .qfenFenceJob (after (exec (.qfen 9 3) s))
    let r := { inStash s 0x100 (words64 [0x24000000] ++ List.replicate 24 0) with
      mem := s.mem.writeBytes 0x3000 (words64 [0, 0x6000, 2 ^ 32 + 16, 0]) }
    let r := after (exec (.cpy 9 1 5 3) (r.setX 5 (BitVec.ofNat 64 (local0 + 0x100))))
    let q := onQueue copyQ .cbFill (unmeasured r)
    let m := onQueue copyQ .remoteCommandArrival (after (exec (.msend 9 11 3)
      ({ s with mem := s.mem.writeBytes 0x3080 (words64 [3 * 2 ^ 56, 0, 0, 0, 0, 0, 0, 0]) }.setX 11 0x3080)))
    g.mem.readNat 0x5000 8 = 0 ∧ g.mem.readNat 0x5010 8 = 0x99 ∧ p.pages = [⟨1, 0x80000000, .job copyQ, 0, false⟩] ∧
    (p.queueOf copyQ).map Job.waiting = [true] ∧ job0 f = 1 ∧ f.queueOf matrixQ = [] ∧
    q.stash.readNat (stashKey 1 0 0) 8 = 0x1122334455667788 ∧ q.stash.readNat (stashKey 1 0 0x10C) 4 = 1 ∧ q.queueOf copyQ = [] ∧
    job0 m = 0x103 ∧ m.remotes = [] := by decide +kernel

/-! ## Interaction nets -/

/-- A live header of core 0. -/
def hdr (tag arity : Nat) : Nat := tag * 2 ^ 52 + arity * 2 ^ 50 + 2 ^ 40

/-- The base package with an arena of nodes, two live nodes at 0x41000 and 0x41040, and a production of their tags. -/
def netted : State :=
  let s := withX [(1, 0x41000), (2, 2 ^ 61 + 0x41000), (3, 2 ^ 61 + 0x41040), (4, 3 * 2 ^ 61 + 5), (5, 0x41004), (6, 0x40000),
    (7, 2 ^ 61 + 0x41001), (8, 0x41040), (10, 0x101 * 2 ^ 12 + 0x100 + 2 ^ 24), (11, 0x5000), (12, 0x1000)]
  { s with
    mem := s.mem.writeBytes 0x41000 (words64 [hdr 0x100 1, 0, 0, 0, 0, 0, 3 * 2 ^ 61 + 9, 0, hdr 0x101 0])
    ctxs := [(1, { ctx1 base with nodeBase := 0x40000, nodePages := 1, prods := [⟨0x100, 0x101, false, 7, 0x5000⟩, ⟨0x100, 1, false, 8, 0x5100⟩] })] }

/-- Word k of the node at an address. -/
def nodeWord (s : State) (n k : Nat) : Nat := s.mem.readNat (n + 8 * k) 8

/-- The task list of cluster 0. -/
def bag0 (s : State) : List (Nat × (Nat ⊕ Word)) := ((ctx1 s).bag 0).tasks.map fun p => (p.n1, p.other)

/-- Nodes: words, the return of a node, the two operand checks. -/
theorem witness_nodes : let s := netted
    let fails (i : Instr) (code a : Nat) : Bool := nextIs (exec i s) (s.takeFault 4 code a false 0)
    (after (exec (.nld 9 1 6) s)).x 9 = 3 * 2 ^ 61 + 9 ∧ nodeWord (after (exec (.nst 9 1 7) (s.setX 9 77))) 0x41000 7 = 77 ∧
    fails (.nst 3 1 0) codeProt 0 = true ∧ fails (.nst 8 1 1) codeProt 0 = false ∧
    ((after (exec (.nfree 1) s)).lcore 1 0).free = [0x41000] ∧
    bitOf (nodeWord (after (exec (.nfree 1) s)) 0x41000 0) 40 = false ∧ fails (.nrel 1) codeProt 0x41000 = true ∧
    fails (.nfree 5) codeAlign 0x41004 = true ∧ fails (.nfree 6) codeProt 0x40000 = true ∧
    (after (exec (.nalloc 9) (s.modCtx 1 fun c => { c with chunkNext := 15 }))).x 9 = 0 := by decide +kernel

/-- Nodes: NALLOC off a free list of one node: the choice is of that node, which may be written. -/
theorem witness_nalloc : ([0x41080] : List Nat)[Config.freeNat netted.free % 1]? = some 0x41080 ∧
    givesAt (checkRange netted.who .store 0x41080 64 netted) (.mem 0x41080 1 false none none none) 64 netted = true :=
  ⟨by simp [Nat.mod_one], by decide +kernel⟩

/-- Nodes: links of principal ports, of a port and a value, of an auxiliary port, of a port and itself, of two values. -/
theorem witness_links : let s := netted
    let t := after (exec (.link 9 2 3) s)
    t.x 9 = 1 ∧ nodeWord t 0x41000 1 = 2 ^ 61 + 0x41040 ∧ nodeWord t 0x41040 1 = 2 ^ 61 + 0x41000 ∧ bag0 t = [(0x41000, .inl 0x41040)] ∧
    bag0 (after (exec (.link 9 2 4) s)) = [(0x41000, .inr 5)] ∧ (after (exec (.link 9 7 3) s)).x 9 = 0 ∧
    (after (exec (.link 9 4 4) s)).x 9 = 2 ∧ nextIs (exec (.link 9 2 2) s) (s.takeFault 4 codeProt 0 false 0) = true ∧
    nextIs (exec (.link 9 1 2) s) (s.takeFault 4 codeProt 0 false 0) = true ∧
    (after (exec (.bagcnt 9) t)).x 9 = 1 := by decide +kernel

/-- Nodes: PUSHP of two nodes linked by hand, NETI on a job that is over and on one that is not, PRODL. -/
theorem witness_pushes : let s := netted
    let l := { s with mem := (s.mem.writeNat 0x41008 8 (2 ^ 61 + 0x41040)).writeNat 0x41048 8 (2 ^ 61 + 0x41000) }
    let busy := s.modCore 1 0 fun k => { k with jobs := [(0, ⟨1, [(0, 0)]⟩)] }
    let n := after (exec (.neti 9 1) s)
    bag0 (after (exec (.pushp 1 3) l)) = [(0x41000, .inl 0x41040)] ∧
    nextIs (exec (.pushp 1 3) s) (s.takeFault 4 codeProt 0x41000 false 0) = true ∧
    n.x 9 = 6 ∧ nodeWord n 0x41000 7 = 6 ∧ nodeWord n 0x41000 1 = 3 * 2 ^ 61 + 9 ∧ bag0 n = [(0x41000, .inr 9)] ∧
    (ctx1 (after (exec (.neti 9 1) busy))).links = [⟨0x41000, 0, 0, none⟩] ∧
    (ctx1 (after (exec (.prodl 10 11) s))).prods = [⟨0x100, 1, false, 8, 0x5100⟩, ⟨0x100, 0x101, false, 0, 0x5000⟩] ∧
    nextIs (exec (.prodl 12 11) s) (s.takeFault 4 codeProt 0 false 0) = true := by decide +kernel

/-- A package with an event's context and index. -/
def at1 (i : Nat) (s : State) : State := { s with arg := { ctx := 1, i := i } }

/-- GraphEvents: a released node returned, one whose port is live kept, a completion link, an empty template list. -/
theorem witness_graph_events : let s := at1 0 netted
    let spent (port : Nat) : State := { s with
      mem := (s.mem.writeNat 0x41000 8 (hdr 0x100 1 + 2 ^ 39)).writeNat 0x41010 8 port
      ctxs := [(1, { ctx1 s with released := [⟨0x41000, false, 0⟩] })] }
    let linked := { s with
      mem := s.mem.writeNat 0x41000 8 (hdr 0x100 1 + 2 ^ 38)
      ctxs := [(1, { ctx1 s with links := [⟨0x41000, 0, 0, some 6⟩] })] }
    let r := after (exec .nrelReturn (spent 0))
    let c := after (exec .completionLink linked)
    (ctx1 r).released = [] ∧ (r.lcore 1 0).free = [0x41000] ∧
    nextIs (exec .nrelReturn (spent (2 ^ 61 + 0x41040))) (spent (2 ^ 61 + 0x41040)) = true ∧
    (ctx1 c).links = [] ∧ nodeWord c 0x41000 0 = hdr 0x100 1 ∧ bag0 c = [(0x41000, .inr 9)] ∧
    nextIs (exec .templateInstantiate s) s = true := by decide +kernel

/-- GraphEvents: a template of no node that links the free auxiliary ends of node 1 and node 2. -/
theorem witness_template : let s := at1 0 netted
    let pr : Production := ⟨0x100, 0x101, true, 7, 0x6000⟩
    let s := { s with
      mem := (s.mem.writeBytes 0x6000 (words64 [2 ^ 8, 0x4001 * 2 ^ 16 + 0xC005])).writeNat 0x41010 8 (3 * 2 ^ 61 + 4)
      ctxs := [(1, { ctx1 s with prods := [pr], bags := [(0, ⟨[⟨0x41000, .inl 0x41040, pr, false⟩], []⟩)] })] }
    let t := after (exec .templateInstantiate s)
    ((ctx1 t).bag 0).templates = [] ∧ bitOf (nodeWord t 0x41000 0) 39 = true ∧ bitOf (nodeWord t 0x41040 0) 39 = true ∧
    nodeWord t 0x41010 0 = 0 ∧ (ctx1 t).released = [⟨0x41000, true, 0⟩, ⟨0x41040, true, 0⟩] := by decide +kernel

/-- GraphEvents: a work list of 5 beside an empty one ships 2 pairs, one of 1 none; a bag does the same. -/
theorem witness_levelling : let lists (n : Nat) : State := at1 0 (base.modCtx 1 fun c => { c with
      cores := [(0, { LCore.init with launched := true, orgn := 0, rsz := 0x108, work := (List.range n).map fun i => (BitVec.ofNat 64 (i + 1), 0) })]
      bags := [(0, ⟨[], (List.range n).map fun i => ⟨i, .inr 0, ⟨0, 0, false, 0, 0⟩, false⟩⟩)] })
    let w := after (exec .workListLevelling (lists 5))
    let b := after (exec .bagLevelling (lists 5))
    (w.lcore 1 0).work.length = 3 ∧ (w.lcore 1 1).work = [(4, 0), (5, 0)] ∧
    ((after (exec .workListLevelling (lists 1))).lcore 1 0).work.length = 1 ∧
    ((ctx1 b).bag 0).tasks.length = 3 ∧ ((ctx1 b).bag 1).tasks.map Pair.n1 = [3, 4] := by decide +kernel

/-! ## KV pool, prefix tree, masks, queues, lattices, token rings -/

/-- The base package with a pool of 4 pages of 256 tokens at 0x100000, of which two are held once, and a tree of 2 nodes. -/
def pooled : State :=
  let s := withX [(1, 0x3000), (2, 2 * 2 ^ 52 + 0x3800), (3, 0x3004), (4, 0x4000), (5, 3 * 2 ^ 62), (6, 2 ^ 63 + 1), (7, 0x4040), (8, 2),
    (10, 2 ^ 62)]
  { s with
    mem := ((s.mem.writeBytes 0x3000 (words64 [0x11, 0x22])).writeBytes 0x3800 (words64 [0x100000, 0x110000])).writeBytes 0x4000
      (words64 [0, 0x4080, 2 ^ 32])
    ctxs := [(1, { ctx1 base with kv := ⟨0x100000, 4, 2, 0, 8⟩, kvFresh := 2, kvRc := [(0, 1), (1, 1)] })] }

/-- KvInstructions: no pool, an insert, a lookup of what it made, references dropped, operands refused. -/
theorem witness_prefix : let s := pooled
    let i := after (exec (.pfxi 9 1 2) s)
    let l := after (exec (.pfxl 9 1 2) i)
    let none_ := { s with ctxs := [(1, ctx1 base)] }
    nextIs (exec (.pfxl 9 1 2) none_) (none_.takeFault 4 codeProt 0 false 0) = true ∧
    i.x 9 = 2 ∧ (ctx1 i).tree.map TreeNode.handle = [0x100000, 0x110000] ∧ (ctx1 i).rc 0 = 2 ∧ l.x 9 = 2 ∧ (ctx1 l).rc 1 = 3 ∧
    l.mem.readNat 0x3808 8 = 0x110000 ∧ (after (exec (.pfxl 9 1 2) s)).x 9 = 0 ∧
    (ctx1 (after (exec (.pfxr 2 8) (l.setX 2 0x3800)))).rc 1 = 2 ∧ nextIs (exec (.pfxr 3 8) s) (s.takeFault 4 codeAlign 0x3004 false 0) = true ∧
    nextIs (exec (.pfxl 9 1 8) s) (s.takeFault 4 codeProt 0 false 0) = true := by decide +kernel

/-- KvInstructions: a token appended to an empty table entry, the free slots, a truncation beyond the length, a block's home. -/
theorem witness_kv : let s := { pooled with mem := pooled.mem.writeNat 0x5000 1 0xAB }
    let t := after (exec (.kva 9 4 7) (s.setX 7 0x5001))
    let h := after (exec (.kvh 9 4) t)
    t.x 9 = 0 ∧ t.mem.readNat 0x4000 8 = 2 ^ 32 + 1 ∧ t.mem.readNat 0x4080 8 = 0x120000 ∧ t.mem.readNat 0x120000 1 = 0xAB ∧
    (ctx1 t).rc 2 = 1 ∧ (after (exec (.kva 9 4 5) s)).x 9 = 256 ∧ (after (exec (.kva 9 4 6) s)).x 9 = 2 ^ 63 + 4 ∧
    h.x 9 = 2 ^ 54 + 0x12 * 2 ^ 16 + 1 ∧ nextIs (exec (.kva 9 3 5) s) (s.takeFault 4 codeAlign 0x3004 false 0) = true := by decide +kernel

/-- KvInstructions: an append into a shared page when no page is left to copy it to (R282). -/
theorem witness_kv_full : let s := { pooled with mem := (pooled.mem.writeBytes 0x4000 (words64 [2 ^ 32 + 1, 0x4080, 2 ^ 32])).writeBytes 0x4080 (words64 [0x100000]) }
    let s := { s with ctxs := [(1, { ctx1 s with kvRc := [(0, 2), (1, 1)], kvFresh := 4 })] }
    (after (exec (.kva 9 4 7) (s.setX 7 0x5000))).x 9 = 2 ^ 63 + 2 ∧ (ctx1 s).allocPage.isNone = true ∧
    (after (exec (.kva 9 4 7) { s with mem := s.mem.writeNat 0x4004 4 256 })).x 9 = 2 ^ 63 + 1 := by decide +kernel

/-- KvInstructions: the first point of a ring, a second that takes an arc over, its removal, and points that clash. -/
theorem witness_ring : let s := pooled
    let at_ (i pos : Nat) (s : State) : State := s.setX 2 (BitVec.ofNat 64 (pos * 2 ^ 32 + i))
    let r := after (exec (.kvrh 2 8) (at_ 0 0x100 s))
    let q := after (exec (.kvrh 2 9) (at_ 1 0x80 (r.setX 9 3)))
    let d := after (exec (.kvrh 2 10) (q.setX 2 1))
    (ctx1 r).ring = [(0, 0x100, 2)] ∧ (ctx1 q).ring.map (·.1) = [0, 1] ∧ (q.lcore 1 2).stubs = [⟨0x100, 0x80, 3⟩] ∧
    (ctx1 d).ring = [(0, 0x100, 2)] ∧ (d.lcore 1 3).stubs = [⟨0x100, 0x80, 2⟩] ∧
    homeOf [(0x100, 2), (0x80, 3)] 0x81 = some 2 ∧ homeOf [(0x100, 2), (0x80, 3)] 0x101 = some 3 ∧ homeOf [] 0 = none ∧
    nextIs (exec (.kvrh 2 8) (at_ 1 0x100 r)) ((at_ 1 0x100 r).takeFault 4 codeProt 0 false 0) = true := by decide +kernel

/-- KvInstructions: a row of a full tile and a partial one (R290, R291). -/
theorem witness_mask : let s := withX [(1, 0x4000), (2, 60 * 2 ^ 32), (3, 0x4010), (4, 2 ^ 58)]
    let s := { s with mem := ((s.mem.writeBytes 0x4000 (words64 [0x4100, 0x4200, 2 ^ 32 + 2, 0x4400])).writeNat 0x4100 1 9).writeNat 0x4200 1 5 }
    (after (exec (.mskt 2 1 2) s)).preg 2 = 0x5F ∧ nextIs (exec (.mskt 2 3 2) s) (s.takeFault 4 codeAlign 0x4010 false 0) = true ∧
    nextIs (exec (.mskt 2 1 4) s) (s.takeFault 4 codeProt 0 false 0) = true ∧
    nextIs (exec (.mskt 2 4 2) s) (s.takeFault 4 codeProt 0 false 0) = true := by decide +kernel

/-- The base package on a burst die. -/
def burst (xs : List (Reg × Word)) : State :=
  { withX xs with cur := ⟨.bi 0, 0⟩, ctxs := [(1, { ctx1 base with onBi := true })] }

/-- QueuesAndLattice: a row posted and claimed; a row whose probability needs a feature; an unaligned buffer. -/
theorem witness_logits : let s := withX [(1, 0x3000), (2, 0x3004), (3, 0x8000), (4, 0x8001)]
    let row (w2 : Nat) : State := { s with mem := s.mem.writeBytes 0x3000 (words64 [0x5000, 100, w2, 0]) }
    let t := after (exec (.lqp 9 1) (row 0))
    let u := after (exec (.lqc 9 3) t)
    t.x 9 = 0 ∧ t.logits.map (fun r => (r.q, r.ctx, r.k)) = [(0, 1, 0)] ∧ u.x 9 = 0 ∧ u.logits = [] ∧ u.mem.readNat 0x8000 8 = 0x5000 ∧
    (after (exec (.lqc 9 3) s)).x 9 = BitVec.allOnes 64 ∧
    nextIs (exec (.lqp 9 1) (row (2 ^ 32))) ((row (2 ^ 32)).takeFault 4 codeIll 0 false 0) = true ∧
    nextIs (exec (.lqp 9 2) s) (s.takeFault 4 codeAlign 0x3004 false 0) = true ∧
    nextIs (exec (.lqc 9 4) s) (s.takeFault 4 codeProt 0 false 0) = true := by decide +kernel

/-- QueuesAndLattice: an entry sent, its arrival, and its claim on the other die; the SI has no die queue. -/
theorem witness_die : let s := burst [(1, 0x3000), (2, 7), (3, 0x8000)]
    let t := after (exec (.dqs 9 1 2) { s with mem := s.mem.writeNat 0x3000 8 0x55 })
    let a := after (exec .dqEntryArrival { t with arg := { k := 0 } })
    let far := { a with cur := ⟨.bi 256, 0⟩ }
    let u := after (exec (.dqr 9 3) far)
    t.dieFlight.map (fun e => (e.dir, e.seq)) = [(0, 7)] ∧ a.dieFlight = [] ∧ a.dieQ.map DieEntry.seq = [7] ∧
    u.x 9 = 7 * 2 ^ 32 ∧ u.dieQ = [] ∧ u.mem.readNat 0x8000 8 = 0x55 ∧ (after (exec (.dqr 9 3) s)).x 9 = BitVec.allOnes 64 ∧
    nextIs (exec (.dqs 9 1 2) base) (base.takeFault 4 codeProt 0 false 0) = true := by decide +kernel

/-- QueuesAndLattice: the expansion of a root, its child, and a node with both as parents (R300). -/
theorem witness_lattice : let s := withX [(1, 0x3000), (2, 0x4000), (3, 0x4004)]
    let s := { s with mem := s.mem.writeBytes 0x3000 (words64 [3, 0xFFFF00000011, 0xFF0000000022, 0x010000000033]) }
    let t := after (exec (.latx 9 1 2) s)
    t.x 9 = 4 ∧ t.mem.readNat 0x4010 8 = 5 ∧ t.mem.readNat 0x4018 8 = 0xB ∧ t.mem.readNat 0x4218 8 = 0x01020200000033 ∧
    nextIs (exec (.latx 9 1 3) s) (s.takeFault 4 codeAlign 0x4004 false 0) = true := by decide +kernel

/-- QueuesAndLattice: two tokens published in a ring of 16, and a ring that has no room (R306). -/
theorem witness_tokens : let s := withX [(1, 0x3000), (2, 0x3100), (3, 0x3108)]
    let ring (head : Nat) : State := { s with
      mem := (s.mem.writeBytes 0x3000 (words64 [15, head, 4 * 2 ^ 48 + 0x5000, 0])).writeBytes 0x3100 (words64 [2, 0xBBBBBBBBAAAAAAAA]) }
    let t := after (exec (.trpub 1 2) (ring 1))
    let u := after (exec (.trpub 1 2) (ring 0))
    t.mem.readNat 0x3000 8 = 17 ∧ t.mem.readNat 0x503C 4 = 0xAAAAAAAA ∧ t.mem.readNat 0x5000 4 = 0xBBBBBBBB ∧
    u.mem.readNat 0x3000 8 = 15 ∧ u.mem.readNat 0x3018 8 = 1 ∧ (u.lcore 1 0).errs = BitVec.ofNat 64 (2 ^ errTr) ∧
    nextIs (exec (.trpub 1 3) s) (s.takeFault 4 codeProt 0 false 0) = true := by decide +kernel

/-! ## Wakes, domains, migrations -/

/-- The base package with its context's rectangle of one core at the origin. -/
def boundPkg (onBi : Bool) (xs : List (Reg × Word)) : State :=
  let s := withRecord 2 1 xs
  { s with ctxs := [(1, { ctx1 base with onBi := onBi, cores := [(0, { LCore.init with launched := true, orgn := 0, rsz := 0x101 })] })] }

/-- WakesAndDomains: a wake of a domain that is up, of one that is not, of none; a migration that may begin and one that may
not. -/
theorem witness_wakes : let s := boundPkg false [(2, 0x2000), (3, 0x2001), (4, 3), (5, 0x2008)]
    let w := after (exec (.wake 2) s)
    let b := after (exec (.wake 3) s)
    theRecord w = rec1 4 0 ∧ w.causes = [] ∧ b.causes = [⟨.bi, 0x2000, 1, 0⟩] ∧ theRecord b = rec1 2 1 ∧
    (after (exec (.wake 0) s)).act.pc = 0x10004 ∧ nextIs (exec (.wake 4) s) (s.takeFault 4 codeProt 0 false 0) = true ∧
    (ctx1 (after (exec (.mbnd 2) s))).migrating = true ∧
    (ctx1 (after (exec (.mbnd 3) s))).reports.map (fun r => r.2.2) = [4] ∧
    nextIs (exec (.mbnd 5) s) (s.takeFault 4 codeProt 0 false 0) = true ∧
    nextIs (exec (.mbnd 0) s) (s.takeFault 4 codeProt 0 false 0) = true := by decide +kernel

/-- WakesAndDomains: a move that a saved task prevents, reported to its record, and one whose island is not up. -/
theorem witness_move : let m := after (exec (.mbnd 2) (boundPkg false [(2, 0x2000)]))
    let s (bi : BiState) : State := at1 0 { m with active := false, act := Task.blank, bi := bi }
    let saved := (s .on).modCtx 1 fun c => { c with frames := [⟨0x9000, Task.blank, 256, 9, .host, 4, true⟩] }
    let t := after (exec .migrationMove saved)
    let off := after (exec .migrationMove (s .off))
    (ctx1 t).onBi = false ∧ (ctx1 t).migrating = false ∧ (ctx1 t).reports = [] ∧ theRecord t = rec1 4 0 ∧
    t.mem.readNat 0x6000 8 = 1 ∧ (ctx1 off).migrating = true ∧ off.causes = [⟨.bi, 0, 1, 0⟩] := by decide +kernel

/-- WakesAndDomains: each domain's changes, and a case in which each does not happen. The window of a trigger on a queue. -/
theorem witness_domains : let s := { State.reset with bi := .on, biMap := true }
    let cause (d : Domain) (s : State) : State := { s with causes := [⟨d, 0, 0, 0⟩] }
    let bi (i : Instr) (s : State) : BiState := (after (exec i s)).bi
    bi .biDrainStart s = .drain ∧ bi .biDrainStart (cause .bi s) = .on ∧
    bi .biDrainEnd { s with bi := .drain, arg := { flag := true } } = .off ∧ bi .biDrainEnd { s with bi := .drain } = .ret ∧
    bi .biRetToOff { s with bi := .ret } = .off ∧ bi .biWakeStart (cause .bi { s with bi := .off }) = .wake ∧
    bi .biWakeStart { s with bi := .off } = .off ∧ bi .homeMapFlipToBi (cause .bi { s with bi := .wake }) = .on ∧
    (after (exec .homeMapFlipToBi (cause .bi { s with bi := .wake }))).causes = [] := by decide +kernel

/-- WakesAndDomains: the small island and the DRAM. -/
theorem witness_domains_hub : let s := State.reset
    let cause (d : Domain) (s : State) : State := { s with causes := [⟨d, 0, 0, 0⟩] }
    (after (exec .siIdle { s with si := .on })).si = .idle ∧ (after (exec .siIdle base)).si = .on ∧
    (after (exec .siRetEntry { s with si := .idle })).si = .ret ∧ (after (exec .siRetEntry { base with si := .idle })).si = .idle ∧
    (after (exec .siWake (cause .si s))).si = .on ∧ (after (exec .siWake s)).si = .ret ∧
    (after (exec .dramSrefEntry s)).dramSref = true ∧ (after (exec .dramSrefEntry { s with bi := .on })).dramSref = false ∧
    (after (exec .dramSrefExit (cause .dram { s with dramSref := true }))).dramSref = false ∧
    (after (exec .dramSrefExit { s with dramSref := true })).dramSref = true := by decide +kernel

/-- WakesAndDomains: windows of a queue-depth trigger and of a token-rate trigger. -/
theorem witness_triggers : let s (kind : Nat) (low : Bool) : State := at1 0 { base with
      mem := base.mem.writeBytes 0xC0 (words64 [kind * 2 ^ 60 + 2 ^ 58, 5 * 2 ^ 32])
      ctxs := [(1, { ctx1 base with trig := [(0, ⟨true, low, 4⟩)] })] }
    (after (exec .triggerQdepthWindow (s 1 false))).causes = [⟨.bi, 0, 1, 0⟩] ∧
    (after (exec .triggerQdepthWindow (s 1 true))).causes = [] ∧
    (after (exec .triggerTrateWindow (s 3 true))).causes = [⟨.bi, 0, 1, 0⟩] ∧
    ((ctx1 (after (exec .triggerTrateWindow (s 3 true)))).trigger 0).tokens = 0 ∧
    nextIs (exec .triggerTrateWindow (s 1 true)) (s 1 true) = true := by decide +kernel

/-! ## Scheduling -/

/-- SchedulingEvents: a launch of one core leaves its queue, wakes it, is dispatched, and completes. -/
theorem witness_launch_events : let b : LaunchBlock := ⟨0x5000, 0x6000, 9, 0, 0, 1, 1, 0, some 0, none⟩
    let s := at1 0 { base with active := false, act := Task.blank, ctxs := [(1, { ctx1 base with launchQ := [b] })] }
    let t := after (exec .deviceLaunchQueueTake s)
    let w := after (exec .launchWakeArrival t)
    let d := after (exec .dispatch { w with arg := { slot := ⟨.si 0, 0⟩ } })
    let e := after (exec .taskEnd d)
    (ctx1 t).launchQ = [] ∧ (ctx1 t).launches.map Launch.wakes = [[0]] ∧ queued w = [0x5000] ∧ d.active = true ∧ d.act.pc = 0x5000 ∧
    d.x 1 = 0x10100000000 ∧ d.x 2 = 9 ∧ d.x 29 = 0x6000 ∧ nextIs (exec .launchCompletion (at1 0 d)) (at1 0 d) = true ∧
    (ctx1 (after (exec .launchCompletion (at1 0 e)))).launches = [] := by decide +kernel

/-- SchedulingEvents: the lowest level, a level that has waited 64 times, and the triples in turn. -/
theorem witness_dispatch : let e (l code : Nat) : QEntry := ⟨.ready, l, .entry ⟨code, 0, 0, [], none⟩, 0⟩
    let s (k : PhysCore) : State := { base with
      active := false
      act := Task.blank
      arg := { slot := ⟨.si 0, 0⟩ }
      cores := [(.si 0, k)]
      ctxs := [(1, { ctx1 base with cores := [(0, { LCore.init with queue := [e 5 0x5000, e 4 0x5002] })] })] }
    let pc (s : State) : Word := (after (exec .dispatch s)).act.pc
    let tired : PhysCore := { PhysCore.init with pass := [0, 0, 0, 0, 0, 64, 0, 0] }
    pc (s PhysCore.init) = 0x5002 ∧ pc (s tired) = 0x5000 ∧
    (assocGet (after (exec .dispatch (s PhysCore.init))).cores (.si 0)).map PhysCore.pass = some [0, 0, 0, 0, 0, 1, 0, 0] ∧
    nextIs (exec .dispatch { base with arg := { slot := ⟨.si 0, 0⟩ } }) { base with arg := { slot := ⟨.si 0, 0⟩ } } = true := by
  decide +kernel

/-- SchedulingEvents: a message delivered to a full and to a free channel, the refusal, a hold that ends. -/
theorem witness_message_events : let m : Msg := ⟨1, 3, 0x5000, 0x7000, [1, 2, 3, 4], none⟩
    let s (k : LCore) : State := at1 0 { base with msgs := [⟨1, 0, none, m⟩], ctxs := [(1, { ctx1 base with cores := [(0, k)] })] }
    let full := (List.range 16).map fun _ => (⟨.chan 1, 0, .msg m, 0⟩ : QEntry)
    let r := after (exec .messageArrival (s { LCore.init with queue := full }))
    let h := at1 0 (s { LCore.init with holds := [(1, 3)], refusals := [(1, [3, 4])] })
    let x := after (exec .refusalHoldExpiry { h with arg := { ctx := 1, i := 0, k := 1 } })
    queued (after (exec .messageArrival (s LCore.init))) = [0x5000] ∧ (r.lcore 1 0).refusals = [(1, [3])] ∧
    r.msgs.map (fun f => (f.dst, f.msg.chan, f.msg.handler)) = [(3, 6, 0x7000)] ∧ (x.lcore 1 0).holds = [(1, 4)] ∧
    queued (after (exec .messageArrival h)) = [0x5000] := by decide +kernel

/-- SchedulingEvents: a record made RUNNING, a slice at its limit and below it, a stall that is none, a deposit. -/
theorem witness_slices : let s := withRecord 4 1 [(2, 0x2000)]
    let tired := { s with act := { s.act with retired := 2 ^ 20 }, arg := { slot := s.cur } }
    let fresh := { s with arg := { slot := s.cur } }
    let t := after (exec .recordTransition { s with trans := [⟨1, 0, 0x2000, 5⟩], arg := { i := 0 } })
    let w := after (exec (.endwRoom 0 2) (withRecord 2 1 [(2, 0x2000)]))
    let d := after (exec .waitDeposit (at1 0 w))
    theRecord t = rec1 5 1 ∧ t.trans = [] ∧ (after (exec .sliceInstructionLimit tired)).active = false ∧
    nextIs (exec .sliceInstructionLimit fresh) fresh = true ∧ nextIs (exec .sliceStallLimit fresh) fresh = true ∧
    theRecord d = rec1 4 0 ∧ (ctx1 d).waits = [] ∧ queued d = [0x5000] := by decide +kernel

/-! ## The front end and firmware -/

/-- The base package with user queue 7 of context 1 bound: header at 0x7000, ring of 16 at 0x8000, one QFENCE with its status at
0x9000; a desc at 0xA000 with feed 0 of 16 records at 0xB000. -/
def hosted : State :=
  { base with
    mem := (((base.mem.writeBytes 0x7000 (words64 [0x8004, 0, 2 ^ 52 + 1, 0])).writeBytes 0x8000
      (words64 [5, 0, 0, 0, 0, 0, 0, 0x9000])).writeBytes 0xA100 (words64 [0xB004, 0])).writeNat 0xC000 8 0x77
    ctxs := [(1, { ctx1 base with desc := 0xA000 })]
    queues := [(.user 7, ⟨0x7000, 0, 0, true, false, false, []⟩)]
    arg := { queue := .user 7, word := 1 } }

/-- A started command of user queue 7. -/
def cmd (ws : List Nat) : State :=
  { hosted with queues := [(.user 7, ⟨0x7000, 1, 1, true, false, false, [⟨0, ws.map (BitVec.ofNat 64), false, none⟩]⟩)] }

/-- The status word stored for a command, and whether the command is gone. -/
def statusOf (i : Instr) (s : State) : Nat × Bool :=
  let t := after (exec i s)
  (t.mem.readNat 0x9000 8, ((assocGet t.queues (.user 7)).map fun e => e.started.isEmpty).getD true)

/-- FrontEndEvents: the registers of BAR0. -/
theorem witness_bar0 : let s := { State.reset with arg := { word := 0x12 } }
    let t := after (exec .featAcceptWrite s)
    t.featAcc[0] = 0x13 ∧ (after (exec .featAcceptWrite { s with featLock := true })).featLate = true ∧
    (after (exec .lotterySeedWrite { s with arg := {} })).lottery = 1 ∧ (after (exec .lotterySeedWrite s)).lottery = 0x12 ∧
    (after (exec .registerWrite { s with featLate := true, arg := { word := 1 } })).featLate = false ∧
    (after (exec .registerWrite { s with arg := { reg := .mboxLength, word := 9 } })).mc.length = 9 ∧
    ((after (exec .registerWrite { s with arg := { reg := .driverHeader, word := 0x7000 } })).queues.map Prod.fst) = [.driver] := by
  decide +kernel

/-- FrontEndEvents: a notify maps the queue, one too far is counted, one of an unbound queue is nothing; the draw; the end of
the command; the slot released. -/
theorem witness_notify : let s := hosted
    let n := after (exec .queueNotify s)
    let d := after (exec .lotteryDraw n)
    let f := after (exec .qfence { d with arg := { queue := .user 7, i := 0 } })
    let r := after (exec .queueSlotRelease { f with arg := { i := 0 } })
    n.slots = [(0, .user 7)] ∧ n.mapWait = [] ∧
    (after (exec .queueNotify { s with arg := { queue := .user 7, word := 17 } })).mem.readNat 0x7018 4 = 1 ∧
    nextIs (exec .queueNotify { s with arg := { queue := .user 8, word := 1 } }) { s with arg := { queue := .user 8, word := 1 } } = true ∧
    d.mem.readNat 0x7008 4 = 1 ∧ d.lottery ≠ n.lottery ∧ f.mem.readNat 0x9000 8 = 0 ∧ r.slots = [] ∧
    nextIs (exec .queueSlotRelease { n with arg := { i := 0 } }) { n with arg := { i := 0 } } = true := by decide +kernel

/-- FrontEndEvents: each command's end: done, refused, or still waiting. -/
theorem witness_commands : let stitch (n : Nat) (s : State) : State := s.modCtx 1 fun c => { c with stitches := [(3, ⟨7, 7, n⟩)] }
    let sig := after (exec .stitchSig (stitch 0 (cmd [3, 3, 2, 0, 0, 0, 0, 0x9000])))
    statusOf .write (cmd [6, 0xD000, 0x55, 3, 0, 0, 0, 0x9000]) = (0, true) ∧ statusOf .write (cmd [6, 0xD000, 0x55, 4, 0, 0, 0, 0x9000]) = (4, true) ∧
    statusOf .write (cmd [6, 0xD001, 0x55, 3, 0, 0, 0, 0x9000]) = (5, true) ∧
    (after (exec .write (cmd [6, 0xD000, 0x55, 3, 0, 0, 0, 0]))).mem.readNat 0xD000 8 = 0x55 ∧
    ((ctx1 sig).stitches.map fun p => p.2.count) = [2] ∧ statusOf .stitchSig (cmd [3, 3, 2, 0, 0, 0, 0, 0x9000]) = (5, true) ∧
    statusOf .stitchSig (cmd [3, 256, 2, 0, 0, 0, 0, 0x9000]) = (4, true) ∧
    statusOf .stitchWait (stitch 1 (cmd [4, 3, 2, 0, 0, 0, 0, 0x9000])) = (0, false) ∧
    statusOf .stitchWait (stitch 2 (cmd [4, 3, 2, 0, 0, 0, 0, 0x9000])) = (0, true) := by decide +kernel

/-- FrontEndEvents: a record fed, a feed that does not exist; a launch begun and refused. -/
theorem witness_feed : let f := after (exec .queueFeed (cmd [2, 0xC000, 0, 0, 0, 0, 0, 0x9000]))
    let l := after (exec .queueLaunch (cmd [1, 0x5000, 0x6000, 9, 0, 0, 0, 0x9000]))
    f.mem.readNat 0xB000 8 = 0x77 ∧ f.mem.readNat 0xA108 8 = 2 ^ 32 ∧ statusOf .queueFeed (cmd [2, 0xC000, 1, 0, 0, 0, 0, 0x9000]) = (5, true) ∧
    (ctx1 l).launches.map Launch.wakes = [[0]] ∧ statusOf .queueLaunch (cmd [1, 0x5000, 0x6000, 9, 0, 0, 0, 0x9000]) = (0, false) ∧
    statusOf .queueLaunch (cmd [1, 0x5001, 0x6000, 9, 0, 0, 0, 0x9000]) = (2, true) := by decide +kernel

/-- A call of firmware: its function and arguments, its status at 0x9000. -/
def call (fn : Nat) (args : List Nat) (s : State) : State :=
  { s with queues := assocPut s.queues .driver ⟨0x7800, 1, 1, true, false, false,
      [⟨0, ([7, fn] ++ args ++ List.replicate (5 - args.length) 0 ++ [0x9000]).map (BitVec.ofNat 64), false, none⟩]⟩ }

/-- The status of a call. -/
def callStatus (i : Instr) (s : State) : Nat := (after (exec i s)).mem.readNat 0x9000 8

/-- FirmwareCalls: POWER, EPOCH, TRIGGER, STITCH and their limits. -/
theorem witness_calls : let s := hosted
    let p := after (exec .power (call 10 [45000, 1] s))
    let e := after (exec .epoch (call 12 [1, 255] s))
    p.power.cap = 45000 ∧ p.power.idle = 1 ∧ callStatus .power (call 10 [45001, 1] s) = 0x107 ∧ callStatus .power (call 10 [1, 0] s) = 0x107 ∧
    (ctx1 e).epoch = 255 ∧ e.mem.readNat 0xA030 1 = 255 ∧ callStatus .epoch (call 12 [1, 256] s) = 0x107 ∧
    callStatus .epoch (call 12 [2, 0] s) = 0x407 ∧ callStatus .trigger (call 11 [1, 4] s) = 0x107 ∧ callStatus .trigger (call 11 [1, 3] s) = 0 ∧
    ((ctx1 (after (exec .stitch (call 8 [3, 7, 7] s)))).stitches) = [(3, ⟨7, 7, 0⟩)] ∧ callStatus .stitch (call 8 [3, 7, 8] s) = 0x607 ∧
    callStatus .stitch (call 8 [256, 7, 7] s) = 0x107 ∧ nextIs (exec .epoch (call 10 [1, 1] s)) (call 10 [1, 1] s) = true := by decide +kernel

/-- FirmwareCalls: a fate of each kind, and of a frame that nobody waits in. -/
theorem witness_fate : let s := hosted.modCtx 1 fun c => { c with frames := [⟨0xE000, { base.act with record := 0x2000 }, 256, 9, .host, 4, true⟩] }
    let r := after (exec .fate (call 5 [0xE000, 0] s))
    let n := after (exec .fate (call 5 [0xE000, 1] s))
    let d := after (exec .fate (call 5 [0xE000, 2] s))
    queued r = [0xE000] ∧ (ctx1 n).frames.map (fun f => f.task.pc) = [0x10004] ∧ (ctx1 d).frames = [] ∧ d.trans = [⟨1, 0, 0x2000, 7⟩] ∧
    callStatus .fate (call 5 [0xE000, 3] s) = 0x107 ∧ callStatus .fate (call 5 [0xE040, 0] s) = 0x507 := by decide +kernel

/-- FirmwareCalls: queues bound and unbound, contexts pre-empted, made resident and destroyed. -/
theorem witness_contexts : let s := hosted
    let b := after (exec .qbind (call 6 [9, 0x7000] s))
    let u := after (exec .qunbind (call 7 [7] s))
    let p := after (exec .preempt (call 3 [1] s))
    let d := { s with engines := [(matrixQ, [productJob])] }
    (assocGet b.queues (.user 9)).isSome = true ∧ callStatus .qbind (call 6 [7, 0x7000] s) = 0x607 ∧
    callStatus .qbind (call 6 [4096, 0x7000] s) = 0x107 ∧ (assocGet u.queues (.user 7)).isNone = true ∧
    callStatus .qunbind (call 7 [4096] s) = 0x107 ∧ (ctx1 p).resident = false ∧ p.active = false ∧
    (ctx1 (after (exec .reside (call 4 [1] p)))).resident = true ∧ callStatus .reside (call 4 [2] s) = 0x407 ∧
    ((after (exec .destroy (call 2 [1] d))).ctx? 1).isSome = true := by decide +kernel

/-- The hosted package with a context descriptor of context 2 at 0x10200. -/
def described : State :=
  { hosted with mem := (hosted.mem.writeBytes 0x10200 (words64 [2 * 2 ^ 52, 0x40000, 0x1F, 0x80000000, 0])).writeNat 0x10260 8 0x12344 }

/-- FirmwareCalls: an id in use, a descriptor that is not aligned, a fault ring of 2^3 entries. -/
theorem witness_create_refused : let d := described
    callStatus .create (call 1 [0x10201] d) = 0x107 ∧
    callStatus .create (call 1 [0x10200] { d with mem := d.mem.writeNat 0x10200 8 (2 ^ 52) }) = 0x307 ∧
    callStatus .create (call 1 [0x10200] { d with mem := d.mem.writeNat 0x10260 8 3 }) = 0x107 := by decide +kernel

/-- FirmwareCalls: the context that a descriptor describes, its backing area being below the end of any DRAM. -/
theorem witness_create : (described.describe 0x10200).map
    (fun c => (c.ptroot, c.faultRing, c.faultLcap, c.hlim.toNat, c.mbox)) = some (0x40000, 0x12340, 4, 0x80000000, 0x0F33333F) := by
  have h : decide (bits (described.physNat (0x10200 + 0x58) 8) 47 12 * 4096 < Config.dramBytes) = true := by
    have e : bits (described.physNat (0x10200 + 0x58) 8) 47 12 = 0 := by decide +kernel
    simp [e, Config.dramBytes]
  unfold State.describe
  simp only [h]
  decide +kernel

/-- FirmwareCalls: a request of hub firmware answered: an unknown function, and function 0. -/
theorem witness_sysc : let s (n : Nat) : State := at1 0 (after (exec (.sysc (Fin.ofNat 1024 n)) (withX [(1, 5)])))
    let answer (n : Nat) : List Word := (ctx1 (after (exec .syscService (s n)))).frames.map fun f => f.task.x[1]
    answer 0 = [0] ∧ answer 2 = [BitVec.allOnes 64] ∧ queued (after (exec .syscService (s 0))) = [(ctx1 base).freePlace] ∧
    nextIs (exec .syscService base) base = true := by decide +kernel

/-- FirmwareCalls: a page of a 64 KiB leaf made store-resident and released to a frame of the DRAM (R339). -/
theorem witness_pageres : let s := { paged with queues := hosted.queues }
    let x : State := call 9 [2, 0x80000000, 1] s
    callStatus .pageres x = 0x407 ∧ callStatus .pageres (call 9 [1, 0x80000000, 0] s) = 0 ∧
    callStatus .pageres (call 9 [1, 0x80000000, 2] s) = 0x107 ∧ callStatus .pageres (call 9 [1, 0x90000000, 1] s) = 0x107 := by
  decide +kernel

/-! ## The management controller -/

/-- A package whose sensors read some temperatures. -/
def heated (ts : List Int) : State := { base with mc := { base.mc with sensors := ts } }

/-- ManagementEvents: the mailbox while a command runs, and staging with and without a context. -/
theorem witness_mailbox : let s := base
    let m (st len : Nat) (ctxs : List (Nat × Ctx)) : State :=
      { s with
        ctxs := ctxs
        mem := s.mem.writeBytes Config.pageStoreBase [9]
        mc := { s.mc with status := st, length := len, data := [1, 2, 3], staged := 1 } }
    nextIs (exec .log (m 1 2 [])) (m 1 2 []) = true ∧ nextIs (exec .commit (m 1 2 [])) (m 1 2 []) = true ∧
    (after (exec .stage (m 0 2 s.ctxs))).mc.status = 3 ∧ (after (exec .stage (m 0 4097 []))).mc.status = 3 ∧
    (after (exec .stage (m 4 2 []))).staged = [9, 1, 2] ∧ (after (exec .stage (m 4 2 []))).mc.staged = 3 ∧ (after (exec .stage (m 4 2 []))).mc.status = 0 ∧
    (after (exec .recover (m 0 0 s.ctxs))).mc.status = 3 ∧
    (after (exec .commit { s with mc := { s.mc with status := 1, programming := true, prog := [7] } })).mc.nor = [7] := by decide +kernel

/-- The published P-384 key of RFC 6979 (A.2.6), and its signature of "sample" with SHA-384, each 96 bytes. -/
def sampleKey : List Byte :=
  (natToBytes 48 0xEC3A4E415B4E19A4568618029F427FA5DA9A8BC4AE92E02E06AAE5286B300C64DEF8F0EA9055866064A254515480BC13).reverse ++
  (natToBytes 48 0x8015D9B72D7D57244EA8EF9AC0C621896708A59367F9DFB9F54CA84B3F1C9DB1288B231C3AE0D4FE7344FD2533264720).reverse

/-- The signature. -/
def sampleSig : List Byte :=
  (natToBytes 48 0x94EDBB92A5ECB8AAD4736E56C691916B3F88140666CE9FA73D64C4EA95AD133C81A648152E44ACF96E36DD1E80FABE46).reverse ++
  (natToBytes 48 0x99EF4AEB15F178CEA1FE40DB2603138F130E740A19624526203B6351D0A3A94FA329C145786E679E7B82C71A38628AC8).reverse

/-- The digest of "abc" (FIPS 180-4). -/
theorem test_sha384 : sha384 [0x61, 0x62, 0x63] =
    0xCB00753F45A35E8BB5A03D699AC65007272C32AB0EDED1631A8B605A43FF5BED8086072BA1E7CC2358BAECA134C825A7 := by decide +kernel

/-- ManagementEvents: an image that verifies, one whose key is not the fused one, and one that is changed (R369, RFC 6979). -/
theorem witness_image : let image := [0x73, 0x61, 0x6D, 0x70, 0x6C, 0x65] ++ sampleKey ++ sampleSig
    imageVerifies (sha384 sampleKey) image = true ∧ imageVerifies 5 image = false ∧
    imageVerifies (sha384 sampleKey) ([0x73, 0x61, 0x6D, 0x70, 0x6C, 0x66] ++ sampleKey ++ sampleSig) = false ∧
    imageVerifies 5 [] = false ∧ sampleKey.length = 96 ∧ sampleSig.length = 96 := by decide +kernel

/-- ManagementEvents: the log's records from number 5 on, 32 bytes each. -/
theorem witness_log : let e (n : Nat) : Nat × Nat × Nat × Word × Word := (n, 0x02000001, 77, 3, 4)
    let t := after (exec .log { base with mc := { base.mc with data := [5], log := [e 4, e 5, e 6] } })
    bytesToNat (t.mc.data.take 32) = 5 * 2 ^ 32 + 0x02000001 + 77 * 2 ^ 64 + 3 * 2 ^ 128 + 4 * 2 ^ 192 ∧
    bytesToNat ((t.mc.data.drop 32).take 8) = 6 * 2 ^ 32 + 0x02000001 ∧ bytesToNat (t.mc.data.drop 64) = 0 := by decide +kernel

/-- ManagementEvents: what a loss of power and a reset leave. -/
theorem witness_resets : let s := { base with mc := { base.mc with programming := true, nor := [8], staged := 6 } }
    let l := after (exec .powerLoss s)
    l.mc.recovery = true ∧ l.mc.norValid = false ∧ l.mc.nor = [8] ∧ l.ctxs = [] ∧ s.wiped.ctxs = [] ∧ s.wiped.mc.staged = 0 ∧
    s.wiped.mc.programming = true ∧ (after (exec .mcReset { s with mc := { s.mc with programming := false } })).mc.status = 1 ∧
    (after (exec .mcReset { s with arg := { flag := true }, mc := { s.mc with status := 1, programming := false } })).mc.status = 0 ∧
    nextIs (exec .mcReset { s with arg := { flag := true } }) { s with arg := { flag := true } } = true := by decide +kernel

/-- ManagementEvents: junction protection at its three thresholds. -/
theorem witness_junction : let p (s : State) : State := { s with power := { s.power with mx := 5, sm := 5 } }
    let t := after (exec .junctionProtect (p (heated [104, 105])))
    let held (n : Int) : State := { heated [n] with power := { Power.init with junc := true } }
    t.power.mx = 0 ∧ t.power.sm = 0 ∧ t.power.junc = true ∧ t.thrOf (false, 63) = 0x20 ∧ t.thrOf (true, 1) = 0x20 ∧ t.thrOf (true, 2) = 0 ∧
    nextIs (exec .junctionProtect (p (heated [104]))) (p (heated [104])) = true ∧
    nextIs (exec .junctionProtect (held 120)) (held 120) = true ∧
    (after (exec .junctionRelease (held 99))).power.junc = false ∧ nextIs (exec .junctionRelease (held 100)) (held 100) = true ∧
    nextIs (exec .junctionShutdown (heated [114])) (heated [114]) = true ∧
    (heated [115]).mc.sensors.any (fun t => decide (115 ≤ t)) = true := by decide +kernel

/-- ManagementEvents: the scrub list empty, and its head's DRAM in SREF. -/
theorem witness_scrub : let s := { State.reset with scrub := [⟨1, 0x100000, 0⟩], dramSref := true }
    nextIs (exec .scrubEntry base) base = true ∧ (after (exec .scrubEntry s)).causes = [⟨.dram, 0, 1, 0⟩] ∧
    (after (exec .scrubEntry s)).scrub.length = 1 := by decide +kernel

/-! ## Power, pages, lines and the host -/

/-- PowerAndMemoryEvents: points, budgets and gates. -/
theorem witness_power : let s := { base with power := { base.power with mx := 3, vx := 4, fb := 5 }, arg := { temps := [7, 0] } }
    let at_ (cap now then_ : Nat) : State := { s with power := { s.power with cap := cap }, arg := { temps := [7, 0], i := now, k := then_ } }
    let points (s : State) : Nat × Nat × Nat × Nat := (s.power.mx, s.power.vx, s.power.fb, s.power.sm)
    let t := after (exec .powerEvaluation s)
    let past := after (exec .powerEvaluation (at_ 10 11 11))
    let near := after (exec .powerEvaluation (at_ 10 10 11))
    let c := after (exec .currentLimitReport { s with arg := { flag := true } })
    let cc := after (exec .powerEvaluation { c with arg := { temps := [7, 7, 7] } })
    let r := after (exec .currentLimitReport { s with arg := { i := 33, k := 3 } })
    let j := { s with power := { s.power with junc := true } }
    points t = (4, 3, 5, 4) ∧ t.thrOf (false, 65) = 4 ∧ t.thrOf (true, 0) = 0 ∧
    points past = (2, 3, 4, 3) ∧ past.thrOf (false, 0) = 8 ∧ points near = (3, 3, 5, 3) ∧ near.thrOf (false, 0) = 8 ∧
    nextIs (exec .powerEvaluation j) j = true ∧ points c = (3, 4, 5, 0) ∧ c.power.limited = true ∧ points cc = (2, 3, 4, 3) ∧
    cc.power.limited = false ∧ c.thrOf (false, 63) = 2 ∧ r.thrOf (true, 1) = 2 ∧ r.thrOf (true, 0) = 0 ∧
    assocGet r.power.gates (true, 1) = some 3 := by decide +kernel

/-- PowerAndMemoryEvents: a step down under heat, and a budget's share. -/
theorem witness_heat : let s := { base with power := { base.power with mx := 3, windows := [(35, [90 * 100000 * 2 ^ 32])] }, arg := { temps := [7] } }
    let t := after (exec .powerEvaluation s)
    let b (w : Nat) : Nat :=
      (ctx1 (after (exec .budgetRefill (base.modCtx 1 fun c => { c with ebud := BitVec.ofNat 64 w })))).ebud.toNat
    t.power.mx = 2 ∧ t.thrOf (false, 5) = 1 ∧ b (2 ^ 48 + 5) = 2 ^ 48 + 6 ∧ b (2 ^ 48 + 64) = 2 ^ 48 + 64 ∧ b 7 = 7 := by decide +kernel

/-- PowerAndMemoryEvents: a sample of 85 degrees adds 10 microseconds, of 95 twice that, of 75 half. -/
theorem witness_samples : sampleGain 85 = 2 ^ 32 ∧ sampleGain 95 = 2 ^ 33 ∧ sampleGain 75 = 2 ^ 31 ∧ sampleGain 86 = 4603231970 := by decide +kernel

/-- PowerAndMemoryEvents: a sample of the sensors in a package whose regions are cool. -/
theorem witness_sample : let t := after (exec .thermalSample { base with arg := { temps := List.replicate 192 85 } })
    t.power.powered = 1 ∧ assocGet t.power.windows 35 = some [2 ^ 32] ∧ t.thrOf (false, 7) = 0 ∧
    assocGet t.power.gates (true, 1) = none := by decide +kernel

/-- A package with a pending PAGE and a pending RES of the device, and firmware's answer. -/
def pendingPage (who : Stalled) (maps : Option (List (Nat × Word))) : State :=
  let s := { base with arg := { ctx := 1, maps := maps }, pages := [⟨1, 0x80000000, who, 0, false⟩], pendRes := [⟨1, 0, who, 0, false⟩] }
  s.modCtx 1 fun c => { c with ptroot := 0x100000, frames := [⟨0xE000, base.act, 256, 9, .page, 4, true⟩], faultRing := 0x20000, faultLcap := 4 }

/-- Table writes that map the page at 0x80000000 to the first frame of host memory. -/
def mapping : List (Nat × Word) :=
  [(0x100000, 0x22 * 2 ^ 11 + 1), (0x222000, 0x23 * 2 ^ 11 + 1), (0x230000, 2 ^ 46 + 2 ^ 42 + 0x20F)]

/-- PowerAndMemoryEvents: firmware's answers, by a mapping and with none; a mapping that maps another page is none. -/
theorem witness_answers : let d := after (exec .pageResolve (pendingPage .device (some mapping)))
    let f := after (exec .pageResolve (pendingPage (.frame 0xE000) (some mapping)))
    let g := after (exec .pageResolve (pendingPage (.frame 0xE000) none))
    d.mem.readNat 0x222000 8 = 0x23 * 2 ^ 11 + 1 ∧ (ctx1 f).frames.map (fun fr => fr.task.pinned) = [[0x8000]] ∧ d.pages = [] ∧ queued f = [0xE000] ∧ f.pages = [] ∧
    (ctx1 g).frames.map (fun fr => fr.status) = [.host] ∧ g.mem.readNat 0x20000 8 ≠ 0 ∧
    (after (exec .pageResolve (pendingPage .device none))).pages = [⟨1, 0x8000, .noMap, 0, false⟩] ∧
    nextIs (exec .pageResolve (pendingPage .noMap none)) (pendingPage .noMap none) = true ∧
    nextIs (exec .pageResolve (pendingPage .device (some [(0x100000, 7)]))) (pendingPage .device (some [(0x100000, 7)])) = true ∧
    nextIs (exec .pageResolve base) base = true ∧ nextIs (exec .resResolve base) base = true ∧
    (after (exec .resResolve (pendingPage .device none))).pendRes = [] ∧
    queued (after (exec .resResolve (pendingPage (.frame 0xE000) none))) = [0xE000] := by decide +kernel

/-- PowerAndMemoryEvents: a log of 31 and of 32 entries. -/
theorem witness_dirty : let s (n : Nat) : State := { base with
      arg := { slot := base.cur }
      cores := [(base.cur.core, { PhysCore.init with dirty := (List.range n).map fun k => 0x9000 + 8 * k })] }
    nextIs (exec .dirtyLogMerge (s 31)) (s 31) = true ∧ (after (exec .dirtyLogMerge (s 32))).mem.readNat 0x90F8 8 = 0xC0 := by decide +kernel

/-- PowerAndMemoryEvents: a page that is mapped, one that is not, and a window that is open or not. -/
theorem witness_page : let s := { paged with arg := { ctx := 1, k := 0x80000000, word := 0x800000000000 } }
    let none_ := { s with arg := { ctx := 1, k := 0x90000000 } }
    let w := s.modCtx 1 fun c => { c with moveWindows := [(0x8000, 2 ^ 16)] }
    walk s.mem 0x100000 0x80000000 = some (2 ^ 46 + 0x30 * 2 ^ 11 + 0xF, false, 0x230000) ∧ memExists 0x800000000000 = true ∧
    memExists 0x80000000FFFF = true ∧ nextIs (exec .pageMove none_) none_ = true ∧
    nextIs (exec .migWindowExpiry s) s = true ∧
    (ctx1 (after (exec .migWindowExpiry w))).moveWindows = [] := by decide +kernel

/-- PowerAndMemoryEvents: a line copied from frame to frame. -/
theorem witness_copy : let t := (withX []).copyFrame none 0x1000 0x2000 64
    t.mem.readBytes 0x2000 64 = base.mem.readBytes 0x1000 64 := by decide +kernel

/-- PowerAndMemoryEvents: the write-back of a line of host memory; a corrected error in an L1, and errors in a stash and a tile. -/
theorem witness_evict : let s (arg : EventArg) : State := { base with mem := base.mem.writeNat (2 ^ 47) 8 5, arg := arg }
    let t := after (exec .lineEvictionWriteback (s { i := 2 ^ 47 + 3, word := 1 }))
    let c := after (exec .lineEvictionWriteback (s { i := 2 ^ 47, k := 1 }))
    let k := stashKey 1 0 64
    let w := after (exec .lineEvictionWriteback (s { i := 2 ^ 48 + k, flag := true }))
    let u := after (exec .lineEvictionWriteback (s { i := 2 ^ 49 + 64 * 131072 + 128, flag := true }))
    memExists (2 ^ 47) = true ∧ t.back.readNat (2 ^ 47) 8 = 5 ∧ t.mc.ecc = [] ∧ c.mc.ecc = [(1, 1, 0)] ∧ c.mc.pageErrors = [] ∧
    w.stashPoison = [k / 64] ∧ w.mc.ecc = [(0, 0, 1)] ∧ u.tilePoison = [131074] ∧ u.mc.ecc = [(2, 0, 1)] := by decide +kernel

/-- PowerAndMemoryEvents: the counters of an error in DRAM channel 3 and in the page store, and the home of a line under each map. -/
theorem witness_homes : base.errorCounters 0x1000 5 = [6, 19] ∧ base.errorCounters Config.pageStoreBase 5 = [5] ∧
    base.home 0x1240 = .hub 1 ∧ ({ base with biMap := true } : State).home 0x1240 = .bi 1 11 := by
  have h : (0x1000 : Nat) < Config.dramBytes ∧ (0x1240 : Nat) < Config.dramBytes ∧ ¬Config.pageStoreBase < Config.dramBytes := by
    have : Config.dramStep % 4 < 4 := Nat.mod_lt _ (by decide)
    simp only [Config.dramBytes, Config.pageStoreBase]
    omega
  refine ⟨?_, ?_, ?_, ?_⟩
  · simp [State.errorCounters, isHost, isDram, h.1]; decide
  · simp [State.errorCounters, isHost, isDram, h.2.2]; decide
  · have : base.biMap = false := by decide +kernel
    simp [State.home, this]; decide
  · simp [State.home]; decide

/-- PowerAndMemoryEvents: the host's accesses to its own memory; no access to device memory that the features do not offer. -/
theorem witness_host : let s (pa : Nat) (bs : List Byte) : State := { base with arg := { i := pa, bytes := bs } }
    (after (exec .hostSnoop (s (2 ^ 47 + 8) [1, 2]))).mem.readNat (2 ^ 47 + 8) 2 = 0x201 ∧
    (after (exec .hostSnoop (s (2 ^ 47 + 8) [1, 2]))).back.readNat (2 ^ 47 + 8) 2 = 0x201 ∧
    nextIs (exec .hostSnoop (s (2 ^ 47 - 8) [1])) (s (2 ^ 47 - 8) [1]) = true ∧
    nextIs (exec .hostSnoop (s (2 ^ 47 + 63) [1, 2])) (s (2 ^ 47 + 63) [1, 2]) = true ∧
    nextIs (exec .hostHdmAccess (s 0x1000 [1])) (s 0x1000 [1]) = true := by decide +kernel

/-- PowerAndMemoryEvents: the host writes device memory once FEAT.hdm is accepted. -/
theorem witness_hdm : ((16 : Nat) ≤ Config.dramBytes) ∧
    ({ base with featAcc := base.featAcc.set 0 0x4 } : State).feature 2 = true := by
  constructor
  · simp [Config.dramBytes]; omega
  · decide +kernel

/-- PowerAndMemoryEvents: the debug port. -/
theorem witness_debug : let s := { pendingPage .device none with halted := [(1, 0xE000, 0)], arg := { ctx := 1, flag := true } }
    queued (after (exec .debugResume s)) = [0xE000] ∧ (after (exec .debugResume s)).halted = [] ∧
    (ctx1 (after (exec .debugBreakArm s))).breakArmed = true ∧ nextIs (exec .preemptTileSave s) s = true ∧
    nextIs (exec .debugResume base) base = true := by decide +kernel

/-! ## Witnesses of single clauses -/

/-- The package whose page table gives page 0x80000000 of context 1 the entry `pte`. -/
def pagedAs (pte : Nat) : State := { paged with mem := paged.mem.writeNat 0x230000 8 pte }

/-- The leaf of that page: owner 1, frame 0x300000, and the bits given. -/
def leafOf (x : Nat) : Nat := 2 ^ 46 + 0x30 * 2 ^ 11 + x

/-- AccessChecks: the page-table checks in their order: kind 3, another owner, another key, no permission, not
SI-resident in self-refresh; a discarded page, one that is SI-resident, a cached translation. -/
theorem witness_access_pages : let a := 0x80000040
    let fails (pte code : Nat) (s : State → State) : Bool := failsAt (loadAt a 8 (s (pagedAs pte))) code a
    let sref (s : State) : State := { s with dramSref := true }
    let gives (pte : Nat) (dsc : Bool) (s : State) : Bool :=
      givesAt (loadAt a 8 s) (.mem 0x300040 0 dsc (some 0x230000) none none) 8
        { s with tlb := [⟨1, 0x8000, pte, false, 0x230000⟩] }
    fails (leafOf 0x7F) codeProt id = true ∧ fails (leafOf 0x4F + 2 ^ 46) codeProt id = true ∧
    fails (leafOf 0x4F + 2 ^ 63) codeProt id = true ∧ fails (leafOf 0x4D) codeProt id = true ∧
    fails (leafOf 0x4F) codeRes sref = true ∧
    gives (leafOf 0x44F) true (pagedAs (leafOf 0x44F)) = true ∧
    gives (leafOf 0x24F) false (sref (pagedAs (leafOf 0x24F))) = true ∧
    gives (leafOf 0x4F) false { base with tlb := [⟨1, 0x8000, leafOf 0x4F, false, 0x230000⟩] } = true := by decide +kernel

/-- AccessChecks: a frame that names no memory. -/
theorem witness_access_frame : memExists (2 ^ 45) = false ∧
    (walk (pagedAs (leafOf 0x4F + 2 ^ 40)).mem 0x100000 0x80000000).map (fun r => bits r.1 42 11 * 2 ^ 16) = some (2 ^ 45 + 0x300000) := by
  constructor
  · have : Config.dramStep % 4 < 4 := Nat.mod_lt _ (by decide)
    have h : Config.dramBytes ≤ 35184372088832 := by simp only [Config.dramBytes]; omega
    simp [memExists, h, Config.pageStoreBase, Config.hostBase]
  · decide +kernel

/-- AccessChecks and CheckFrame: stash offsets that a map covers, and a range over two lines. -/
theorem witness_access_mapped : let s := (withX []).modCore 1 0 fun k => { k with maps := [⟨64, 1, 0x1000⟩, ⟨128, 1, 0x90000000⟩, ⟨192, 1, local0⟩] }
    givesAt (loadAt (local0 + 72) 8 s) (.mem 0x1008 1 false none (some (0, 64)) none) 8 s = true ∧
    failsAt (loadAt (local0 + 128) 8 s) codePage 0x90000000 = true ∧ failsAt (loadAt (local0 + 192) 8 s) codeProt local0 = true ∧
    loadAt 0x103C 8 s = .ok ([(.mem 0x103C 1 false none none none, 4), (.mem 0x1040 1 false none none none, 4)], s) ∧
    failsAt (loadAt 0x7FFFFFFC 8 s) codePage 0x80000000 = true := by decide +kernel

/-- AtomicsComplete: two reductions of one core meet before they meet memory: 1 and twice 2^-24 in f32 (R112, R136); on an SO
page each meets it at once. -/
theorem witness_gathering : let red (kind : Nat) (s : State) : State := s.reduce .fadd 4 0x33800000 (.mem 0x1000 kind false none none none)
    let s := { base with mem := base.mem.writeNat 0x1000 4 0x3F800000 }
    (red 1 (red 1 s)).mem.readNat 0x1000 4 = 0x3F800001 ∧ (red 0 (red 0 s)).mem.readNat 0x1000 4 = 0x3F800000 ∧
    (red 1 s).gathers.map Gather.line = [0x40] ∧
    (match loadAt 0x1000 4 (red 1 s) with | .ok (_, t) => t.gathers | .error _ => (red 1 s).gathers) = [] := by decide +kernel

/-- TasksAndRecords: a record that fires on behalf of the ch1 chains of two cores (R46). -/
theorem witness_chains : let s := (withRecord 2 1 [(2, 1)]).modCtx 1 fun c => { c with chainRecords := [(0x2000, 3), (0x2040, 4), (0x2000, 5)] }
    let t := after (exec (.jdec 1 2) s)
    (ctx1 t).chainRecords = [(0x2040, 4)] ∧
    ((t.lcore 1 0).queue.map fun e => match e.body with
      | .entry r => r.chain
      | .saved _ | .msg _ => []) = [[3, 5]] := by decide +kernel

/-- MessagesBarriersLists: a barrier of two released while one core's second arrival is held, and while two are. -/
theorem witness_barrier_held : let s := inGroup [(3, 7)]
    let at_ (arrived : List Nat) (held : List (Nat × Word)) : State := s.modCtx 1 fun c => { c with bars := [(0, ⟨0, 0, 1, 2, 2, 4, arrived, 5, held⟩)] }
    barrier0 (after (exec (.barm 0 3) (at_ [1] [(1, 9)]))) = some (5, [1], 9) ∧
    barrier0 (after (exec (.barm 0 3) (at_ [1] [(1, 9), (0, 2)]))) = some (6, [], 0) ∧
    (ctx1 (after (exec (.barm 0 3) (at_ [0] [])))).bars.map (fun b => b.2.held) = [[(0, 7)]] := by decide +kernel

/-- LaunchAndFeeds: a record taken from a feed of 16 records, its ring in the heap, and a poisoned one (R145, R196). -/
theorem witness_fpop : let s := (withX [(1, 0x3000)]).modCtx 1 fun c => { c with desc := 0x7000 }
    let fed := { s with mem := ((s.mem.writeNat 0x7100 8 0x8004).writeNat 0x7108 8 (3 * 2 ^ 32 + 1)).writeNat 0x8040 8 77 }
    let t := after (exec (.fpop 4 1) fed)
    let bad := { fed with poison := [0x8040 / 64] }
    fed.feed (ctx1 fed) 0 = ⟨0x8000, 4, 3, 1⟩ ∧ t.x 4 = 1 ∧ t.mem.readNat 0x3000 8 = 77 ∧ (t.feed (ctx1 t) 0).take = 2 ∧
    (after (exec (.fpop 4 1) bad)).mem.readNat 0x3000 8 = 2 ^ 64 - 1 ∧
    nextIs (exec (.fpop 4 1) (bad.modCtx 1 fun c => { c with flt := 1 }))
      ((bad.modCtx 1 fun c => { c with flt := 1 }).takeFault 4 codePois 0x8040 true 0) = true := by decide +kernel
/-- FaultsAndTraps: a fault of a task posts its record, and asks for room in the arena where the frame has none (R43). -/
theorem witness_fault_frames : let s := (faulty 17 2).modCtx 1 fun c => { c with arenaBase := 0xE000, arenaPages := 1 }
    let t := s.takeFault 4 codeIll 0 false 0
    let none_ := s.modCtx 1 fun c => { c with arenaPages := 0 }
    let u := none_.takeFault 4 codePage 0x90000000 false 0
    t.mem.readNat 0x8000 8 = 18 ∧ (ctx1 t).frames.map (fun f => (f.addr, f.placed)) = [((ctx1 s).freePlace, true)] ∧ t.pages = [] ∧
    u.pages = [⟨1, (ctx1 none_).freePlace, .arena (ctx1 none_).freePlace, 0, false⟩,
      ⟨1, 0x90000000, .frame (ctx1 none_).freePlace, 0, false⟩] ∧
    (ctx1 u).frames.map Frame.placed = [false] := by decide +kernel

/-- The fault record of code PROT, slot 3 and source 2 at pc 0x55, held (R320). -/
def heldRecord : RingEntry :=
  ⟨1, 0, false, codeProt, natToBytes 8 (2 ^ 52 + 3 * 2 ^ 21 + 2 * 2 ^ 8 + codeProt) ++ natToBytes 8 0x55 ++ List.replicate 48 0⟩

/-- FaultRecords: a ring in a DRAM that sleeps, and one of which a page is missing: the record waits, and a later one behind it, until
firmware answers; a page that nothing maps loses it (R316, R320, R332, R340). -/
theorem witness_fault_records_held : let s := { faulty 17 2 with dramSref := true }
    let t := s.postFault 1 0 3 2 codeProt 0x55 0 0 0
    let far := (faulty 17 2).modCtx 1 fun c => { c with faultRing := 0x90000000 }
    let u := far.postFault 1 0 3 2 codeProt 0x55 0 0 0
    let v := ({ u with pages := [⟨1, 0x9000, .noMap, 0, false⟩] } : State).postHeld
    t.heldEntries = [heldRecord] ∧ t.causes = [⟨.dram, 0, 1, 0⟩] ∧ t.mem = s.mem ∧
    u.heldEntries = [heldRecord] ∧ u.pages = [⟨1, 0x90000000, .device, 0, false⟩] ∧
    (u.postFault 1 0 3 2 codeProt 0x55 0 0 0).heldEntries = [heldRecord, heldRecord] ∧
    v.heldEntries = [] ∧ v.pages = [] ∧ (ctx1 v).flt = 1 <<< 48 := by decide +kernel

/-- FirmwareInstructions: a harvest puts the dirty logs of both islands into the tables (R314). -/
theorem witness_harvest : let logs : List (PCore × PhysCore) :=
      [(.bi 5, { PhysCore.init with dirty := [0x9000] }), (.si 1, { PhysCore.init with dirty := [0x9008] })]
    let s := { privileged_ (withX [(2, 2 ^ 52 + 2)]) with mem := base.mem.writeNat 0x9000 8 5, cores := logs }
    let t := after (exec (.tlbi 0 2) s)
    t.mem.readNat 0x9000 8 = 0xC5 ∧ t.mem.readNat 0x9008 8 = 0xC0 ∧
    logs.map (fun p => (assocGet t.cores p.1).map PhysCore.dirty) = [some [], some []] := by decide +kernel
/-- EngineJobs: a half that ends first and one that ends second, of which the graver status stands (R227, R236). -/
theorem witness_halves : let s := engined.modCore 1 0 fun k => { k with jobs := [(0, ⟨1, [(0, 0)]⟩)] }
    let j : Job := { productJob with kind := .mzero 0 128 16, half := .own, steps := 0 }
    let t := s.finishJob matrixQ j jobDone 0 4
    let u := t.finishJob matrixQ { j with half := .mate, clus := 9 } jobFault codeProt 1
    s.halves = [] ∧ j.steps = 0 ∧ t.halves = [⟨1, 0, 0, 0, true, 0, 1, 0, 4, false⟩] ∧ job0 t = 0 ∧ u.halves = [] ∧
    job0 u = jobWord 0 4 codeProt 5 false := by decide +kernel

/-- EngineJobs: poison met by MLDT marks its elements and its status, which MSTT then carries on (R145, R228). -/
theorem witness_poison_jobs : let l := onQueue matrixQ .mldtJob (after (exec (.mldt 9 5 0) { engined with poison := [0xA000 / 64] }))
    let o := onQueue matrixQ .msttJob (after (exec (.mstt 9 5 0) { l with poison := [] }))
    job0 l = 2 ∧ l.tilePoison ≠ [] ∧ (o.jobStatus 1 1).toNat % 16 = 2 ∧ o.poison = [0xA000 / 64] := by decide +kernel

/-- EngineJobs: a copy of two rows waits at its second row and resumes there; its first row is not read again (R228). -/
theorem witness_resumed : let block (src : Nat) : State := { engined with mem := engined.mem.writeNat 0x3008 8 src }
    let p := onQueue copyQ .cpyJob (unmeasured (after (exec (.cpy 9 1 0 3) (block 0x7FFFFFF8))))
    let near := { p with
      mem := (p.mem.writeNat 0x7FFFFFF8 8 1), tlb := [⟨1, 0x8000, leafOf 0x4F, false, 0x230000⟩], pages := [] }
    let r := onQueue copyQ .cpyJob { near with engines := near.engines.map fun (q : EngineQueue × List Job) => (q.1, q.2.map fun j => { j with waiting := false }) }
    (p.queueOf copyQ).map (fun j => (j.waiting, j.past)) = [(true, [.bytes (List.replicate 8 (0, false)), .wrote])] ∧
    p.pages = [⟨1, 0x80000000, .job copyQ, 0, false⟩] ∧ r.queueOf copyQ = [] ∧ job0 r = 1 ∧ r.mem.readNat 0x5000 8 = 0 := by
  decide +kernel

/-- EngineJobs: an MVC of a bf16 row of 32 columns over an f32 vector, and the same with a poisoned vector (R241). -/
theorem witness_mvc : let m := { engined with mem := (((engined.mem.writeBytes 0x3000 (words64 [1, 0x5000, 0x6000, 1])).writeNat 0x5000 4
      0x3FC00000).writeNat 0x9000 2 0x4000).writeNat 0x6000 8 0 }
    let run (s : State) : State := onQueue (.cmvu 1) .mvcJob (unmeasured (after (exec (.mvc 9 3 1 0) s)))
    let t := run { m with mem := m.mem.writeNat 0x6004 4 7 }
    t.mem.readNat 0x6000 4 = 0x40400000 ∧ t.mem.readNat 0x6004 4 = 7 ∧ job0 t = 1 ∧
    job0 (run { m with poison := [0x5000 / 64] }) = 2 := by decide +kernel
/-- The netted package with node 0x41000 spent, its port 1 a word, the words of node 0x41040's ports, and an operand in x3. -/
def spentNode (port : Nat) (others : List Nat) (x3 : Word) : State :=
  let m := (netted.mem.writeNat 0x41000 8 (hdr 0x100 1 + 2 ^ 39)).writeNat 0x41010 8 port
  let x : List Word := [0, 0, 0, x3, 0x6000000000000005, 0, 0, 0x2000000000041001]
  { base with
    ctxs := netted.ctxs
    mem := (m.writeNat 0x41040 8 (hdr 0x101 2)).writeBytes 0x41048 (words64 others)
    act := { base.act with x := Vector.mk (x ++ List.replicate 24 0).toArray rfl } }

/-- The word of port p of a node. -/
def portOf (n p : Nat) : Nat := 2 ^ 61 + n + p

/-- The word of an immediate. -/
def immOf (v : Nat) : Nat := 3 * 2 ^ 61 + v

/-- Nodes: LINK with a spent port that stands for an immediate, and for a port (R253, R262). -/
theorem witness_spent_links : let i := after (exec (.link 9 7 3) (spentNode (immOf 6) [0, 0, 0] 0x2000000000041042))
    let l := after (exec (.link 9 7 4) (spentNode (portOf 0x41040 1) [0, portOf 0x41000 1, 0] 0))
    i.x 9 = 0 ∧ nodeWord i 0x41040 3 = immOf 6 ∧ nodeWord i 0x41000 2 = 0 ∧
    l.x 9 = 0 ∧ nodeWord l 0x41040 2 = immOf 5 ∧ nodeWord l 0x41000 2 = 0 := by decide +kernel

/-- Nodes: LINK of two spent ports that are linked with each other, and of one that stands for nothing. -/
theorem witness_spent_pairs : let both := spentNode (portOf 0x41040 1) [0, portOf 0x41000 1, 0] 0x2000000000041041
    let b := after (exec (.link 9 7 3) { both with mem := both.mem.writeNat 0x41040 8 (hdr 0x101 2 + 2 ^ 39) })
    let s := spentNode 0 [0, 0, 0] 0
    b.x 9 = 2 ∧ nodeWord b 0x41000 2 = 0 ∧ nodeWord b 0x41040 2 = 0 ∧
    nextIs (exec (.link 9 7 4) s) (s.takeFault 4 codeProt 0x41000 false 0) = true := by decide +kernel

/-- Nodes: the LINK that leaves a WIRE to the operand that took the spent port's place (R253). -/
theorem witness_spent_wire : let s := spentNode (portOf 0x41040 1) [0, portOf 0x41000 1, 0] 0x2000000000041081
    let t := after (exec (.link 9 7 3) { s with mem := s.mem.writeBytes 0x41080 (words64 [hdr 0x102 1, 0, 0]) })
    t.x 9 = 0 ∧ nodeWord t 0x41040 2 = portOf 0x41080 1 ∧ nodeWord t 0x41080 2 = portOf 0x41040 1 ∧
    nodeWord t 0x41000 2 = 2 ^ 62 + 0x41081 := by decide +kernel

/-- Nodes: NETI on a job that has not ended, and its status noted as it ends, before the link is made (R268). -/
theorem witness_neti_pending : let s := netted.modCore 1 0 fun k => { k with jobs := [(0, ⟨1, [(0, 0)]⟩)] }
    let n := after (exec (.neti 9 1) s)
    let t := n.setJob 1 0 0 0 (jobWord 0 4 2 0 false)
    let c := after (exec .completionLink (at1 0 t))
    n.x 9 = 0 ∧ (ctx1 t).links.map CompletionLink.status = [some 0x204] ∧ nextIs (exec .completionLink (at1 0 n)) (at1 0 n) = true ∧
    nodeWord c 0x41000 7 = 0x204 ∧ (ctx1 c).links = [] := by decide +kernel

/-- GraphEvents: a take of two live nodes, and of a pair whose later node is spent: the first is live again (R258). -/
theorem witness_take : let pr : Pair := ⟨0x41040, .inl 0x41000, ⟨0x100, 0x101, false, 7, 0x5000⟩, true⟩
    let dd (s : State) : List Bool := [bitOf (nodeWord s 0x41000 0) 39, bitOf (nodeWord s 0x41040 0) 39]
    let take (s : State) : Option (Bool × List Bool) := match takeStep (.core 1 0) pr s with
      | .ok (b, t) => some (b, dd t)
      | .error _ => none
    take netted = some (true, [true, true]) ∧
    take { netted with mem := netted.mem.writeNat 0x41040 8 (hdr 0x101 0 + 2 ^ 39) } = some (false, [false, true]) := by decide +kernel

/-- GraphEvents: a template that lacks nodes goes to the tail, one with a port above the arity posts a record (R261). -/
theorem witness_template_fails : let pr (a : Nat) : Production := ⟨0x100, 0x101, true, 7, a⟩
    let s (w : List Nat) (next : Nat) : State := at1 0 { netted with
      mem := (netted.mem.writeBytes 0x6000 (words64 w)).writeBytes 0x8000 (words64 [0, 0])
      ctxs := [(1, { ctx1 netted with
        chunkNext := next, faultRing := 0x8000, faultLcap := 4
        bags := [(0, ⟨[⟨0x41000, .inl 0x41040, pr 0x6000, false⟩, ⟨0x41000, .inl 0x41040, pr 0x7000, false⟩], []⟩)] })] }
    let short := after (exec .templateInstantiate (s [1, 0x100 * 2 ^ 52] 15))
    let high := after (exec .templateInstantiate (s [2 ^ 8, 0x4003 * 2 ^ 16 + 0x4001] 15))
    ((ctx1 short).bag 0).templates.map (fun p => p.prod.addr) = [0x7000, 0x6000] ∧
    bitOf (short.lcore 1 0).errs.toNat errNode = true ∧ bitOf (nodeWord short 0x41000 0) 39 = false ∧
    ((ctx1 high).bag 0).templates.map (fun p => p.prod.addr) = [0x7000] ∧ high.mem.readNat 0x8000 8 = 1 := by decide +kernel

/-- KvInstructions: a record with more tokens than its table holds has a negative number of free slots; a page referenced again
leaves the tail; poison beneath a mask (R145, R273, R275). -/
theorem witness_kv_counts : let s := { pooled with mem := pooled.mem.writeBytes 0x4000 (words64 [300 * 2 ^ 32, 0x4080, 2 ^ 32]) }
    let c := ((ctx1 s).setCounts 0 0 0).setCounts 1 0 0
    (after (exec (.kva 9 4 5) s)).x 9 = BitVec.ofInt 64 (-44) ∧ c.kvTail = [0, 1] ∧ (c.setCounts 0 1 0).kvTail = [1] ∧
    (c.allocPage.map Prod.fst) = some 2 ∧ ({ c with kvFresh := 4 }.allocPage.map Prod.fst) = some 0 := by decide +kernel

/-- WakesAndDomains: a held wake sets its reason in the clusters of its island (R333, R354). -/
theorem witness_held_wake : let s (k : Nat) : State := { State.reset with causes := [⟨.si, 0, 0, 0⟩], arg := { flag := true, k := k } }
    let t := after (exec .siWake (s 3))
    t.si = .ret ∧ t.thrOf (true, 1) = 8 ∧ t.thrOf (false, 0) = 0 ∧ nextIs (exec .siWake (s 7)) (s 7) = true := by decide +kernel

/-- WakesAndDomains: the queue of migrations, and a notify record that names the local window (R138, R335, R378). -/
theorem witness_migrations : let m := after (exec (.mbnd 2) (boundPkg false [(2, 0x2000)]))
    let s : State := at1 0 { m with active := false, act := Task.blank, migQueue := [2, 1] }
    let f := (faulty 17 2).modCtx 1 fun c => { c with onBi := false }
    m.migQueue = [1] ∧ nextIs (exec .migrationMove s) s = true ∧ inLocal (local0 + 64) = true ∧
    (match notifyStep ⟨.dram, local0 + 64, 1, 0⟩ f with
      | .ok (b, t) => (b, t.mem.readNat 0x8000 8, t.mem.readNat (0x8040 + 64) 8 % 2 ^ 12)
      | .error _ => (false, 0, 0)) = (true, 18, 6 * 2 ^ 8 + codeProt) := by decide +kernel

/-- WakesAndDomains: what was held for the DRAM is made as it comes up: a fault record (R332, R340). -/
theorem witness_held_accesses : let s := { faulty 17 2 with
      dramSref := true, causes := [⟨.dram, 0, 1, 0⟩], heldEntries := [heldRecord] }
    let t := after (exec .dramSrefExit s)
    t.dramSref = false ∧ t.causes = [] ∧ t.heldEntries = [] ∧ t.mem.readNat 0x8000 8 = 18 := by decide +kernel

/-- SchedulingEvents: a record that cannot be written because the DRAM sleeps is reported and dropped (R379). -/
theorem witness_transition_fault : let s : State := { withRecord 4 1 [] with trans := [⟨1, 0, 0x2000, 5⟩], dramSref := true, arg := { i := 0 } }
    let t := after (exec .recordTransition s)
    t.trans = [] ∧ theRecord t = rec1 4 1 ∧ t.heldEntries.map (fun e => (e.code, e.bytes.take 24)) =
      [(codeRes, words64 [2 ^ 52 + 7 * 2 ^ 8 + codeRes, 0, 0x2000])] := by decide +kernel

/-- SchedulingEvents: the 16 physical entries with a held one among them; a hold judged by the depth too (R48, R49). -/
theorem witness_holds : let m : Msg := ⟨1, 3, 0x5000, 0x7000, [1, 2, 3, 4], none⟩
    let s (n : Nat) (holds : List (Nat × Nat)) (depth : Word) : State := at1 0 { base with
      msgs := [⟨1, 0, none, m⟩]
      ctxs := [(1, { ctx1 base with
        mbox := depth, cores := [(0, { LCore.init with queue := (List.range n).map fun _ => ⟨.chan 1, 0, .msg m, 0⟩, holds := holds })] })] }
    let got (s : State) : Nat := ((after (exec .messageArrival s)).lcore 1 0).queue.length
    (s 14 [(1, 4)] 0xF0).physEntries (.si 0) 1 = 15 ∧ got (s 14 [] 0xF0) = 15 ∧ got (s 14 [(1, 4)] 0xF0) = 14 ∧
    got (s 14 [(1, 3)] 0xF0) = 15 ∧ got (s 14 [(1, 3)] 0x20) = 14 := by decide +kernel

/-- SchedulingEvents: a dispatched pair of which one node is spent is discarded, and its other node is live again (R258). -/
theorem witness_discarded : let pr : Production := ⟨0x100, 0x101, false, 7, 0x5000⟩
    let s := { netted with
      active := false, act := Task.blank, arg := { slot := ⟨.si 0, 0⟩ }
      mem := netted.mem.writeNat 0x41040 8 (hdr 0x101 0 + 2 ^ 39)
      ctxs := [(1, { ctx1 netted with bags := [(0, ⟨[], [⟨0x41000, .inl 0x41040, pr, false⟩]⟩)] })] }
    let t := after (exec .dispatch s)
    t.active = false ∧ bag0 t = [] ∧ bitOf (nodeWord t 0x41000 0) 39 = false ∧ bitOf (t.lcore 1 0).errs.toNat errLink = true := by
  decide +kernel

/-- SchedulingEvents: the pages lent to a folded core and its cluster (R342); an engine command that waits (R53). -/
theorem witness_lending : let s := base.lendCore 1 5
    let stalled := { (engined) with mem := engined.mem.writeNat 0x10000 4 0b110111_01001_00001_00000_00011_00100_1 }
    s.store.map Prod.snd = [.stash 1 5, .stash 1 5, .tile 1 1, .tile 1 1] ∧ (s.lendCore 1 5).store = s.store ∧
    stalled.atStall = false ∧ ({ stalled with ctxs := [(1, { ctx1 stalled with ebud := 1 <<< 48 })] } : State).atStall = true := by
  decide +kernel

/-- FrontEndEvents: the driver header's rt bit is kept; a notify of a queue that no one has bound is an HNOTIFY event (R335,
R361, R363). -/
theorem witness_header_rt : let s := { hosted with mem := hosted.mem.writeNat 0x7010 8 (2 ^ 52 + 2 ^ 16), arg := { reg := .driverHeader, word := 0x7000 } }
    let t := after (exec .registerWrite s)
    let n := { base with
      mem := base.mem.writeBytes 0xC0 (words64 [4 * 2 ^ 60 + 2 ^ 58, 8]), arg := { queue := .user 8, word := 1 }
      ctxs := [(1, { ctx1 base with trig := [(0, ⟨true, false, 0⟩)] })] }
    (assocGet t.queues .driver).map Queue.rt = some true ∧ n.openQueue (.user 8) = none ∧
    (after (exec .queueNotify n)).causes = [⟨.bi, 0, 1, 0⟩] := by decide +kernel

/-- FrontEndEvents: of two FEEDs of one feed the later waits for the earlier, a FEED begins only with room, and one that waits for room
holds the commands behind it (R366). -/
theorem witness_feed_order : let w (n : Nat) : List Word := [2, BitVec.ofNat 64 n, 0, 0, 0, 0, 0, 0]
    let q : Queue := ⟨0x7000, 2, 2, true, false, false, [⟨0, w 0xC000, false, none⟩, ⟨1, w 0xC040, false, none⟩]⟩
    let s := { hosted with queues := [(.user 7, q)] }
    let second := { s with arg := { queue := .user 7, i := 1 } }
    let room (take : Nat) : Bool := ({ hosted with mem := hosted.mem.writeNat 0xA108 8 (15 * 2 ^ 32 + take) } : State).canStart (.user 7)
      { q with started := [] } (w 0xC000)
    let blocked : Queue := { q with started := [⟨0, w 0xC000, false, none⟩] }
    nextIs (exec .queueFeed second) second = true ∧ s.canStart (.user 7) blocked [6, 0, 0, 0, 0, 0, 0, 0] = false ∧ (after (exec .queueFeed { s with arg := { queue := .user 7, i := 0 } })).mem.readNat 0xA108 8 = 2 ^ 32 ∧
    room 0 = true ∧ room (2 ^ 32 - 1) = false := by decide +kernel

/-- FirmwareCalls: a context destroyed at once, and one with a key left to the scrub engine (R376). -/
theorem witness_destroyed : let s := call 2 [1] { hosted with halted := [(1, 0xE000, 0)] }
    let t := after (exec .destroy s)
    let k := after (exec .destroy ({ s with keys := [(3, 9)] }.modCtx 1 fun c => { c with pk := true, keySlot := 3 }))
    (t.ctx? 1).isNone = true ∧ t.mem.readNat 0x9000 8 = 0 ∧ t.active = false ∧
    (ctx1 k).dead = true ∧ k.keys = [] ∧ k.scrub.map (fun e => (e.ctx, e.slot)) = [(1, 3)] ∧ bits k.scrb.toNat 45 44 = 1 := by decide +kernel

/-- FirmwareCalls: a page of the page store is free for PAGERES. -/
theorem witness_page_store : paged.freeStore.head? = some 0 ∧ storePage (storePa 5) = some 5 ∧ storePage 0x300000 = none := by decide +kernel

/-- ManagementEvents: the scrub engine awake: the images, a frame of the walk, the end (R376, R377). -/
theorem witness_scrub_phases : let s (ph pend : Nat) : State := { base with
      scrub := [⟨1, 0x100000, 3⟩], scrb := scrbWord [⟨1, 0x100000, 3⟩] ph pend, tile := base.tile.writeBytes (64 * 131072) [7]
      stash := base.stash.writeBytes (stashKey 1 0 0) [9] }
    let one := after (exec .scrubEntry (s 1 0))
    let last := after (exec .scrubEntry (s 3 0))
    one.stash.read (stashKey 1 0 0) = 0 ∧ one.tile.read (64 * 131072) = 0 ∧ bits one.scrb.toNat 45 44 = 2 ∧ one.scrub.length = 1 ∧
    last.scrub = [] ∧ (last.ctx? 1).isNone = true := by decide +kernel

/-- ManagementEvents: power removed at 115 degrees; an SPI NOR that does not answer (R357, R369). -/
theorem witness_shutdown : (∃ t ∈ (heated [20, 115]).mc.sensors, 115 ≤ t) ∧ (State.reset.boot true).mc.recovery = true ∧
    (State.reset.boot true).mc.status = 4 ∧ (State.reset.boot true).mc.log.length = 1 := by decide +kernel

/-- PowerAndMemoryEvents: a page that can move, at its first move and at its fourth (R315). -/
theorem witness_moves : let pte := leafOf 0xF
    let s := { paged with arg := { ctx := 1, k := 0x80000000, word := 0x800000000000 } }
    walk s.mem 0x100000 0x80000000 = some (pte, false, 0x230000) ∧ s.mc.recovery = false ∧ bits pte 57 46 = 1 ∧ bitOf pte 8 = false ∧
    (0x800000000000 : Nat) % 2 ^ 16 = 0 ∧ memExists 0x80000000FFFF = true ∧ ¬Config.hostBase ≤ leafBase pte false ∧
    Config.hostBase ≤ 0x800000000000 ∧ s.pins = [] ∧ s.dramSref = false := by decide +kernel

/-- PowerAndMemoryEvents: a read-only page that a requantisation can swap (R143). -/
theorem witness_swap : let pte := leafOf 0xB
    let s := pagedAs pte
    walk s.mem 0x100000 0x80000000 = some (pte, false, 0x230000) ∧ bitOf pte 2 = false ∧ memExists 0x310000 = true ∧
    memExists 0x31FFFF = true ∧ (List.replicate (2 ^ 16) (0 : Byte)).length = 2 ^ 16 ∧ leafBase pte false ≠ 0x310000 ∧
    ¬Config.hostBase ≤ 0x310000 := by
  refine ⟨by decide +kernel, by decide +kernel, by decide +kernel, by decide +kernel, List.length_replicate .., by decide +kernel, by decide +kernel⟩

/-- PowerAndMemoryEvents: device memory that no page owns, which the host may write once FEAT.hdm is accepted (R359). -/
theorem witness_hdm_write : let s := { State.reset with featAcc := State.reset.featAcc.set 0 0x4, arg := { i := 0x1000, bytes := [5] } }
    s.feature 2 = true ∧ s.dramSref = false ∧ s.pageOwner 0x1000 = none ∧ 0x1000 + 1 ≤ Config.dramBytes := by
  refine ⟨by decide +kernel, by decide +kernel, by decide +kernel, ?_⟩
  simp [Config.dramBytes]
  omega

/-- VectorMemory: a load with a negative stride names the lowest poisoned byte; a store of whole lines clears their poison (R145,
R217, R320). -/
theorem witness_vector_poison : let s := { (withX [(5, 0x1000), (6, BitVec.ofInt 64 (-4))]).modCtx 1 fun c => { c with flt := 1 } with poison := [0x3F, 0x40] }
    let b := { burst [(5, 0x1000), (6, 0)] with poison := [0x40, 0x41, 0x42] }
    nextIs (exec (.vlds 3 5 6 0 .i32) s) (s.takeFault 4 codePois 0xFE4 true 0) = true ∧
    (after (exec (.vst 3 5 6 0 .i64) b)).poison = [0x42] := by decide +kernel

/-- KvInstructions: an append to a shared page enters the prefix unit's queue, where it is a pending holder; its own step and other
appends and lookups to its record wait (R144, R282). -/
theorem witness_kv_copy : let s := { pooled with mem := (pooled.mem.writeBytes 0x4000 (words64 [2 ^ 32 + 1, 0x4080, 2 ^ 32])).writeBytes 0x4080 (words64 [0x100000]) }
    let s := { s with ctxs := [(1, { ctx1 s with kvRc := [(0, 2), (1, 1)] })] }.setX 7 0x5000
    let t := after (exec (.kva 9 4 7) s)
    let u := t.switch ⟨.si 0, 1⟩
    t.copies = [⟨⟨.si 0, 0⟩, 1, 9, 0x4000, 0, 2, 0x4080, 0x5000, 256, 1, false⟩] ∧ (ctx1 t).rc 0 = 2 ∧ (ctx1 t).pc 0 = 1 ∧
    (ctx1 t).rc 2 = 1 ∧ t.act.pc = s.act.pc ∧ t.recordBusy t.who 0x4000 = true ∧ t.recordBusy t.who 0x3000 = false ∧
    (t.copyOf t.cur).isSome = true ∧ t.copies.head? = t.copyOf t.cur ∧ (t.copyOf u.cur).isNone = true := by decide +kernel

/-- Whether an address is one of the heap, that an access may take. -/
def heapAt (s : State) (c : Ctx) (acc : Acc) (va : Nat) : Bool :=
  decide (va < remoteBase) && c.inHeap va && match heapLoc s c acc va with
    | .ok (.mem _ _ false none none none) => true
    | _ => false

/-- A location that is plain memory. -/
def Plain (p : Loc × Nat) : Prop := ∃ pa k, p.1 = .mem pa k false none none none

theorem resolve_heap {s : State} {id l : Nat} {c : Ctx} {acc : Acc} {va : Nat} (hc : s.ctx? id = some c) (h : heapAt s c acc va = true) :
    ∃ pa k, resolve (.core id l) acc va s = .ok (.mem pa k false none none none, s) := by
  unfold heapAt at h
  split at h
  · rename_i pa k hl
    simp only [Bool.and_true, Bool.and_eq_true, decide_eq_true_eq] at h
    have h2 : ¬ 2 ^ 48 ≤ va := by have := h.1; unfold remoteBase at this; omega
    have h3 : ¬ remoteBase ≤ va := by omega
    refine ⟨pa, k, ?_⟩
    unfold resolve
    simp only [h2, h3, if_false]
    rw [op_bind_ok (show theCtx id s = .ok (c, s) by unfold theCtx; rw [op_bind_ok (op_get s), hc]; rfl)]
    unfold globalLoc
    rw [op_bind_ok (op_get s), if_pos h.2, hl]
    rfl
  · simp at h

theorem resolveAll_heap {s : State} {id l : Nat} {c : Ctx} {acc : Acc} (hc : s.ctx? id = some c) :
    ∀ {ps : List (Nat × Nat)}, ps.all (fun p => heapAt s c acc p.1) = true →
      ∃ ls, resolveAll (.core id l) acc ps s = .ok (ls, s) ∧ ∀ p ∈ ls, Plain p
  | [], _ => ⟨[], rfl, by simp⟩
  | (va, n) :: ps, h => by
    simp only [List.all_cons, Bool.and_eq_true] at h
    obtain ⟨pa, k, h1⟩ := resolve_heap (l := l) hc h.1
    obtain ⟨ls, h2, h3⟩ := resolveAll_heap hc h.2
    refine ⟨(.mem pa k false none none none, n) :: ls, ?_, ?_⟩
    · unfold resolveAll
      rw [op_bind_ok h1, op_bind_ok h2]
      rfl
    · simp only [List.mem_cons, forall_eq_or_imp]
      exact ⟨⟨pa, k, rfl⟩, h3⟩

/-- The pooled package with another memory. -/
def poolMem (m : Memory) : State := { pooled with mem := m }

theorem poolMem_write (w : Who) (bs : List Byte) (m : Memory) {ls : List (Loc × Nat)} (h : ∀ p ∈ ls, Plain p) (hw : w = .core 1 0) :
    ∃ m', (poolMem m).writeLocs w ls bs = poolMem m' := by
  subst hw
  induction ls generalizing bs m with
  | nil => exact ⟨m, rfl⟩
  | cons p ls ih =>
    obtain ⟨⟨pa, k, hp⟩, hr⟩ := List.forall_mem_cons.1 h
    obtain ⟨loc, n⟩ := p
    subst hp
    unfold State.writeLocs
    have : (poolMem m).writeLoc (.core 1 0) (.mem pa k false none none none) (bs.take n) = poolMem (m.writeBytes pa (bs.take n)) := by
      simp only [State.writeLoc, State.logDirty, Memory.writePlain, poolMem]
      have hp : pooled.poison = [] := rfl
      simp [hp]
    rw [this]
    exact ih _ _ hr

theorem poolMem_check {acc : Acc} {va n : Nat} (m : Memory) (h : (piecesOf va n).all (fun p => heapAt pooled (ctx1 pooled) acc p.1) = true) :
    ∃ ls, checkRange (.core 1 0) acc va n (poolMem m) = .ok (ls, poolMem m) ∧ ∀ p ∈ ls, Plain p := by
  have hc : (poolMem m).ctx? 1 = some (ctx1 pooled) := rfl
  obtain ⟨ls, h1, h2⟩ := resolveAll_heap (l := 0) (acc := acc) hc (ps := piecesOf va n) (by
    have : ∀ va, heapAt (poolMem m) (ctx1 pooled) acc va = heapAt pooled (ctx1 pooled) acc va := fun _ => rfl
    simpa only [this] using h)
  exact ⟨ls, checkRange_eq_ok.2 ⟨poolMem m, h1, rfl⟩, h2⟩

theorem poolMem_put (m : Memory) {ls : List (Loc × Nat)} (h : ∀ p ∈ ls, Plain p) (bs : List Byte) :
    ∃ m', (poolMem m).put (.core 1 0) ls bs = poolMem m' := by
  have hd : ls.any (fun p => p.1.discarded) = false := by
    simp only [List.any_eq_false]
    intro p hp
    obtain ⟨pa, k, e⟩ := h p hp
    simp [e, Loc.discarded]
  obtain ⟨m', e⟩ := poolMem_write (.core 1 0) bs m h rfl
  refine ⟨m', ?_⟩
  unfold State.put
  rw [hd]
  simp only [Bool.false_eq_true, if_false, e]
  unfold State.countPort
  split
  · rfl
  · split
    · rename_i he
      obtain ⟨p, hp, hk⟩ := List.exists_of_findSome?_eq_some he
      obtain ⟨pa, k, e⟩ := h p hp
      simp [e] at hk
    · rfl

theorem poolMem_copies {dst src n : Nat} (m : Memory) (h : (piecesOf src n).all (fun p => heapAt pooled (ctx1 pooled) .load p.1) = true)
    (h' : (piecesOf dst n).all (fun p => heapAt pooled (ctx1 pooled) .store p.1) = true) :
    ∃ m', Copies (.core 1 0) dst src n (poolMem m) (poolMem m') := by
  obtain ⟨ls, h1, h2⟩ := poolMem_check m h
  obtain ⟨ls', h3, h4⟩ := poolMem_check m h'
  obtain ⟨m', e⟩ := poolMem_put m h4 ((poolMem m).readLocs ls)
  refine ⟨m', ls, poolMem m, ls', poolMem m, h1, ?_, h3, e.symm⟩
  have hp : (poolMem m).poison = [] := rfl
  simp only [State.anyPoison, List.any_eq_false]
  intro p hm
  obtain ⟨pa, k, e⟩ := h2 p hm
  simp [e, State.poisoned, hp]

/-- KvInstructions: a copy that ends (R282): the page, the entry, the row and the record can be written, with and without the commit
bit. -/
theorem witness_kv_copy_end : let w : Who := .core 1 0
    let c := ctx1 pooled
    ∃ v1 at2 v2 v3 at3 v4 at4 v5, Copies w (c.poolVa 2) (c.poolVa 0) (2 ^ 16) pooled v1 ∧ checkRange w .store 0x4080 8 v1 = .ok (at2, v2) ∧
      Copies w (c.poolVa 2 + 256) 0x5000 (2 ^ (16 - c.kv.lb)) (v2.put w at2 (natToBytes 8 (c.poolVa 2))) v3 ∧
      checkRange w .store 0x4004 4 v3 = .ok (at3, v4) ∧ checkRange w .store 0x4000 4 (v4.put w at3 (natToBytes 4 2)) = .ok (at4, v5) := by
  obtain ⟨m1, h1⟩ := poolMem_copies (dst := 0x120000) (src := 0x100000) (n := 2 ^ 16) pooled.mem (by decide +kernel) (by decide +kernel)
  obtain ⟨at2, h2, p2⟩ := poolMem_check (acc := .store) (va := 0x4080) (n := 8) m1 (by decide +kernel)
  obtain ⟨m2, e2⟩ := poolMem_put m1 p2 (natToBytes 8 0x120000)
  obtain ⟨m3, h3⟩ := poolMem_copies (dst := 0x120100) (src := 0x5000) (n := 256) m2 (by decide +kernel) (by decide +kernel)
  obtain ⟨at3, h4, p3⟩ := poolMem_check (acc := .store) (va := 0x4004) (n := 4) m3 (by decide +kernel)
  obtain ⟨m4, e4⟩ := poolMem_put m3 p3 (natToBytes 4 2)
  obtain ⟨at4, h5, -⟩ := poolMem_check (acc := .store) (va := 0x4000) (n := 4) m4 (by decide +kernel)
  refine ⟨poolMem m1, at2, poolMem m1, poolMem m3, at3, poolMem m3, at4, poolMem m4, h1, h2, ?_, h4, ?_⟩
  · rw [show (ctx1 pooled).poolVa 2 = 0x120000 from rfl, e2]; exact h3
  · rw [e4]; exact h5

/-! ## Formats, rounding, the cipher -/

/-- The cipher: AES-256 on the example of FIPS 197, and XTS with a zero key on block 1 of data unit 0 (IEEE 1619, vector 1 of
XTS-AES-128), the bytes of each in ascending order from the least significant (R375). -/
theorem test_cipher :
    aes 0x0f0e0d0c0b0a09080706050403020100 0xffeeddccbbaa99887766554433221100 = 0x5ac5b47080b7cdd830047b6ad8e0c469 ∧
    aesXts 0 16 0 = 0x2e92bf2f65c2028c85ed9895f5d243cd := by constructor <;> decide +kernel

/-- VectorConversions: f16 at its limits: 65520 overflows; a quarter of the least subnormal; a tie of 1 + 2^-11; SR with the greatest and
the least bits that decide; saturation of a quantizing conversion (R101, R102, R104). -/
theorem witness_rounding :
    let of16 (mode : RMode) (r m : Nat) (e : Int) : Rounded := roundVal .f16 mode r false (.fin false m e)
    of16 .rne 0 65520 0 = ⟨0x7C00, 5⟩ ∧ of16 .rz 0 65520 0 = ⟨0x7BFF, 1⟩ ∧ of16 .rdn 0 65536 0 = ⟨0x7BFF, 5⟩ ∧
    of16 .rne 0 1 (-26) = ⟨0, 3⟩ ∧ of16 .rup 0 1 (-26) = ⟨1, 3⟩ ∧ of16 .rne 0 2049 (-11) = ⟨0x3C00, 1⟩ ∧
    of16 .rne 0 2051 (-11) = ⟨0x3C02, 1⟩ ∧ of16 .sr 0x8000 2049 (-11) = ⟨0x3C01, 1⟩ ∧ of16 .sr 0x7FFF 2049 (-11) = ⟨0x3C00, 1⟩ ∧
    roundVal .e4m3 .rne 0 false (.fin true 465 0) = ⟨0xFE, 5⟩ ∧ roundVal .e5m2 .rne 0 true (.inf false) = ⟨0x7B, 4⟩ ∧
    roundVal .e5m2 .rne 0 false (.inf false) = ⟨0x7C, 0⟩ ∧ roundVal .f32 .rne 0 false (.nan true) = ⟨0x7FC00000, 16⟩ := by decide +kernel

/-- VectorConversions: a magnitude and its exponent; a rounding to whole units by each mode. -/
theorem witness_rounds_units : (2 : ℝ) ^ (1 : ℤ) ≤ 3 ∧ (3 : ℝ) < 2 ^ ((1 : ℤ) + 1) ∧ RoundsUnits .rne 0 false (5 / 2) 2 ∧
    RoundsUnits .rz 0 false (5 / 2) 2 ∧ RoundsUnits .rup 0 false (5 / 2) 3 ∧ RoundsUnits .rdn 0 true (5 / 2) 3 ∧
    RoundsUnits .sr 0 false 2 2 := by
  refine ⟨by norm_num, by norm_num, ⟨?_, fun _ => rfl⟩, ⟨by norm_num, by norm_num⟩, ?_, ?_, Or.inl (by norm_num)⟩
  · norm_num [abs_le]
  · simp only [RoundsUnits]; norm_num
  · simp only [RoundsUnits]; norm_num

/-- VectorConversions: the block of R108: 3.5 is the extra value, then 3.0, -0.75 and zeros; the same with a NaN; integers. -/
theorem witness_block : let xs : List FVal := [.fin false 7 (-1), .fin false 3 0, .fin true 3 (-2)] ++ List.replicate 29 .zero
    xs.length = 32 ∧ qntBlock .e2m1x .rne [] 0 0 xs = ⟨0xB78 + 0x7E * 2 ^ 128 + 0x4E * 2 ^ 136, 0⟩ ∧
    qntBlock .e2m1x .rne [] 0x7FC00000 0 xs = ⟨0xFF * 2 ^ 128, 16⟩ ∧ (qntBlock .e4m3 .rne [] 0 0 xs).bits % 2 ^ 16 = 0x4446 ∧
    (qntBlock .e2m3 .rne [] 0 0 xs).bits / 2 ^ 192 = 126 ∧
    convertElem true .i32 .i8 .rne 0 0xFFFFFF00 = ⟨0x80, 16⟩ ∧ convertElem true .f32 .i8 .rne 0 0x40200000 = ⟨2, 1⟩ ∧
    convertElem false .f32 .i8 .rne 0 0xBF800000 = ⟨0, 16⟩ ∧ convertElem true .f32 .i8 .rne 0 0x7FC00000 = ⟨0, 16⟩ := by decide +kernel

/-- VectorFloatForms: exact results of numbers and of infinities. -/
theorem witness_exact : addF .rdn (.fin false 1 0) (.fin true 1 0) = ⟨.fin true 0 0, 0⟩ ∧ addF .rne (.fin false 1 0) (.fin true 1 0) = ⟨.zero, 0⟩ ∧
    divF (.fin false 1 0) (.fin true 0 0) = ⟨.inf true, 8⟩ ∧ divF (.fin false 0 0) (.fin true 0 0) = ⟨.nan false, 16⟩ ∧
    (sqrtF (.fin true 1 0)) = ⟨.nan false, 16⟩ ∧ ((sqrtF (.fin false 1 1)).round .f32 .rne 0) = ⟨0x3FB504F3, 1⟩ ∧
    ((divF (.fin false 1 0) (.fin false 3 0)).round .f32 .rne 0) = ⟨0x3EAAAAAB, 1⟩ := by decide +kernel

/-- ReductionsAndScans: zeros ordered by sign, infinities of both signs, a NaN beside a number (R109, R111). -/
theorem witness_combine : redCombine .max true .f32 0x80000000 0 = ⟨0, 0⟩ ∧ redCombine .min true .f32 0 0x80000000 = ⟨0x80000000, 0⟩ ∧
    redCombine .add true .f32 0x7F800000 0xFF800000 = ⟨0x7FC00000, 16⟩ ∧ redCombine .max true .f32 0x7FA00000 0x3F800000 = ⟨0x3F800000, 16⟩ ∧
    redCombine .add true .f32 0x80000000 0x80000000 = ⟨0x80000000, 0⟩ ∧ redCombine .add true .f32 0x3F800000 0xBF800000 = ⟨0, 0⟩ ∧
    redCombine .add true .f32 0x3F800000 0x33800000 = ⟨0x3F800000, 1⟩ := by decide +kernel

/-- EngineJobs: a block of 32 ones upon 1.0, one with an infinite product, with 0 times infinity, with both infinities; i8 operands that
wrap (R110). -/
theorem witness_accumulate : let e (w : Nat) : Elem := ⟨w, decodeF .f32 w, false⟩
    let run (h : List Nat) : Rounded := accumulate false 1 0x3F800000 ((h ++ List.replicate (32 - h.length) 0x3F800000).map e)
      (List.replicate 32 (e 0x3F800000))
    run [] = ⟨0x42040000, 0⟩ ∧ run [0x7F800000] = ⟨0x7F800000, 0⟩ ∧ (run [0x7F800000, 0xFF800000]).bits = 0x7FC00000 ∧
    (accumulate false 1 0 ([e 0x7F800000] ++ List.replicate 31 (e 0)) (List.replicate 32 (e 0))).bits = 0x7FC00000 ∧
    accumulate true 1 5 (List.replicate 32 ⟨0xFF, .zero, false⟩) (List.replicate 32 ⟨2, .zero, false⟩) = ⟨0xFFFFFFC5, 0⟩ := by decide +kernel

/-! ## Memory, stashes, rings -/

/-- FencesPass: a partial of 2^-24 on 1.0 becomes a write at a fence: another one leaves 1.0 as it is. A partial of a UN page waits for
SC (R129, R134, R136). -/
theorem witness_fence : let loc (kind : Nat) : Loc := .mem 0x1000 kind false none none none
    let red (kind : Nat) (s : State) : State := s.reduce .fadd 4 0x33800000 (loc kind)
    let s := { base with mem := base.mem.writeNat 0x1000 4 0x3F800000 }
    let f (kind : Nat) (k : FenceKind) : State := after (exec (.fence .pkg k) (red kind s))
    (f 1 .rel).gathers = [] ∧ (red 1 (f 1 .rel)).mem.readNat 0x1000 4 = 0x3F800000 ∧ (red 1 (red 1 s)).mem.readNat 0x1000 4 = 0x3F800001 ∧
    (f 2 .rel).gathers.length = 1 ∧ (f 2 .sc).gathers = [] ∧ (f 1 .acq).gathers.length = 1 ∧
    (after (exec (.fence .core .rel) (red 1 s))).gathers.length = 1 ∧ (red 1 s).gathers.all (fun g => g.current (red 1 s)) = true := by
  decide +kernel

/-- AtomicsComplete: the rl bit of an atomic on another line makes the same of the core's partial; without it the partial stays (R134). -/
theorem witness_release : let loc : Loc := .mem 0x1000 1 false none none none
    let s := (withX [(1, BitVec.ofNat 64 local0), (2, 3)]).reduce .fadd 4 0x33800000 loc
    let t (rl : Bool) : State := after (exec (.amoAdd 5 1 2 false rl false) s)
    (t true).gathers = [] ∧ (t false).gathers.length = 1 ∧ (t true).stash.readNat (stashKey 1 0 0) 4 = 3 ∧
    (after (exec (.redAdd 1 2 false true false) s)).gathers = [] := by decide +kernel

/-- CheckFrame: bytes of a line stored through a stash map that a plain load reaches stay at a drop; a store through the map itself
leaves all as they were (R162). -/
theorem witness_drop_notes : let d : DirtyLine := ⟨1, 0, 64, 0x1000, List.replicate 64 (some 7)⟩
    let s := { (withX []).modCore 1 0 fun k => { k with maps := [⟨64, 1, 0x1000⟩] } with dirtyMaps := [d] }
    let may (o : Except Trap (List (Loc × Nat) × State)) : List Bool := match o with
      | .ok (_, t) => t.dirtyMaps.flatMap fun d => ((d.fall.drop 6).take 4).map Option.isSome
      | .error _ => []
    may (loadAt 0x1008 8 s) = [true, true, false, false] ∧
    may (checkRange (.core 1 0) .store (local0 + 72) 8 s) = [true, true, true, true] := by decide +kernel

/-- StashMaps: a store through a map, dropped at once: each byte keeps its value or falls back to what it was; the dirty line is gone. -/
theorem witness_drop : let s := (withX [(1, BitVec.ofNat 64 (local0 + 64)), (2, 64), (3, 0x55), (4, 64)]).modCore 1 0 fun k => { k with maps := [⟨64, 1, 0x1000⟩] }
    let t := after (exec (.st .b8 3 1 0) s)
    let u := after (exec (.sdrop 2 4) t)
    t.dirtyMaps.map (fun d => (d.off, d.pa, d.fall.head?)) = [(64, 0x1000, some (some 0))] ∧
    t.mappedLine 1 0 64 = some (0x1000, none) ∧ u.dirtyMaps = [] ∧ ((u.lcore 1 0).maps == (t.lcore 1 0).maps) = true := by decide +kernel

/-- The page 0x80000000 of context 1 mapped, discarded, to the first frame of host memory. -/
def discarded : State := pagedAs (2 ^ 46 + 2 ^ 42 + 0x60F)

/-- PowerAndMemoryEvents: a host write to a discarded page is dropped, counted on core 0 of the page's context (R142, log 45); firmware
reads it as zero. -/
theorem witness_discarded_host : let s := { discarded with arg := { i := 2 ^ 47 + 8, bytes := [1, 2] } }
    let t := after (exec .hostSnoop s)
    s.discardedOf (2 ^ 47 + 8) = some 1 ∧ t.mem.readNat (2 ^ 47 + 8) 2 = 0 ∧ (t.lcore 1 0).errs ≠ (s.lcore 1 0).errs ∧
    (s.pageOwner (2 ^ 47 + 8)).map (fun p => bitOf p.2 9) = some true ∧
    ({ s with mem := s.mem.writeNat (2 ^ 47) 8 5 } : State).readLoc (s.physLoc (2 ^ 47)) 8 = List.replicate 8 0 := by decide +kernel

/-- CircularBuffers: a poisoned descriptor tells nothing: PROT, which counts nothing (R64, R145, log 26). -/
theorem witness_ring_poison : let s := { ringAt 0 3 0 with stashPoison := [stashKey 1 0 0x100 / 64] }
    nextIs (exec (.cbtake 6 1) s) (s.takeFault 4 codeProt (local0 + 0x100) false 0) = true ∧ s.trapsPoison = false := by decide +kernel

/-- FaultRecords: a store traced in a ring of 16, in a full one, and behind one that waits (R146). -/
theorem witness_trace : let s (put : Nat) : State := { base with
      mem := base.mem.writeBytes 0x9000 (words64 [put, 0]), featAcc := base.featAcc.set 0 9
      ctxs := [(1, { ctx1 base with traceRing := 0x9000, traceLcap := 4, traceOn := true })] }
    let t := (s 0).tracePort 1 0 3 1 0x40 5 true
    let w := ({ s 0 with heldEntries := [⟨1, 0, true, 0, []⟩] } : State).tracePort 1 0 3 1 0x40 5 true
    bitOf (Config.featOffered &&& (s 0).featAcc[0]).toNat 3 = true ∧ t.mem.readBytes 0x9000 8 = natToBytes 8 1 ∧
    t.mem.readBytes 0x9040 16 = words64 [2 ^ 52 + 3 * 2 ^ 40 + 0x40, 5] ∧ (ctx1 ((s 16).tracePort 1 0 3 1 0x40 5 true)).traceLost = 1 ∧
    w.heldEntries.length = 2 ∧ w.mem = (s 0).mem ∧ nextIs (.next ((s 0).tracePort 1 0 3 0 0x40 5 true)) (s 0) = true := by decide +kernel

/-! ## Tasks, queues, graphs -/

/-- Waits: operands out of their ranges: a barrier and a feed of 16, a reserved bit of DQ, room on a die of the SI, room 3 (R184). -/
theorem witness_wait_operands : let s := withRecord 2 1 [(2, 16), (3, 0x8002), (4, 1), (5, 3)]
    ∀ i ∈ [Instr.endwBar 2 1, .endwFeed 2 1, .endwDq 3 1, .endwRoom 4 1, .endwRoom 5 1],
      nextIs (exec i s) (s.takeFault 4 codeProt 0 false 0) = true := by decide +kernel

/-- TasksAndRecords: the 65th entry of a core is spilled: it takes a place of an arena that has room, or asks for one (R43). -/
theorem witness_spilled : let e (n : Nat) : QEntry := ⟨.ready, 0, .entry ⟨5, 0, 0, [], none⟩, n⟩
    let s (pages : Nat) : State := { base with
      ticks := 64
      ctxs := [(1, { ctx1 base with arenaBase := 0xE000, arenaPages := pages, cores := [(0, { LCore.init with queue := (List.range 64).map e })] })] }
    let t (pages : Nat) : State := (s pages).enqueue 1 0 (e 0)
    (s 1).spilledOf (ctx1 (s 1)) = 0 ∧ (t 1).spilledOf (ctx1 (t 1)) = 1 ∧ (ctx1 (t 1)).spill = [0xE000] ∧ (t 1).pages = [] ∧
    (ctx1 (t 0)).spill = [] ∧ (t 0).pages = [⟨1, 0xE000, .spill 0xE000, 0, false⟩] ∧ ((t 0).enqueue 1 0 (e 0)).pages = (t 0).pages := by
  decide +kernel

/-- WakesAndDomains: what is spilled of a queue of one entry: written, asked for, and reported once no page can be had (R43, R343). -/
theorem witness_image_spilled : let c (pages : Nat) : Ctx := { ctx1 base with
      arenaBase := 0xE000, arenaPages := pages, faultRing := 0x8000, faultLcap := 4
      cores := [(0, { LCore.init with queue := [⟨.ready, 0, .entry ⟨5, 0, 0, [], none⟩, 0⟩] })] }
    let s (pages : Nat) : State := { faulty 17 2 with ctxs := [(1, c pages)] }
    let run (s : State) : Option (Option Bool × State) := match spillOp 1 (ctx1 s) s with
      | .ok p => some p
      | .error _ => none
    spillBytes (spillPieces (ctx1 base)) = [] ∧ spillBytes (spillPieces (c 1)) ≠ [] ∧ (run (s 1)).map Prod.fst = some (some true) ∧
    (run (s 0)).map (fun p => (p.1, p.2.pages)) = some (none, [⟨1, 0xE000, .image 0xE000, 0, false⟩]) ∧
    (run { s 0 with pages := [⟨1, 0, .noMap, 0, false⟩] }).map (fun p => (p.1, p.2.pages, p.2.mem.readNat 0x8000 8)) = some (some false, [], 18) := by
  decide +kernel

/-- SchedulingEvents: of two ready entries and one of a channel the first ready one and the message; one that is spilled is none. -/
theorem witness_cands : let e : QEntry := ⟨.ready, 0, .entry ⟨5, 0, 0, [], none⟩, 0⟩
    let m : QEntry := ⟨.chan 1, 0, .msg ⟨1, 3, 0x5000, 0x7000, [], none⟩, 3⟩
    let s (q : List QEntry) : State := { base with active := false, act := Task.blank, ctxs := [(1, { ctx1 base with cores := [(0, { LCore.init with queue := q })] })] }
    let many := (List.range 64).map fun n => { e with seq := n }
    (s [e, { e with seq := 1 }, m]).cands (.si 0) = [⟨4, tripleKey 1 0 .ready, .entry 1 0 0⟩, ⟨1, tripleKey 1 0 (.chan 1), .entry 1 0 2⟩] ∧
    (s (many ++ [{ e with source := .bag, seq := 64 }])).cands (.si 0) = [⟨4, tripleKey 1 0 .ready, .entry 1 0 0⟩] := by decide +kernel

/-- SchedulingEvents: the second of two messages of one slot to one channel of one core waits for the first (R45). -/
theorem witness_message_order : let m : Msg := ⟨1, 3, 0x5000, 0x7000, [1, 2, 3, 4], none⟩
    let f : InFlight := ⟨1, 0, some ⟨.si 2, 0⟩, m⟩
    let s := { base with msgs := [f, { f with msg := { m with src := 9 } }] }
    nextIs (exec .messageArrival (at1 1 s)) (at1 1 s) = true ∧ queued (after (exec .messageArrival (at1 0 s))) = [0x5000] := by decide +kernel

/-- Nodes: PRODL keeps a template's local-window address as its core's place in the remote window (R260, R378). -/
theorem witness_template_place : let s := { netted with act := { netted.act with x := netted.act.x.set 11 (BitVec.ofNat 64 (local0 + 0x40)) } }
    let t := after (exec (.prodl 10 11) (inStash (s.setX 10 (0x101 * 2 ^ 12 + 0x103 + 2 * 2 ^ 24)) 0x40 (words64 [1, 0])))
    canonVa (.core 1 3) (local0 + 0x40) = 0xFFFE00060040 ∧ canonVa (.core 1 3) 0x40 = 0x40 ∧
    ((ctx1 t).prods.map fun p => p.addr).all (fun a => decide (a < local0)) = true := by decide +kernel

/-- KvInstructions: poison beneath the array of PFXL, counted and trapped; a poisoned record of KVA and KVH; a poisoned token, which the
row of the page inherits (R145). -/
theorem witness_kv_poison : let s (l : Nat) : State := { pooled with poison := [l] }
    let trap (s : State) : State := s.modCtx 1 fun c => { c with flt := 1 }
    let p := after (exec (.pfxl 9 1 2) (s 0xC0))
    let t := after (exec (.kva 9 4 7) ((s 0x140).setX 7 0x5000))
    p.x 9 = 0 ∧ (p.lcore 1 0).errs ≠ 0 ∧ nextIs (exec (.pfxl 9 1 2) (trap (s 0xC0))) ((trap (s 0xC0)).takeFault 4 codePois 0x3000 true 0) = true ∧
    (∀ i ∈ [Instr.kva 9 4 5, .kvh 9 4], nextIs (exec i (s 0x100)) ((s 0x100).takeFault 4 codeProt 0x4000 false 0) = true) ∧
    t.x 9 = 0 ∧ t.poison = [0x120000 / 64, 0x140] ∧ (t.lcore 1 0).errs ≠ 0 := by decide +kernel

/-- KvInstructions: room in a tree of at most two nodes: there is some, the older leaf goes, the path itself stays (R277). -/
theorem witness_make_room : let node (id parent handle stamp : Nat) : TreeNode := ⟨id, parent, 0x11, handle, stamp⟩
    let c (t : List TreeNode) : Ctx := { ctx1 pooled with tree := t }
    let two := c [node 1 0 0x100000 5, node 2 0 0x110000 3]
    let ids (o : Option Ctx) : Option (List Nat × Nat) := o.map fun c => (c.tree.map TreeNode.id, c.rc 1)
    ids ((c [node 1 0 0x100000 5]).makeRoom []) = some ([1], 1) ∧ ids (two.makeRoom []) = some ([1], 0) ∧
    ids (two.makeRoom [2]) = some ([2], 1) ∧ ids (two.makeRoom [1, 2]) = none ∧
    ids ((c [node 1 0 0x100000 5, node 2 1 0x110000 3]).makeRoom []) = some ([1], 0) := by decide +kernel

/-- KvInstructions: the hash of R285 for sequence 1 and block 2, and the points before some positions of a ring. -/
theorem witness_hash : kvhash 1 2 = 0x86a19812 ∧ prevPoint [(0x100, 2), (0x80, 3)] 0x90 = 0x80 ∧
    prevPoint [(0x100, 2), (0x80, 3)] 0x80 = 0x100 ∧ prevPoint [(0x100, 2)] 0x100 = 0x100 := by decide +kernel

/-- KvInstructions: a mask whose tile 0 has code 11, read as partial and recorded (R290); references dropped that are there and not. -/
theorem witness_mask_code : let s (codes : Nat) : State := let s := withX [(1, 0x4000), (2, 60 * 2 ^ 32)]
      { s with mem := (s.mem.writeBytes 0x4000 (words64 [0x4100, 0x4200, 2 ^ 32 + 2, 0x4400])).writeNat 0x4100 1 codes }
    let errs (codes : Nat) : Nat := ((after (exec (.mskt 2 1 2) (s codes))).lcore 1 0).errs.toNat
    bitOf (errs 0xB) errMask = true ∧ errs 0x9 = 0 ∧
    (let r := dropRefs (ctx1 pooled) [0x100000, 0, 0x110000]; (r.1.rc 0, r.1.rc 1, r.2) = (0, 0, false)) ∧
    (dropRefs (ctx1 pooled) [0x100000, 0x100000]).2 = true ∧ (dropRefs (ctx1 pooled) [0x100008]).2 = true := by decide +kernel

/-- QueuesAndLattice: the lattice of R301: five rows, the mask and the row table. -/
theorem witness_lattice_example : let s := withX [(1, 0x3000), (2, 0x4000)]
    let node (token p0 p1 : Nat) : Nat := token + p0 * 2 ^ 32 + p1 * 2 ^ 40
    let s := { s with mem := s.mem.writeBytes 0x3000 (words64 [4, node 7 0xFF 0xFF, node 9 0 0xFF, node 4 0 0xFF, node 5 1 2]) }
    let t := after (exec (.latx 9 1 2) s)
    t.x 9 = 5 ∧ (List.range 6).map (fun r => t.mem.readNat (0x4000 + 8 * r) 8) = [0x1, 0x3, 0x5, 0xB, 0x15, 0] ∧
    (List.range 6).map (fun r => t.mem.readNat (0x4200 + 8 * r) 8) =
      [0xFF000000000007, 0x00010100000009, 0x00010200000004, 0x01020300000005, 0x02020300000005, 0] := by decide +kernel

/-- QueuesAndLattice: a row posted and a die entry arrived while a task waits for it; stale entries that a floor discards (R295, R296). -/
theorem witness_waiters : let wait (k : WaitKind) (s : State) : State := s.modCtx 1 fun c => { c with waits := [⟨k, 0x2000, 0, none⟩] }
    let s := wait (.logit 0x8000 0) (withX [(1, 0x3000)])
    let t := after (exec (.lqp 9 1) { s with mem := s.mem.writeBytes 0x3000 (words64 [0x5000, 100, 0, 0]) })
    let d := wait (.die 0x8000 0) { burst [] with dieFlight := [⟨0, 1, 7, [5]⟩], arg := { k := 0 } }
    let u := after (exec .dqEntryArrival d)
    let f := ({ base with dieQ := [⟨0, 1, 3, []⟩, ⟨0, 1, 5, []⟩, ⟨1, 1, 3, []⟩] }.modCtx 1 fun c => { c with floors := [(0, 5)] }).dieFlush 1 0
    t.logits = [] ∧ (ctx1 t).waits.map (fun w => w.got.isSome) = [true] ∧ u.dieQ = [] ∧ u.dieFlight = [] ∧
    (ctx1 u).waits.map (fun w => w.got.map Prod.snd) = [some [5]] ∧ f.dieQ.map (fun e => (e.dir, e.seq)) = [(0, 5), (1, 3)] ∧
    tableGet (ctx1 f).dropped 0 = 1 := by decide +kernel

/-! ## The front end, firmware, pages -/

/-- FrontEndEvents: the slots of a draw, the commands that complete as they start, and conditions of a start (R364, R366). -/
theorem witness_draw : let s := { hosted with slots := [(3, .user 7)] }
    let q : Queue := ⟨0x7000, 0, 0, true, false, false, []⟩
    let open_ (e : Queue) : State := { s with queues := [(.user 7, e)] }
    let w (op n : Nat) : List Word := [BitVec.ofNat 64 op, BitVec.ofNat 64 n, 1, 0, 0, 0, 0, 0]
    let busy : Queue := { q with started := [⟨0, w 1 0, false, none⟩] }
    s.eligible = [] ∧ (open_ { q with tail := 1 }).eligible.map (fun e => (e.q, e.tickets)) = [(.user 7, 1)] ∧
    (open_ { q with tail := 1, closing := true }).eligible = [] ∧
    atOnce .driver (w 4 0) = some 4 ∧ atOnce .driver (w 5 0) = none ∧ atOnce (.user 7) (w 7 0) = some 6 ∧ atOnce (.user 7) (w 6 0) = none ∧
    atOnce (.user 7) (w 0x201 0) = some 4 ∧ atOnce (.user 7) (w 8 0) = some 4 ∧
    s.canStart (.user 7) busy (w 3 0) = false ∧ s.canStart (.user 7) q (w 3 0) = true ∧ s.canStart (.user 7) busy (w 6 0) = true := by
  decide +kernel

/-- FirmwareCalls: a page that is pinned does not move to the page store (R315, R318). -/
theorem witness_pinned_page : let s := { paged with queues := hosted.queues, mem := paged.mem.writeNat 0x230000 8 (leafOf 0x10F) }
    callStatus .pageres (call 9 [1, 0x80000000, 1] s) = 0x107 := by decide +kernel

/-- FirmwareCalls: the same for EPOCH's hypotheses. -/
theorem witness_epoch_wakes : let s := { call 12 [1, 5] hosted with dramSref := true }
    (s.oldestCall.map fun e => (cmdWord e.words 1, cmdWord e.words 2, cmdWord e.words 3)) = some (12, 1, 5) ∧ s.mc.recovery = false ∧
    (s.live? 1).map Ctx.desc = some 0xA000 ∧ 0xA000 < Config.dramBytes := by
  refine ⟨by decide +kernel, by decide +kernel, by decide +kernel, ?_⟩
  simp [Config.dramBytes]
  omega

/-- PowerAndMemoryEvents: a page of the page store that is not lent is none to map; one that is lent to the page is. A spilled entry's
place and an image's are given once the arena has grown, and reported when no page can be had (R43, R316, R339). -/
theorem witness_answers_sound : let store := [(0x100000, 0x22 * 2 ^ 11 + 1), (0x222000, 0x23 * 2 ^ 11 + 1), (0x230000, BitVec.ofNat 64 (2 ^ 46 + 0x7FFFFF40 * 2 ^ 11 + 0x20F))]
    let s := pendingPage .device (some store)
    let lent := { s with store := [(0, .page 1 0x80000000)] }
    let spill (maps : Option (List (Nat × Word))) : State := after (exec .pageResolve (pendingPage (.spill 0x80000000) maps))
    let image := after (exec .pageResolve (pendingPage (.image 0x80000000) (some mapping)))
    nextIs (exec .pageResolve s) s = true ∧ (after (exec .pageResolve lent)).pages = [] ∧
    (spill (some mapping)).pages = [] ∧ (ctx1 (spill (some mapping))).arenaPages = 32753 ∧
    (spill none).mem.readNat 0x20000 8 = 1 ∧ (ctx1 image).arenaPages = 32753 ∧
    ({ base with held := [(0x4000, { base.act with pinned := [7] })] } : State).pins = [(1, 7)] := by decide +kernel

/-- FirmwareInstructions: CTXS waits while a KVA of the slot copies, and FRM is loaded without its reserved bits and without a mode
that none writes (R6, R105, R324). -/
theorem witness_ctxs_copy : let k : KvCopy := ⟨⟨.si 3, 0⟩, 1, 9, 0x4000, 0, 2, 0x4080, 0x5000, 0, 1, false⟩
    let p := { privileged_ (withX [(1, 0x4000), (2, 3)]) with
      parked := [(⟨.si 3, 0⟩, base.act)], copies := [k], ctxs := [(1, { ctx1 base with kv := ⟨0x90000000, 4, 2, 0, 8⟩ })] }
    nextIs (exec (.ctxs 1 2) p) p = true ∧
    frmLoad 2 0xFFFFFFFFFFFFFFFC = 0x1F04 ∧ frmLoad 2 0xFFFFFFFFFFFFFFFF = 0x1F02 := by decide +kernel

/-! ## Releases, poison, and what waits -/

/-- StepRunsDecoded: an ENDJ at the program counter is a release, so the core's partial meets memory before it; an ADDI is none.
Firmware past 2^20 instructions goes on, a task does not (R53, R134, R136). -/
theorem witness_release_step : let loc : Loc := .mem 0x1000 1 false none none none
    let s (i : Instr) : State := (State.reset.withFetchWord 32 ((encode i).getD 0)).reduce .fadd 4 0x33800000 loc
    let old : State := { s (.addi 1 0 7) with act := { (s (.addi 1 0 7)).act with retired := 2 ^ 20 } }
    (s (.endj 1)).gathers.length = 1 ∧ (after (step (s (.endj 1)))).gathers = [] ∧
    (after (step (s (.addi 1 0 7)))).gathers.length = 1 ∧ (after (step old)).active = false ∧
    (after (step (privileged_ old))).x 1 = 7 := by decide +kernel

/-- LoadsDeliver: of two lines that a pair touches the lowest poisoned byte is named, by its address (R145, R320). -/
theorem witness_lowest_poison : let s (l : Nat) : State :=
      { (withX [(1, 0x1038)]).modCtx 1 fun c => { c with flt := 1 } with poison := [l] }
    let names (l a : Nat) : Bool := nextIs (exec (.ldq 4 1 0) (s l)) ((s l).takeFault 4 codePois a true 0)
    names 0x40 0x1038 = true ∧ names 0x41 0x1040 = true := by decide +kernel

/-- AtomicsComplete: an atomic on a page that is not mapped, and on the address of a window that is not there (R157, R167). -/
theorem witness_atomic_fails : let s := withX [(1, 0x90000000), (2, BitVec.ofNat 64 (local0 + 0x18000))]
    ∀ i ∈ [Instr.amoAdd 5 1 3 false false false, .redAdd 1 3 false false false, .cas2 6 1 8 false false],
      nextIs (exec i s) (s.takeFault 4 codePage 0x90000000 false 0) = true := by decide +kernel

/-- CacheMaintenance: a range that runs from the heap of host memory into the windows: its lowest failing byte is the first of
the windows, or the first that is not mapped (R157, R163). -/
theorem witness_maintained_edge : let s := (withX [(1, 0xFFFDFFFFFFC0), (2, 128), (3, 0x7FFFFFC0)]).modCtx 1 fun c => { c with
      hlim := 0xFFFE00000000, hoff := 0x800000000000 - 0xFFFDFFFF0000 }
    let far := (withX [(1, 0xFFFDFFFFFFC0), (2, 128)])
    let near := withX [(1, BitVec.ofNat 64 local0), (2, 64)]
    nextIs (exec (.cfl 1 2) s) (s.takeFault 4 codeProt 0xFFFE00000000 false 0) = true ∧
    nextIs (exec (.cinv 1 2) s) (s.takeFault 4 codeProt 0xFFFE00000000 false 0) = true ∧
    nextIs (exec (.cfl 1 2) far) (far.takeFault 4 codePage 0xFFFDFFFFFFC0 false 0) = true ∧
    nextIs (exec (.cfl 1 2) near) (near.takeFault 4 codeProt local0 false 0) = true := by decide +kernel

/-- CacheMaintenance: a flush carries a line's poison to the backing store, an invalidation carries the store's back (R145, R163). -/
theorem witness_maintained_poison : let s := { withX [(1, 0x1000), (2, 64)] with poison := [0x40], back := base.mem, backPoison := [0x41] }
    let t := after (exec (.cfl 1 2) s)
    let u := after (exec (.cinv 1 2) s)
    t.backPoison = [0x41, 0x40] ∧ t.poison = [0x40] ∧ u.poison = [] ∧ u.backPoison = [0x41] := by decide +kernel

/-- CircularBuffers: descriptors that are misaligned, outside a window, in a mapped range, poisoned, and good in both windows (R164). -/
theorem witness_descriptor : let s := ringAt 0 3 0
    let m := s.modCore 1 0 fun k => { k with maps := [⟨0x100, 1, 0x1000⟩] }
    let p := { s with stashPoison := [stashKey 1 0 0x100 / 64] }
    let opens (s : State) (va : Nat) : Except Trap (Nat × Nat × Nat) := match cbOpen (.core 1 0) va s with
      | .ok ((o, f, c), _) => .ok (o, f, c.put)
      | .error e => .error e
    let fails (s : State) (va code : Nat) (pois : Bool) : Bool := decide (opens s va = .error (.fault code va pois 0))
    decide (opens s (local0 + 0x100) = .ok (0, 0x100, 3)) = true ∧ decide (opens s 0xFFFE00000100 = .ok (0, 0x100, 3)) = true ∧
    fails s (local0 + 0x104) codeAlign false = true ∧ fails s 0x1000 codeProt false = true ∧
    fails s (local0 + 0x18000) codeProt false = true ∧ fails s (local0 + 0x120) codeProt false = true ∧
    fails m (local0 + 0x104) codeProt false = true ∧ fails p (local0 + 0x100) codePois true = true := by decide +kernel

/-- TensorTable: a descriptor, one with a ring longer than its rows, coordinates round a ring, outside, and an address below zero;
an element read (R229, R230). -/
theorem witness_tensor : let good : Tensor := [0x9000, 32 * 2 ^ 32 + 4, 64, 3 * 2 ^ 32 + 0x7F04, 0, 0, 0, 0]
    let bad : Tensor := [0x9000, 32 * 2 ^ 32 + 4, 64, 5 * 2 ^ 32 + 0x7F04, 0, 0, 0, 0]
    let ring : TDesc := ⟨0x9000, 4, 32, 64, 3, 0, 0x7F, .elem .bf16⟩
    let down : TDesc := { ring with base := 0x40, stride := -64, rlen := 0 }
    let s := { engined with mem := engined.mem.writeNat 0x9042 2 0x4000 }
    (match parseTensor good with
      | some d => decide (d = ring)
      | none => false) = true ∧ (parseTensor bad).isNone = true ∧
    ring.coords 4 1 = some (1, 1) ∧ ring.coords 4 32 = none ∧ ring.addr 1 1 = 0x9042 ∧ down.addr 1 0 = 0 ∧
    decide (2 ^ 48 ≤ down.addr 2 0) = true ∧ ({ ring with stride := 2 ^ 46 } : TDesc).addr (2 ^ 18) 0 = 0x9000 + 2 ^ 64 ∧
    (parseTensor [0xFFFF80000000, 32 * 2 ^ 32 + 1, 64, 0x7F04, 0, 0, 0, 0]).isSome = true ∧
    (match (readElem (.core 1 0) ring 4 1).run ⟨s, 0, false, [], []⟩ with
      | (.ok e, _) => decide (e.raw = 0x4000)
      | _ => false) = true := by decide +kernel

/-- EngineIssue: a copy into a ring whose descriptor is misaligned, outside a window or no ring at all raises that (R64, R164, R240). -/
theorem witness_issue_ring : let s := { engined with mem := engined.mem.writeBytes 0x3000 (words64 [0, 0x6000, 2 ^ 32 + 16, 0]) }
    let fails (va : Word) (code : Nat) : Bool :=
      nextIs (exec (.cpy 9 1 5 0) (s.setX 5 va)) ((s.setX 5 va).takeFault 4 code va.toNat false 0)
    fails (BitVec.ofNat 64 (local0 + 0x104)) codeAlign = true ∧ fails 0x5000 codeProt = true ∧
    fails (BitVec.ofNat 64 (local0 + 0x100)) codeProt = true := by decide +kernel

/-- EngineJobs: a fill whose descriptor became poisoned ends as POISON (R145, R228). -/
theorem witness_fill_poison : let s := { inStash engined 0x100 (words64 [0x24000000] ++ List.replicate 24 0) with
      mem := engined.mem.writeBytes 0x3000 (words64 [0, 0x6000, 2 ^ 32 + 16, 0]) }
    let e := unmeasured (after (exec (.cpy 9 1 5 3) (s.setX 5 (BitVec.ofNat 64 (local0 + 0x100)))))
    let t := onQueue copyQ .cbFill { e with stashPoison := [stashKey 1 0 0x100 / 64] }
    (e.queueOf copyQ).length = 1 ∧ t.queueOf copyQ = [] ∧ job0 t = 2 := by decide +kernel

/-- Nodes: PUSHP with a port word whose unused bits are set, another node that is not live, and one whose back word names
another (R64, R266). -/
theorem witness_push_order : let s (back : Nat) (h : Nat) : State :=
      { netted with mem := (netted.mem.writeBytes 0x41000 (words64 [hdr 0x100 1, portOf 0x41040 0])).writeBytes 0x41040 (words64 [h, back]) }
    let live := s (portOf 0x41000 0) (hdr 0x101 0)
    let fails (s : State) (b : Reg) (code a : Nat) : Bool := nextIs (exec (.pushp 1 b) s) (s.takeFault 4 code a false 0)
    bag0 (after (exec (.pushp 1 3) live)) = [(0x41000, .inl 0x41040)] ∧
    fails (live.setX 3 (BitVec.ofNat 64 (portOf 0x41044 0))) 3 codeAlign 0x41044 = true ∧
    fails (live.setX 3 (BitVec.ofNat 64 (portOf 0x41040 1))) 3 codeProt 0x41040 = true ∧
    fails (s (portOf 0x41000 0) 0) 3 codeProt 0x41040 = true ∧ fails (s (portOf 0x41080 0) (hdr 0x101 0)) 3 codeProt 0x41040 = true ∧
    fails (live.setX 3 (BitVec.ofNat 64 (portOf 0x41080 0))) 3 codeProt 0x41080 = true := by decide +kernel

/-- GraphEvents: a released node on a poisoned line counts the poison and stays; a template that cannot be read posts a record and
its pair is gone; a context that is not resident keeps its pairs and its work list (R145, R261, R323). -/
theorem witness_graph_stays : let s := at1 0 netted
    let pr : Production := ⟨0x100, 0x101, true, 7, 0x90000000⟩
    let r := { s with poison := [0x41000 / 64], ctxs := [(1, { ctx1 s with released := [⟨0x41000, false, 0⟩] })] }
    let n := after (exec .nrelReturn r)
    let t := { s with
      mem := s.mem.writeBytes 0x8000 (words64 [0, 0]), pages := [⟨1, 0x9000, .noMap, 0, false⟩]
      ctxs := [(1, { ctx1 s with faultRing := 0x8000, faultLcap := 4, bags := [(0, ⟨[⟨0x41000, .inl 0x41040, pr, false⟩], []⟩)] })] }
    let away := t.modCtx 1 fun c => { c with resident := false, cores := [(0, { LCore.init with launched := true, rsz := 0x108, work := [(1, 0), (2, 0), (3, 0)] })] }
    let u := after (exec .templateInstantiate t)
    (ctx1 n).released = [⟨0x41000, false, 0⟩] ∧ (n.lcore 1 0).errs ≠ 0 ∧
    ((ctx1 u).bag 0).templates = [] ∧ u.mem.readNat 0x8000 8 = 1 ∧
    (∀ i ∈ [Instr.templateInstantiate, .workListLevelling, .bagLevelling], nextIs (exec i away) away = true) := by decide +kernel

/-- KvInstructions: a pool page that is not mapped is asked for in the slot's name; firmware's answer that there is none ends the
KVA with reason 3 and a record (R282, R316, R318). -/
theorem witness_kv_page : let s := { pooled with mem := pooled.mem.writeBytes 0x8000 (words64 [0, 0]) }
    let s := (s.modCtx 1 fun c => { c with kv := { c.kv with pbase := 0x90000000 }, faultRing := 0x8000, faultLcap := 4 }).setX 7 0x5000
    let t := after (exec (.kva 9 4 7) s)
    let u := after (exec (.kva 9 4 7) { s with pages := [⟨1, 0x9002, .noMap, 0, false⟩] })
    t.pages = [⟨1, 0x90020000, .slot ⟨.si 0, 0⟩, 0, false⟩] ∧ t.act.pc = s.act.pc ∧
    u.x 9 = 2 ^ 63 + 3 ∧ u.pages = [] ∧ u.mem.readNat 0x8000 8 = 1 := by decide +kernel

/-- PowerAndMemoryEvents: a page found for a KVA stays with its slot's task while it runs, and with its frame (R318). -/
theorem witness_pin_slot : let s := pendingPage (.slot base.cur) (some mapping)
    let t := after (exec .pageResolve s)
    let n := after (exec .pageResolve (pendingPage (.slot base.cur) none))
    t.act.pinned = [0x8000] ∧ t.pages = [] ∧ (1, 0x8000) ∈ t.pins ∧ n.pages = [⟨1, 0x8000, .noMap, 0, false⟩] ∧
    (base.pinSlot 2 base.cur 7).act.pinned = [] := by decide +kernel

/-- SchedulingEvents: a transition changes the record's state alone: reserved bits that a program set stay, and raise PROT at the
next operation on it (R38, R379). -/
theorem witness_transition_bits : let w := bytesToNat (rec1 2 1).bytes + 2 ^ 124
    let s := { withX [(1, 0x2000), (2, 1)] with
      mem := base.mem.writeNat 0x2000 32 w, trans := [⟨1, 0, 0x2000, 5⟩] }
    let t := after (exec .recordTransition { s with arg := {} })
    let v := t.mem.readNat 0x2000 32
    bits v 231 228 = 5 ∧ v % 2 ^ 228 = w % 2 ^ 228 ∧ v / 2 ^ 232 = w / 2 ^ 232 ∧ t.trans = [] ∧
    nextIs (exec (.jdec 1 2) t) (t.takeFault 4 codeProt 0x2000 false 0) = true := by decide +kernel

/-- StashMaps and FrontEndEvents: the front end reads the header and the head command of a bound queue and what a context's descriptor
holds; once it has read a line, no byte of it falls back (R119, R162). -/
theorem witness_front_reads : let d : DirtyLine := ⟨1, 0, 64, 0x7000, List.replicate 64 (some 7)⟩
    let s := { hosted with dirtyMaps := [d, { d with pa := 0x1000 }] }
    hosted.frontReads 0x7000 = true ∧ hosted.frontReads 0x8000 = true ∧ hosted.frontReads 0xA000 = true ∧ hosted.frontReads 0x1000 = false ∧
    s.frontSeen.dirtyMaps.map (fun d => (d.pa, d.fall.head?)) = [(0x7000, some none), (0x1000, some (some 7))] := by decide +kernel

/-- FrontEndEvents: what the front end reads of a poisoned line; a count of a lost status word made after it was held (R142, R145). -/
theorem witness_front_words : let p := { hosted with poison := [0x7000 / 64] }
    let done := match releaseHeld [.count 0x701C] hosted with
      | .ok (_, t) => t.mem.readNat 0x701C 4
      | .error _ => 0
    p.physNat 0x7000 8 = 2 ^ 64 - 1 ∧ hosted.physNat 0x7000 8 = 0x8004 ∧ done = 1 := by decide +kernel

/-- FrontEndEvents: a header, and a context's descriptor, in a DRAM in SREF; a queue that waits to be mapped, and a FEED with room
(R332, R340, R365). -/
theorem witness_front_sleeps : let s := { cmd [2, 0xC000, 0, 0, 0, 0, 0, 0x9000] with dramSref := true, mapWait := [.user 7] }
    s.mapPlaces (.user 7) = [0x7000] ∧ s.freeQueueSlot = some 0 ∧ (s.startedOf (.user 7) 0).isSome = true ∧ (s.live? 1).isSome = true ∧
    (s.feed (ctx1 s) 0).lcap = 4 ∧ (s.feed (ctx1 s) 0).room = 16 ∧ (ctx1 s).desc = 0xA000 ∧
    ∀ pa ∈ [0x7000, 0x701C, 0xA000], s.asleep pa = true := by
  refine ⟨by decide +kernel, by decide +kernel, by decide +kernel, by decide +kernel, by decide +kernel, by decide +kernel,
    by decide +kernel, fun pa h => ?_⟩
  have : pa < 2 ^ 35 := by
    simp only [List.mem_cons, List.not_mem_nil, or_false] at h
    omega
  have : pa < Config.dramBytes := Nat.lt_of_lt_of_le this (Nat.le_mul_of_pos_right _ (by omega))
  simpa [State.asleep, isDram] using this

/-- ManagementEvents: a reset discards dirty lines with their poison, and keeps the integrals of a package that stays powered
(R355, R372). -/
theorem witness_wiped : let s := { base with poison := [1, 2], backPoison := [2, 3], back := base.mem.writeNat 0x1000 1 5
                                             power := { base.power with powered := 9, reliability := [(3, 4)] } }
    let t := s.wiped
    t.poison = [2, 3] ∧ t.backPoison = [2, 3] ∧ t.mem.readNat 0x1000 1 = 5 ∧ t.power.powered = 9 ∧ t.power.reliability = [(3, 4)] := by
  decide +kernel

/-- PowerAndMemoryEvents: an error that an access finds is not counted at its line's eviction; a frame copied takes its lines' poison
to its new place's backing store, and what a drop could undo there is settled (R145, R162, R315). -/
theorem witness_found : let s (k : Nat) : State := { base with arg := { i := 0x1000, k := k, flag := true, word := 1 } }
    let t (k : Nat) : State := after (exec .lineEvictionWriteback (s k))
    let d : DirtyLine := ⟨1, 0, 64, 0x1000, List.replicate 64 (some 7)⟩
    let c := ({ base with poison := [0x40], backPoison := [0x81], dirtyMaps := [d] } : State).copyFrame none 0x1000 0x2000 128
    (t 2).poison = [0x40] ∧ (t 2).backPoison = [0x40] ∧ (ctx1 (t 2)).cores = (ctx1 base).cores ∧
    c.poison.contains 0x80 = true ∧ c.backPoison = [0x80] ∧ c.dirtyMaps = [] ∧
    (base.reachBack 0x1000 64).backPoison = [] ∧ ({ base with backPoison := [0x40] }.fallBack 0x1000 64).poison = [0x40] := by decide +kernel

/-- WakesAndDomains: the DRAM's exit makes the held count and maps the queue that waited (R332, R340). -/
theorem witness_exit_held : let s := { hosted with
      active := false, act := Task.blank, dramSref := true, causes := [⟨.dram, 0, 0, 0⟩], heldHost := [.count 0x701C], mapWait := [.user 7]
      arg := {} }
    let t := after (exec .dramSrefExit s)
    t.dramSref = false ∧ t.heldHost = [] ∧ t.mem.readNat 0x701C 4 = 1 ∧ t.mapWait = [] ∧ t.slots = [(0, .user 7)] := by decide +kernel

/-- VectorFloatForms: exact and limiting operands of the bounded functions, 2^3 and log2 8, and the order of two patterns (R109, R208). -/
theorem witness_special : specialF .exp2 .f32 0x40400000 = ⟨0x41000000, 0⟩ ∧ specialF .log2 .f32 0x41000000 = ⟨0x40400000, 0⟩ ∧
    specialF .rsq .f32 0x80000000 = ⟨0xFF800000, 8⟩ ∧ specialF .exp2 .f32 0x46000000 = ⟨0x7F800000, 5⟩ ∧
    specialF .tanh .f32 0xFF800000 = ⟨0xBF800000, 0⟩ ∧ specialF .sin .f32 0x7F800000 = ⟨0x7FC00000, 16⟩ ∧
    exactBits .f32 (selectF true (decodeF .f32 0x80000000) (decodeF .f32 0)) = ⟨0, 0⟩ ∧
    exactBits .f32 (selectF false (decodeF .f32 0x7FA00000) (decodeF .f32 0x3F800000)) = ⟨0x3F800000, 16⟩ := by decide +kernel

end Sys2Proof.Tests
end

section
/-! PROOFS. Division (R149): what the quotient and the remainder of the model are as words. -/

namespace Sys2Proof.Machine

/-- `sdiv` rounds the quotient of the numbers toward zero, modulo 2^64: so the most negative number by -1 wraps. -/
theorem sdiv_eq_ofInt_tdiv (x y : Word) : x.sdiv y = BitVec.ofInt 64 (x.toInt.tdiv y.toInt) :=
  BitVec.eq_of_toInt_eq (by rw [BitVec.toInt_sdiv, BitVec.toInt_ofInt])

/-- Signed, the dividend is remainder plus quotient times divisor, where that product may wrap too. -/
theorem srem_add_sdiv_mul (x y : Word) : x.srem y + x.sdiv y * y = x := by
  have hrem : x.srem y = BitVec.ofInt 64 (x.toInt.tmod y.toInt) := by
    rw [← BitVec.toInt_srem, BitVec.ofInt_toInt]
  calc x.srem y + x.sdiv y * y
      = BitVec.ofInt 64 (x.toInt.tmod y.toInt + x.toInt.tdiv y.toInt * y.toInt) := by
        rw [hrem, sdiv_eq_ofInt_tdiv, BitVec.ofInt_add, BitVec.ofInt_mul, BitVec.ofInt_toInt]
    _ = x := by rw [Int.tmod_add_tdiv_mul, BitVec.ofInt_toInt]

/-- Unsigned, the dividend is remainder plus quotient times divisor. -/
theorem umod_add_udiv_mul (x y : Word) : x % y + x / y * y = x := by
  apply BitVec.eq_of_toNat_eq
  rw [BitVec.toNat_add, BitVec.toNat_mul, BitVec.toNat_umod, BitVec.toNat_udiv, Nat.add_mod_mod, Nat.mod_add_div',
    Nat.mod_eq_of_lt x.isLt]

theorem divQuot_signed (x y : Word) : divQuot true x y = if y = 0 then BitVec.allOnes 64 else x.sdiv y := by
  rw [sdiv_eq_ofInt_tdiv]
  rfl

theorem divQuot_unsigned (x y : Word) : divQuot false x y = if y = 0 then BitVec.allOnes 64 else x / y := rfl

theorem divRem_signed (x y : Word) : divRem true x y = if y = 0 then x else x.srem y := by
  unfold divRem
  split
  · rfl
  · rw [divQuot_signed, if_neg ‹_›]
    exact BitVec.sub_eq_iff_eq_add.2 (srem_add_sdiv_mul x y).symm

theorem divRem_unsigned (x y : Word) : divRem false x y = if y = 0 then x else x % y := by
  unfold divRem
  split
  · rfl
  · rw [divQuot_unsigned, if_neg ‹_›]
    exact BitVec.sub_eq_iff_eq_add.2 (umod_add_udiv_mul x y).symm

/-- A form of two registers completes with the value of its function, and has no other effect (R147). -/
theorem alu_eq {f : Word → Word → Word} {s : State} {a b : Reg} {v : Word} (d : Reg) (h : f (s.x a) (s.x b) = v) :
    alu d a b f s = .next ((s.setX d v).advance 4) :=
  h ▸ rfl

/-- Settles O17: each form is a form of two registers, and its function is the quotient or the remainder. -/
theorem division : Obligations.Division := by
  intro d a b s x y
  exact ⟨alu_eq d (divQuot_signed x y), alu_eq d (divRem_signed x y), alu_eq d (divQuot_unsigned x y),
    alu_eq d (divRem_unsigned x y)⟩

end Sys2Proof.Machine
end

section
/-! PROOFS. Jumps and branches (R62, R153 to R156): jumps to a register, the comparisons that branches make, and the lanes that a
branch on predicates tests. -/

namespace Sys2Proof.Machine

/-! ## Jumps -/

/-- A jump to an even register target links and transfers. -/
theorem jumpReg_even {s : State} {a : Reg} {imm : BitVec 15} (d : Reg)
    (h : (s.x a + imm15 imm).getLsbD 0 = false) :
    jumpReg d a imm s = .ok ((), (s.setX d (s.act.pc + 4)).jumpTo (s.x a + imm15 imm)) := by
  rw [jumpReg, op_bind_ok (op_get s)]
  simp only [h, Bool.false_eq_true, if_false]
  rfl

/-- A jump to an odd register target raises ALIGN there (R62). -/
theorem jumpReg_odd {s : State} {a : Reg} {imm : BitVec 15} (d : Reg)
    (h : (s.x a + imm15 imm).getLsbD 0 = true) :
    jumpReg d a imm s = .error (.fault codeAlign (s.x a + imm15 imm).toNat false 0) := by
  rw [jumpReg, op_bind_ok (op_get s)]
  simp only [h, if_true]
  rfl

/-! ## Conditions of branches (R154) -/

theorem bne_eq_decide (x y : Word) : (x != y) = decide (x ≠ y) := by
  rw [bne, beq_eq_decide, decide_not]

theorem not_slt_eq_decide (x y : Word) : (!x.slt y) = decide (y.toInt ≤ x.toInt) := by
  rw [BitVec.slt_eq_decide, ← decide_not, decide_eq_decide, Int.not_lt]

theorem not_ult_eq_decide (x y : Word) : (!x.ult y) = decide (y.toNat ≤ x.toNat) := by
  rw [BitVec.ult_eq_decide, ← decide_not, decide_eq_decide, Nat.not_lt]

/-! ## Lanes of predicates (R156) -/

/-- The bits of a number are those of the library. -/
theorem bitOf_eq_testBit (v k : Nat) : bitOf v k = v.testBit k := by
  rw [Nat.testBit_eq_decide_div_mod_eq]
  rfl

/-- A predicate holds one bit for each byte lane (R198). -/
theorem State.preg_lt (s : State) (p : PReg) : s.preg p < 2 ^ (s.vw / 8) := by
  have := Nat.two_pow_pos (s.vw / 8)
  unfold State.preg
  split
  · omega
  · exact Nat.mod_lt _ this

/-- The bits of a number below 2^n lie below n. -/
theorem lt_of_bitOf {n g k : Nat} (hg : g < 2 ^ n) (hk : bitOf g k = true) : k < n := by
  rw [bitOf_eq_testBit] at hk
  exact (Nat.pow_lt_pow_iff_right Nat.one_lt_two).1 ((Nat.ge_two_pow_of_testBit hk).trans_lt hg)

/-- The part of g in p is g exactly when every bit of g is one of p. -/
theorem and_eq_left_iff_bits {n g p : Nat} (hg : g < 2 ^ n) :
    g &&& p = g ↔ ∀ k < n, bitOf g k = true → bitOf p k = true :=
  calc g &&& p = g
      ↔ ∀ k, bitOf g k = true → bitOf p k = true := by simp [Nat.eq_iff_testBit_eq, bitOf_eq_testBit]
    _ ↔ ∀ k < n, bitOf g k = true → bitOf p k = true :=
        ⟨fun h k _ => h k, fun h k hk => h k (lt_of_bitOf hg hk) hk⟩

/-- Nothing of g is in p exactly when no bit of g is one of p. -/
theorem and_eq_zero_iff_bits {n g p : Nat} (hg : g < 2 ^ n) :
    g &&& p = 0 ↔ ∀ k < n, bitOf g k = true → bitOf p k = false :=
  calc g &&& p = 0
      ↔ ∀ k, bitOf g k = true → bitOf p k = false := by simp [Nat.eq_iff_testBit_eq, bitOf_eq_testBit]
    _ ↔ ∀ k < n, bitOf g k = true → bitOf p k = false :=
        ⟨fun h k _ => h k, fun h k hk => h k (lt_of_bitOf hg hk) hk⟩

/-- BPA's comparison says that every active lane is 1 (R156). -/
theorem all_lanes_eq_decide (s : State) (g p : PReg) : (s.preg g &&& s.preg p == s.preg g) =
    decide (∀ k < s.vw / 8, bitOf (s.preg g) k = true → bitOf (s.preg p) k = true) :=
  decide_eq_decide.2 (and_eq_left_iff_bits (s.preg_lt g))

/-- BPN's comparison says that every active lane is 0 (R156). -/
theorem no_lane_eq_decide (s : State) (g p : PReg) : (s.preg g &&& s.preg p == 0) =
    decide (∀ k < s.vw / 8, bitOf (s.preg g) k = true → bitOf (s.preg p) k = false) :=
  decide_eq_decide.2 (and_eq_zero_iff_bits (s.preg_lt g))

/-! ## The statement -/

/-- DBNZ tests the decremented value, which x0 does not keep (R155). -/
theorem execDbnz_eq (a : Reg) (off : BitVec 15) (s : State) :
    execDbnz a off s = .next (if s.x a - 1 ≠ 0 then (s.setX a (s.x a - 1)).jumpTo (s.act.pc + off15 off)
      else (s.setX a (s.x a - 1)).advance 4) := by
  rw [execDbnz, State.setX_act_pc]

/-- Settles O19: each jump is a transfer of control after its link, and each branch is `branch` of the comparison that the model
makes, which is the condition stated. -/
theorem jumpsAndBranches : Obligations.JumpsAndBranches := by
  intro d a b g p imm off far s x y goes taken branch
  refine ⟨rfl, rfl, fun heven => ⟨?jalr, ?jr⟩, fun hodd => ⟨?jalrOdd, ?jrOdd⟩, ?beq, ?bne, ?blt, ?bge, ?blo, ?bhs, ?dbnz,
    ?bpa, ?bpn⟩
  case jalr => exact perform_ok (jumpReg_even d heven)
  case jr => exact perform_ok (jumpReg_even 0 heven)
  case jalrOdd => exact perform_error (jumpReg_odd d hodd)
  case jrOdd => exact perform_error (jumpReg_odd 0 hodd)
  case beq => exact congrArg branch (beq_eq_decide x y)
  case bne => exact congrArg branch (bne_eq_decide x y)
  case blt => exact congrArg branch BitVec.slt_eq_decide
  case bge => exact congrArg branch (not_slt_eq_decide x y)
  case blo => exact congrArg branch BitVec.ult_eq_decide
  case bhs => exact congrArg branch (not_ult_eq_decide x y)
  case dbnz => exact execDbnz_eq a off s
  case bpa => exact congrArg branch (all_lanes_eq_decide s g p)
  case bpn => exact congrArg branch (no_lane_eq_decide s g p)

end Sys2Proof.Machine
end

section
/-! PROOFS. Elements of a register (R198, R199): what a packed register reads, what a vector or a predicate register reads after a
write, and what writing the active elements leaves. -/

namespace Sys2Proof.Machine

/-! ## Packed elements -/

theorem testBit_elemAt (r w e k : Nat) : (elemAt r w e).testBit k = (decide (k < w) && r.testBit (w * e + k)) := by
  rw [elemAt, Nat.testBit_mod_two_pow, Nat.testBit_div_two_pow, Nat.add_comm]

@[simp] theorem elemAt_mod_two_pow (r w e : Nat) : elemAt r w e % 2 ^ w = elemAt r w e := Nat.mod_mod _ _

/-- An element below n bits is that of the lowest n bits. -/
theorem elemAt_of_mod_two_pow {w e n : Nat} (r : Nat) (h : w * (e + 1) ≤ n) : elemAt (r % 2 ^ n) w e = elemAt r w e := by
  refine Nat.eq_of_testBit_eq fun k => ?_
  simp only [testBit_elemAt, Nat.testBit_mod_two_pow]
  by_cases hk : k < w
  · have : w * e + k < n := by rw [Nat.mul_succ] at h; omega
    simp [this]
  · simp [hk]

/-- An element of w bits is one of the chunk of c bits that it lies in. -/
theorem elemAt_elemAt {w c : Nat} (h : w ∣ c) (hc : 0 < c) (r e : Nat) :
    elemAt (elemAt r c (e * w / c)) w (e % (c / w)) = elemAt r w e := by
  obtain ⟨m, rfl⟩ := h
  have hw : 0 < w := Nat.pos_of_mul_pos_right hc
  have hm : 0 < m := Nat.pos_of_mul_pos_left hc
  rw [Nat.mul_div_cancel_left m hw, Nat.mul_comm e w, Nat.mul_div_mul_left e m hw]
  refine Nat.eq_of_testBit_eq fun k => ?_
  simp only [testBit_elemAt]
  by_cases hk : k < w
  · have hin : w * (e % m) + k < w * m :=
      calc w * (e % m) + k < w * (e % m + 1) := by rw [Nat.mul_succ]; omega
        _ ≤ w * m := Nat.mul_le_mul_left w (Nat.mod_lt e hm)
    have hat : w * m * (e / m) + (w * (e % m) + k) = w * e + k := by
      rw [← Nat.add_assoc, Nat.mul_assoc, ← Nat.mul_add, Nat.div_add_mod]
    simp [hk, hin, hat]
  · simp [hk]

theorem elemAt_packElems (w : Nat) (xs : List Nat) (e : Nat) : elemAt (packElems w xs) w e = (xs[e]?).getD 0 % 2 ^ w := by
  induction xs generalizing e with
  | nil => simp [packElems, elemAt]
  | cons x xs ih =>
    cases e with
    | zero => simp [packElems, elemAt]
    | succ e =>
      have hrest : (x % 2 ^ w + 2 ^ w * packElems w xs) / 2 ^ w = packElems w xs := by
        rw [Nat.add_mul_div_left _ _ (Nat.two_pow_pos w), Nat.div_eq_of_lt (Nat.mod_lt x (Nat.two_pow_pos w)), Nat.zero_add]
      rw [List.getElem?_cons_succ, ← ih e, packElems, elemAt, elemAt, Nat.mul_succ, Nat.add_comm (w * e), Nat.pow_add,
        ← Nat.div_div_eq_div_mul, hrest]

/-- Bit k of packed elements of b bits is bit k mod b of element k / b. -/
theorem bitOf_packElems {b : Nat} (hb : 0 < b) (xs : List Nat) (k : Nat) :
    bitOf (packElems b xs) k = bitOf ((xs[k / b]?).getD 0) (k % b) := by
  have hk : k % b < b := Nat.mod_lt k hb
  have h := testBit_elemAt (packElems b xs) b (k / b) (k % b)
  rw [elemAt_packElems, Nat.testBit_mod_two_pow, Nat.div_add_mod] at h
  simpa [bitOf_eq_testBit, hk] using h.symm

/-! ## Widths (R198) -/

theorem eight_dvd_elemWidth (t : ElemType) : 8 ∣ elemWidth t := by cases t <;> decide

theorem elemWidth_dvd_chunk (t : ElemType) : elemWidth t ∣ 128 := by cases t <;> decide

theorem elemWidth_pos (t : ElemType) : 0 < elemWidth t := by cases t <;> decide

theorem elemBytes_pos (t : ElemType) : 0 < elemWidth t / 8 := by cases t <;> decide

theorem State.vw_cases (s : State) : s.vw = 256 ∨ s.vw = 1024 := by
  unfold State.vw coreVw
  split
  · exact .inr rfl
  · exact .inl rfl
  · exact .inl rfl
  · exact .inr rfl

theorem State.vw_le (s : State) : s.vw ≤ 1024 := by
  obtain h | h := s.vw_cases <;> omega

theorem State.lanes_le (s : State) : s.vw / 8 ≤ 128 := by
  obtain h | h := s.vw_cases <;> omega

theorem State.chunk_dvd_vw (s : State) : 128 ∣ s.vw := by
  obtain h | h := s.vw_cases <;> omega

/-- An element of the register lies below VW. -/
theorem State.elem_end_le_vw (s : State) {w e : Nat} (he : e < s.elems w) : w * (e + 1) ≤ s.vw :=
  (Nat.mul_le_mul_left w he).trans (Nat.mul_div_le s.vw w)

/-- A byte lane of the register belongs to one of its elements. -/
theorem State.lane_lt_elems (s : State) (t : ElemType) {k : Nat} (hk : k < s.vw / 8) :
    k / (elemWidth t / 8) < s.elems (elemWidth t) := by
  have hlanes : s.elems (elemWidth t) = s.vw / 8 / (elemWidth t / 8) := by
    rw [State.elems, Nat.div_div_eq_div_mul, Nat.mul_div_cancel' (eight_dvd_elemWidth t)]
  have hdvd : elemWidth t / 8 ∣ s.vw / 8 :=
    Nat.div_dvd_div (eight_dvd_elemWidth t) ((elemWidth_dvd_chunk t).trans s.chunk_dvd_vw)
  rw [hlanes]
  exact Nat.div_lt_div_of_lt_of_dvd hdvd hk

/-- The chunk of 128 bits that an element of the register lies in is one of the register's. -/
theorem State.chunk_lt (s : State) {w e : Nat} (hw : 0 < w) (he : e < s.elems w) : e * w / 128 < s.vw / 128 := by
  have hend : e * w + w ≤ s.vw := by simpa [Nat.mul_succ, Nat.mul_comm] using s.elem_end_le_vw he
  exact Nat.div_lt_div_of_lt_of_dvd s.chunk_dvd_vw (by omega)

/-! ## Vector registers after a write -/

/-- A word keeps a number of no more bits than its own. -/
theorem toNat_ofNat_mod {n m : Nat} (h : n ≤ m) (v : Nat) : (BitVec.ofNat m (v % 2 ^ n)).toNat = v % 2 ^ n := by
  rw [BitVec.toNat_ofNat, Nat.mod_eq_of_lt]
  exact (Nat.mod_lt v (Nat.two_pow_pos n)).trans_le (Nat.pow_le_pow_right Nat.two_pos h)

@[simp] theorem State.setV_vw (s : State) (r : Reg) (v : Nat) : (s.setV r v).vw = s.vw := rfl

theorem State.vreg_setV_same (s : State) (r : Reg) (v : Nat) : (s.setV r v).vreg r = v % 2 ^ s.vw := by
  rw [State.vreg, State.setV_vw]
  change (s.act.v.set r (BitVec.ofNat 1024 (v % 2 ^ s.vw)))[r].toNat % _ = _
  rw [Fin.getElem_fin, Vector.getElem_set_self, toNat_ofNat_mod s.vw_le, Nat.mod_mod]

theorem State.vreg_setV_other (s : State) {q r : Reg} (h : q ≠ r) (v : Nat) : (s.setV r v).vreg q = s.vreg q := by
  have hval : r.val ≠ q.val := fun e => h (Fin.ext e.symm)
  rw [State.vreg, State.setV_vw]
  simp [State.vreg, State.setV, hval]

@[simp] theorem State.elem_mod_two_pow (s : State) (t : ElemType) (r : Reg) (e : Nat) :
    s.elem t r e % 2 ^ elemWidth t = s.elem t r e := elemAt_mod_two_pow _ _ _

/-- A vector register written element by element reads them. -/
theorem State.elem_setV_packElems (s : State) (t : ElemType) (d : Reg) (f : Nat → Nat) {e : Nat} (he : e < s.elems (elemWidth t)) :
    (s.setV d (packElems (elemWidth t) ((List.range (s.elems (elemWidth t))).map f))).elem t d e = f e % 2 ^ elemWidth t := by
  rw [State.elem, State.vreg_setV_same, elemAt_of_mod_two_pow _ (s.elem_end_le_vw he), elemAt_packElems]
  simp [he]

/-! ## Writing the active elements (R199, R201) -/

/-- FRM takes the flags of the active elements. -/
theorem State.writeElems_act_frm (s : State) (d : Reg) (pg : PReg) (w : Nat) (g : Nat → Rounded) :
    (s.writeElems d pg w g).act.frm =
      frmRaise s.act.frm (activeFlags (s.preg pg) w (s.elems w) fun e => (g e).flags) := by
  refine congrArg (frmRaise s.act.frm) ?_
  rw [List.foldl_map, activeFlags]
  congr 1
  funext acc e
  split
  · rfl
  · exact Nat.or_zero acc

@[simp] theorem State.writeElems_act_pc (s : State) (d : Reg) (pg : PReg) (w : Nat) (g : Nat → Rounded) :
    (s.writeElems d pg w g).act.pc = s.act.pc := rfl

theorem State.elementsAre_writeElems (s : State) (t : ElemType) (d : Reg) (pg : PReg) (g : Nat → Rounded) :
    s.elementsAre (s.writeElems d pg (elemWidth t) g) t d pg fun e => (g e).bits % 2 ^ elemWidth t := by
  refine ⟨fun r hr => s.vreg_setV_other hr _, fun e he => ?_⟩
  rw [State.writeElems, List.map_map]
  refine (s.elem_setV_packElems t d _ he).trans ?_
  rw [Function.comp_apply]
  split
  · rfl
  · exact s.elem_mod_two_pow t d e

theorem activeFlags_zero (pg w n : Nat) : activeFlags pg w n (fun _ => 0) = 0 := by
  simp [activeFlags]

@[simp] theorem frmRaise_zero (frm : Word) : frmRaise frm 0 = frm := by simp [frmRaise]

/-- What elements become says of another state only what its registers and its core are. -/
theorem State.elementsAre_congr {s s' u : State} {t : ElemType} {d : Reg} {pg : PReg} {f g : Nat → Nat} (hact : s'.act = s.act)
    (hcur : s'.cur = s.cur) (hfg : ∀ e < s.elems (elemWidth t), f e = g e) (h : s'.elementsAre u t d pg f) :
    s.elementsAre u t d pg g := by
  have hvw : s'.vw = s.vw := by rw [State.vw, hcur, State.vw]
  have hv : s'.vreg = s.vreg := by funext r; rw [State.vreg, State.vreg, hvw, hact]
  have hp : s'.preg = s.preg := by funext p; rw [State.preg, State.preg, hvw, hact]
  obtain ⟨hother, helem⟩ := h
  refine ⟨fun r hr => (hother r hr).trans (congrFun hv r), fun e he => ?_⟩
  rw [helem e (by rwa [State.elems, hvw]), hp, State.elem, State.elem, hv, hfg e he]

theorem finish_congr {op op' : Op Unit} {s : State} (h : op s = op' s) : finish op s = finish op' s := by
  cases hop : op s with
  | ok p => rw [finish_ok hop, finish_ok (h ▸ hop)]
  | error e => rw [finish_error hop, finish_error (h ▸ hop)]

/-- An operation on patterns gives them to the active elements, and sets no flag (R201). -/
theorem vecInt_gives {i : Instr} {s : State} {t : ElemType} {d : Reg} {pg : PReg} {g : State → Nat → Nat}
    (h : exec i s = finish (vecInt t d pg g) s) : VectorGives i s t d pg fun e => g s e % 2 ^ elemWidth t := by
  refine ⟨_, h.trans (finish_ok (op_modify _ s)), rfl, ?_, rfl, ?_⟩
  · rw [State.advance_act_frm, State.writeElems_act_frm, activeFlags_zero, frmRaise_zero]
  · exact State.elementsAre_congr rfl rfl (fun e _ => Nat.mod_mod _ _) (s.elementsAre_writeElems t d pg _)

end Sys2Proof.Machine
end

section
/-! PROOFS. Predicate forms (R202 to R205): what a lane of each result is, and what writing a predicate leaves. -/

namespace Sys2Proof.Machine

/-! ## Lanes -/

theorem bitOf_and (x y k : Nat) : bitOf (x &&& y) k = (bitOf x k && bitOf y k) := by
  simp only [bitOf_eq_testBit, Nat.testBit_and]

theorem bitOf_or (x y k : Nat) : bitOf (x ||| y) k = (bitOf x k || bitOf y k) := by
  simp only [bitOf_eq_testBit, Nat.testBit_or]

theorem bitOf_xor (x y k : Nat) : bitOf (x ^^^ y) k = (bitOf x k != bitOf y k) := by
  simp only [bitOf_eq_testBit, Nat.testBit_xor]

theorem bitOf_xor_ones {n k : Nat} (hk : k < n) (x : Nat) : bitOf (x ^^^ (2 ^ n - 1)) k = !bitOf x k := by
  simp [bitOf_eq_testBit, Nat.testBit_two_pow_sub_one, hk]

theorem bitOf_two_pow (m k : Nat) : bitOf (2 ^ m) k = decide (m = k) := by
  rw [bitOf_eq_testBit, Nat.testBit_two_pow]

/-- The results of elements packed into a predicate, lane by lane (R199). -/
theorem State.bitOf_packPred (s : State) (t : ElemType) (pg : PReg) (f : Nat → Bool) {k : Nat} (hk : k < s.vw / 8) :
    bitOf (packPred (s.preg pg) (elemWidth t) (s.elems (elemWidth t)) f) k = s.laneWhere t pg f k := by
  have he := s.lane_lt_elems t hk
  rw [packPred, bitOf_packElems (elemBytes_pos t)]
  simp only [List.getElem?_map, List.getElem?_range he, Option.map_some, Option.getD_some, State.laneWhere]
  rw [Bool.and_assoc]
  cases activeAt (s.preg pg) (elemWidth t) (k / (elemWidth t / 8)) && f (k / (elemWidth t / 8)) with
  | true => simpa [eq_comm] using bitOf_two_pow 0 (k % (elemWidth t / 8))
  | false => simp [bitOf]

/-! ## Predicate registers after a write (R68) -/

@[simp] theorem State.setP_vw (s : State) (p : PReg) (v : Nat) : (s.setP p v).vw = s.vw := by
  rw [State.vw, State.setP_cur, State.vw]

theorem State.preg_setP_other (s : State) {q p : PReg} (h : q ≠ p) (v : Nat) : (s.setP p v).preg q = s.preg q := by
  have hval : p.val ≠ q.val := fun e => h (Fin.ext e.symm)
  rw [State.preg, State.setP_vw, State.preg]
  split
  · rfl
  · unfold State.setP
    split
    · rfl
    · simp [hval]

theorem State.preg_setP_same (s : State) {p : PReg} (hp : p ≠ 0) (v : Nat) : (s.setP p v).preg p = v % 2 ^ (s.vw / 8) := by
  rw [State.preg, if_neg hp, State.setP_vw, State.setP, if_neg hp]
  change (s.act.p.set p (BitVec.ofNat 128 (v % 2 ^ (s.vw / 8))))[p].toNat % _ = _
  rw [Fin.getElem_fin, Vector.getElem_set_self, toNat_ofNat_mod s.lanes_le, Nat.mod_mod]

theorem State.bitOf_preg_setP_same (s : State) {p : PReg} (hp : p ≠ 0) (v : Nat) {k : Nat} (hk : k < s.vw / 8) :
    bitOf ((s.setP p v).preg p) k = bitOf v k := by
  rw [s.preg_setP_same hp, bitOf_eq_testBit, bitOf_eq_testBit, Nat.testBit_mod_two_pow, decide_eq_true hk, Bool.true_and]

/-- An instruction whose whole effect is to write a predicate gives its lanes, and raises no flag. -/
theorem predicateGives_setP {i : Instr} {s : State} {pd : PReg} {v : Nat} {f : Nat → Bool}
    (h : exec i s = .next ((s.setP pd v).advance 4)) (hv : ∀ k < s.vw / 8, bitOf v k = f k) : PredicateGives i s pd 0 f := by
  refine ⟨_, h, ?pc, ?frm, ?rest, fun q hq => s.preg_setP_other hq v, fun hp k hk => ?lane⟩
  case pc => rw [State.advance_act_pc, State.setP_act_pc]; rfl
  case frm => rw [State.advance_act_frm, State.setP_act_frm, frmRaise_zero]
  case rest => unfold State.setP; split <;> rfl
  case lane => exact (s.bitOf_preg_setP_same hp v hk).trans (hv k hk)

/-! ## The first element that a test admits (R205) -/

theorem filter_range_eq_cons {p : Nat → Bool} {n e : Nat} {rest : List Nat} (h : (List.range n).filter p = e :: rest) :
    p e = true ∧ ∀ j < e, p j = false := by
  have hfind : (List.range n).find? p = some e := by rw [← List.head?_filter, h, List.head?_cons]
  obtain ⟨he, -, hbelow⟩ := List.find?_range_eq_some.1 hfind
  exact ⟨he, fun j hj => by simpa using hbelow j hj⟩

/-- Two elements that a test admits, and none below, are one. -/
theorem eq_of_first {p : Nat → Bool} {e j : Nat} (he : p e = true) (hbelow : ∀ k < e, p k = false) (hj : p j = true)
    (hbelow' : ∀ k < j, p k = false) : e = j := by
  obtain h | h | h := Nat.lt_trichotomy e j
  · simp [hbelow' e h] at he
  · exact h
  · simp [hbelow j h] at hj

/-- The lane that PFST sets is the lowest of the first element that the test admits. -/
theorem State.bitOf_lowest_lane (s : State) (t : ElemType) (pg : PReg) {hit : Nat → Bool} {e : Nat} (he : hit e = true)
    (hbelow : ∀ j < e, hit j = false) (hactive : ∀ j, hit j = true → activeAt (s.preg pg) (elemWidth t) j = true) (k : Nat) :
    bitOf (2 ^ (elemWidth t / 8 * e)) k = s.laneWhere t pg (fun j => hit j && decide (∀ i < j, hit i = false)) k := by
  have hb := elemBytes_pos t
  rw [bitOf_two_pow, Bool.eq_iff_iff, decide_eq_true_iff]
  simp only [State.laneWhere, Bool.and_eq_true, decide_eq_true_iff]
  constructor
  · rintro rfl
    rw [Nat.mul_mod_right, Nat.mul_div_cancel_left e hb]
    exact ⟨⟨rfl, hactive e he⟩, he, hbelow⟩
  · rintro ⟨⟨hlane, -⟩, hk, hkbelow⟩
    rw [eq_of_first he hbelow hk hkbelow, Nat.mul_div_cancel' (Nat.dvd_of_mod_eq_zero hlane)]

/-- PFST (R205). -/
theorem pfst_gives (pd pa pg : PReg) (t : ElemType) (s : State) :
    let hit (e : Nat) : Bool := activeAt (s.preg pg) (elemWidth t) e && activeAt (s.preg pa) (elemWidth t) e
    PredicateGives (.pfst pd pa pg t) s pd 0 (s.laneWhere t pg fun e => hit e && decide (∀ j < e, hit j = false)) := by
  intro hit
  refine predicateGives_setP rfl fun k hk => ?_
  split
  next h =>
    have hnone : hit (k / (elemWidth t / 8)) = false := by
      have := List.filter_eq_nil_iff.1 h _ (List.mem_range.2 (s.lane_lt_elems t hk))
      exact Bool.eq_false_of_not_eq_true this
    simp [State.laneWhere, hnone, bitOf]
  next e rest h =>
    obtain ⟨he, hbelow⟩ := filter_range_eq_cons h
    exact s.bitOf_lowest_lane t pg he hbelow (fun j hj => (Bool.and_eq_true_iff.1 hj).1) k

/-! ## The statement -/

/-- Settles O30: VWID and PCNT write a scalar register; every other form writes a predicate, whose lanes are read bit by bit. -/
theorem predicateForms : Obligations.PredicateForms := by
  intro d a b pd pa pb pg t s lane hit
  refine ⟨?vwid, ?plb, ?pand, ?por, ?pxor, ?pnot, ?pfst, ?pcnt⟩
  case vwid => rfl
  case plb => exact predicateGives_setP rfl fun k hk => s.bitOf_packPred t pg _ hk
  case pand => exact predicateGives_setP rfl fun k _ => by rw [bitOf_and, bitOf_and]
  case por => exact predicateGives_setP rfl fun k _ => by rw [bitOf_and, bitOf_or]
  case pxor => exact predicateGives_setP rfl fun k _ => by rw [bitOf_and, bitOf_xor]
  case pnot => exact predicateGives_setP rfl fun k hk => by rw [bitOf_and, bitOf_xor_ones hk]
  case pfst => exact pfst_gives pd pa pg t s
  case pcnt => rfl

end Sys2Proof.Machine
end

section
/-! PROOFS. The generators of R113 to R118, the element that a scalar register names (R216), and the random forms (R221, R222). -/

namespace Sys2Proof.Machine

/-- The bits of a word from one on. -/
theorem extractLsb'_eq_setWidth {n : Nat} (x : BitVec n) (lo len : Nat) : x.extractLsb' lo len = (x >>> lo).setWidth len :=
  BitVec.eq_of_toNat_eq (by simp)

/-! ## The generator of a core (R114 to R116) -/

/-- A word is zero when it is its own shift to the right by some bits. -/
theorem eq_zero_of_xor_ushiftRight {n k : Nat} (hk : 0 < k) {x : BitVec n} (h : x ^^^ (x >>> k) = 0) : x = 0 := by
  have hx : x.toNat = x.toNat / 2 ^ k := by
    conv_lhs => rw [BitVec.xor_eq_zero_iff.1 h, BitVec.toNat_ushiftRight, Nat.shiftRight_eq_div_pow]
  refine BitVec.eq_of_toNat_eq (Nat.eq_zero_of_not_pos fun hpos => ?_)
  have := Nat.div_lt_self hpos (Nat.one_lt_two_pow hk.ne')
  omega

/-- A word is zero when it is its own shift to the left by some bits. -/
theorem eq_zero_of_xor_shiftLeft {n k : Nat} (hk : 0 < k) {x : BitVec n} (h : x ^^^ (x <<< k) = 0) : x = 0 := by
  have hx : ∀ i, x.getLsbD i = false := by
    intro i
    induction i using Nat.strong_induction_on with
    | _ i ih =>
      rw [BitVec.xor_eq_zero_iff.1 h, BitVec.getLsbD_shiftLeft]
      by_cases hi : i < k
      · simp [hi]
      · simp [ih (i - k) (by omega)]
  exact BitVec.eq_of_getLsbD_eq fun i _ => (hx i).trans BitVec.getLsbD_zero.symm

/-- A step never meets the state zero. -/
theorem Gen.next_ne_zero {g : Gen} (hg : g ≠ ⟨0, 0⟩) : g.next ≠ ⟨0, 0⟩ := by
  intro h
  obtain ⟨hs1, hmix⟩ := Gen.mk.inj h
  rw [hs1] at hmix
  have hs0 : g.s0 = 0 :=
    eq_zero_of_xor_shiftLeft (k := 23) (by decide)
      (eq_zero_of_xor_ushiftRight (k := 17) (by decide) (by simpa using hmix))
  exact hg (congrArg₂ Gen.mk hs0 hs1)

theorem Gen.output_low (g : Gen) : g.output.setWidth 64 = g.s0 + g.s1 := by
  rw [Gen.output, BitVec.setWidth_append_eq_right]

theorem Gen.output_high (g : Gen) :
    (g.output >>> 64).setWidth 64 = (g.s0 ^^^ g.s1).rotateLeft 17 * 0xD1B54A32D192ED03 := by
  rw [← extractLsb'_eq_setWidth, Gen.output, BitVec.extractLsb'_append_eq_left]
  rfl

theorem srBits_of_getElem? {run : List (BitVec 128)} {e : Nat} {v : BitVec 128} (h : run[e / 8]? = some v) :
    srBits run e = ((v >>> (16 * (e % 8))).setWidth 16).toNat := by
  simp [srBits, h, Nat.shiftRight_eq_div_pow]

theorem Gen.jumps_succ (n : Nat) (g : Gen) : Gen.jumps (n + 1) g = (Gen.jumps n g).jump := by
  induction n generalizing g with
  | zero => rfl
  | succ n ih => exact ih g.jump

/-! ## The counter function (R118) -/

/-- One round, with the halves of its products as words (R118). -/
theorem Crng.round_eq (c : Crng) :
    let p : Word := c.c0.setWidth 64 * 0xCA5A8263
    let q : Word := c.c2.setWidth 64 * 0xE5F23B5D
    c.round = ⟨(q >>> 32).setWidth 32 ^^^ c.c1 ^^^ c.k0, q.setWidth 32, (p >>> 32).setWidth 32 ^^^ c.c3 ^^^ c.k1, p.setWidth 32,
      c.k0 + 0x9E3779B9, c.k1 + 0x7F4A7C15⟩ := by
  simp only [Crng.round, extractLsb'_eq_setWidth, BitVec.ushiftRight_zero]
  rfl

theorem Crng.rounds_succ (n : Nat) (c : Crng) : Crng.rounds (n + 1) c = Crng.rounds n c.round :=
  congrFun (show Crng.rounds (n + 1) = fun c => Crng.rounds n c.round from rfl) c

theorem crng_eq (key : Word) (ctr : BitVec 128) :
    let start : Crng := ⟨ctr.setWidth 32, (ctr >>> 32).setWidth 32, (ctr >>> 64).setWidth 32, (ctr >>> 96).setWidth 32,
      key.setWidth 32, (key >>> 32).setWidth 32⟩
    let c := Crng.rounds 10 start
    crng key ctr = c.c3 ++ c.c2 ++ c.c1 ++ c.c0 := by
  simp only [crng, extractLsb'_eq_setWidth, BitVec.ushiftRight_zero]

/-! ## One element named by a scalar register (R216) -/

theorem State.namesElem_iff (s : State) (t : ElemType) (pg : PReg) (i : Nat) :
    s.namesElem t pg i = true ↔ i < s.elems (elemWidth t) ∧ activeAt (s.preg pg) (elemWidth t) i = true := by
  rw [State.namesElem, Bool.and_eq_true, decide_eq_true_iff]

theorem vext_writes (d a b : Reg) (pg : PReg) (t : ElemType) (s : State) : Writes (.vext d a b pg t) s d
    (if s.namesElem t pg (s.x b).toNat then BitVec.ofNat 64 (s.elem t a (s.x b).toNat) else 0) := rfl

theorem vins_passes {d a b : Reg} {pg : PReg} {t : ElemType} {s : State} (h : ¬s.namesElem t pg (s.x b).toNat = true) :
    Passes (.vins d a b pg t) s :=
  congrArg (fun u : State => Host.Outcome.next (u.advance 4)) (if_neg h)

/-- A register with its element i replaced (R216). -/
def State.insertElem (s : State) (t : ElemType) (d : Reg) (i v : Nat) : State :=
  s.setV d (packElems (elemWidth t) ((List.range (s.elems (elemWidth t))).map fun e => if e = i then v else s.elem t d e))

theorem exec_vins_named {d a b : Reg} {pg : PReg} {t : ElemType} {s : State} (h : s.namesElem t pg (s.x b).toNat = true) :
    exec (.vins d a b pg t) s = .next ((s.insertElem t d (s.x b).toNat (s.x a).toNat).advance 4) :=
  congrArg (fun u : State => Host.Outcome.next (u.advance 4)) (if_pos h)

theorem State.elem_insertElem (s : State) (t : ElemType) (d : Reg) (i v : Nat) {e : Nat} (he : e < s.elems (elemWidth t)) :
    (s.insertElem t d i v).elem t d e = if e = i then v % 2 ^ elemWidth t else s.elem t d e := by
  refine (s.elem_setV_packElems t d _ he).trans ?_
  split
  · rfl
  · exact s.elem_mod_two_pow t d e

/-! ## Random elements (R221, R222) -/

/-- An element of packed chunks of 128 bits is one of its chunk. -/
theorem elemAt_packElems_chunk (t : ElemType) (xs : List Nat) (e : Nat) :
    elemAt (packElems 128 xs) (elemWidth t) e =
      elemAt ((xs[e * elemWidth t / 128]?).getD 0) (elemWidth t) (e % (128 / elemWidth t)) := by
  have hend : elemWidth t * (e % (128 / elemWidth t) + 1) ≤ 128 := by
    have hpos : 0 < 128 / elemWidth t :=
      Nat.div_pos (Nat.le_of_dvd (by decide) (elemWidth_dvd_chunk t)) (elemWidth_pos t)
    exact (Nat.mul_le_mul_left _ (Nat.mod_lt e hpos)).trans (Nat.mul_div_le 128 _)
  rw [← elemAt_elemAt (elemWidth_dvd_chunk t) (by decide) (packElems 128 xs) e, elemAt_packElems, elemAt_of_mod_two_pow _ hend]

/-- What elements of patterns become says the patterns only of the register's elements. -/
theorem VectorGives.congr {i : Instr} {s : State} {t : ElemType} {d : Reg} {pg : PReg} {f g : Nat → Nat}
    (h : VectorGives i s t d pg f) (hfg : ∀ e < s.elems (elemWidth t), f e = g e) : VectorGives i s t d pg g := by
  obtain ⟨u, hu, hsame, hfrm, hpc, hels⟩ := h
  exact ⟨u, hu, hsame, hfrm, hpc, State.elementsAre_congr rfl rfl hfg hels⟩

/-- The chunks that VRNGC makes of its keys and counters (R222). -/
def State.keyedChunk (s : State) (a b : Reg) (j : Nat) : Nat :=
  (crng (BitVec.ofNat 64 (elemAt (s.vreg a) 128 j)) (BitVec.ofNat 128 (elemAt (s.vreg b) 128 j))).toNat

/-- VRNGC is an operation on patterns: those of its chunks. -/
theorem vrngcOp_eq_vecInt (d a b : Reg) (pg : PReg) (t : ElemType) (s : State) : vrngcOp d a b pg t s = vecInt t d pg (fun _ e =>
    elemAt (packElems 128 ((List.range (s.vw / 128)).map (s.keyedChunk a b))) (elemWidth t) e) s := by
  rw [vrngcOp, op_bind_ok (op_get s)]
  unfold State.keyedChunk
  rfl

theorem exec_vrngc (d a b : Reg) (pg : PReg) (t : ElemType) (s : State) :
    exec (.vrngc d a b pg t) s = finish (vrngcOp d a b pg t) s := rfl

/-- An element of the register lies in a chunk of it. -/
theorem State.elemAt_chunks (s : State) (t : ElemType) (f : Nat → Nat) {e : Nat} (he : e < s.elems (elemWidth t)) :
    elemAt (packElems 128 ((List.range (s.vw / 128)).map f)) (elemWidth t) e =
      elemAt (f (e * elemWidth t / 128)) (elemWidth t) (e % (128 / elemWidth t)) := by
  rw [elemAt_packElems_chunk, List.getElem?_map, List.getElem?_range (s.chunk_lt (elemWidth_pos t) he)]
  rfl

/-- VRNGC gives the elements of its chunks, of which there is one for each 128 bits of the register. -/
theorem vrngc_gives (d a b : Reg) (pg : PReg) (t : ElemType) (s : State) : VectorGives (.vrngc d a b pg t) s t d pg fun e =>
    elemAt (s.keyedChunk a b (e * elemWidth t / 128)) (elemWidth t) (e % (128 / elemWidth t)) := by
  refine (vecInt_gives ((exec_vrngc d a b pg t s).trans (finish_congr (vrngcOp_eq_vecInt d a b pg t s)))).congr fun e he => ?_
  exact (elemAt_mod_two_pow _ _ _).trans (s.elemAt_chunks t (s.keyedChunk a b) he)

theorem State.lcore_modCore_same (s : State) {id : Nat} (h : (s.ctx? id).isSome = true) (l : Nat) (f : LCore → LCore) :
    (s.modCore id l f).lcore id l = f (s.lcore id l) := by
  obtain ⟨c, hc⟩ := Option.isSome_iff_exists.1 h
  have hmod : s.modCore id l f = s.setCtx id (c.setCore l (f (c.core l))) := by simp only [State.modCore, State.modCtx, hc]
  have hctx : (s.modCore id l f).ctx? id = some (c.setCore l (f (c.core l))) := by
    rw [hmod]
    exact assocGet_assocPut_same _ _ _
  simp [State.lcore, hctx, hc, Ctx.core, Ctx.setCore]

/-- The package whose running logical core took n steps of its generator (R116). -/
def State.afterDraw (s : State) (n : Nat) : State :=
  s.modCore s.act.ctx s.act.lcore fun k => { k with gen := some (s.gen.advance n) }

theorem State.afterDraw_eq_ctxs (s : State) (n : Nat) : s.afterDraw n = { s with ctxs := (s.afterDraw n).ctxs } := by
  unfold State.afterDraw State.modCore State.modCtx
  split <;> rfl

theorem State.gen_afterDraw {s : State} (h : (s.ctx? s.act.ctx).isSome = true) (n : Nat) :
    (s.afterDraw n).gen = s.gen.advance n := by
  rw [State.gen, State.afterDraw, State.modCore_act, s.lcore_modCore_same h]
  rfl

/-- The results of VRNG as patterns: the elements of chunks of 128 bits. -/
def chunkElems (t : ElemType) (run : List (BitVec 128)) (e : Nat) : Rounded :=
  ⟨elemAt (packElems 128 (run.map BitVec.toNat)) (elemWidth t) e % 2 ^ elemWidth t, 0⟩

theorem chunkElems_bits (t : ElemType) (run : List (BitVec 128)) (e : Nat) : (chunkElems t run e).bits % 2 ^ elemWidth t =
    elemAt ((run[e * elemWidth t / 128]?).getD 0).toNat (elemWidth t) (e % (128 / elemWidth t)) := by
  rw [chunkElems, Nat.mod_mod, elemAt_mod_two_pow, elemAt_packElems_chunk, List.getElem?_map]
  cases run[e * elemWidth t / 128]? <;> rfl

/-- VRNG takes its steps, and then writes their output by elements (R221). -/
theorem exec_vrng (d : Reg) (pg : PReg) (t : ElemType) (s : State) : exec (.vrng d pg t) s =
    .next (((s.afterDraw (s.vw / 128)).writeElems d pg (elemWidth t) (chunkElems t (s.gen.draw (s.vw / 128)))).advance 4) := rfl

/-- VRNG gives the elements of the output of its steps, of which it draws one for each 128 bits of the register. -/
theorem vrng_gives (d : Reg) (pg : PReg) (t : ElemType) (s : State) :
    ∃ u, exec (.vrng d pg t) s = .next u ∧ s.sameButVG u ∧ s.drew u (s.vw / 128) ∧ u.act.frm = s.act.frm ∧
      u.act.pc = s.act.pc + 4 ∧ s.elementsAre u t d pg fun e =>
        elemAt (((s.gen.draw (s.vw / 128))[e * elemWidth t / 128]?).getD 0).toNat (elemWidth t) (e % (128 / elemWidth t)) := by
  have hact (n : Nat) : (s.afterDraw n).act = s.act := s.modCore_act _ _ _
  have hcur (n : Nat) : (s.afterDraw n).cur = s.cur := s.modCore_cur _ _ _
  refine ⟨_, exec_vrng d pg t s, ?same, ⟨fun h0 => ?none, fun _ hctx => s.gen_afterDraw hctx _⟩, ?frm, ?pc, ?elements⟩
  case same => rw [s.afterDraw_eq_ctxs]; rfl
  case none => have := s.vw_cases; omega
  case frm =>
    rw [State.advance_act_frm, State.writeElems_act_frm, hact]
    exact (congrArg _ (activeFlags_zero _ _ _)).trans (frmRaise_zero _)
  case pc => rw [State.advance_act_pc, State.writeElems_act_pc, hact]; rfl
  case elements =>
    exact State.elementsAre_congr (hact _) (hcur _) (fun e _ => chunkElems_bits t _ e)
      ((s.afterDraw _).elementsAre_writeElems t d pg _)

/-! ## The statement -/

/-- Settles O36: the generators, by their equations; then the element that a scalar register names, read and replaced, and the
random forms, whose elements are those of chunks of 128 bits. -/
theorem elementAccessAndRandom : Obligations.ElementAccessAndRandom := by
  refine ⟨fun g n e j l => ?generator, fun key ctr c0 c1 c2 c3 k0 k1 n => ?counter, fun d a b pg t s => ?forms⟩
  case generator =>
    exact ⟨rfl, Gen.next_ne_zero, g.output_low, g.output_high, rfl, rfl, rfl, rfl, fun v => srBits_of_getElem?, rfl,
      Gen.jumps_succ l _⟩
  case counter => exact ⟨rfl, by rw [Crng.rounds_succ, Crng.round_eq], crng_eq key ctr⟩
  case forms =>
    intro w i named keyed drawn
    have hnamed : s.namesElem t pg i = true ↔ named := s.namesElem_iff t pg i
    refine ⟨fun h => ?extNamed, fun h => ?extUnnamed, fun h => ?insUnnamed, fun h => ?insNamed, vrng_gives d pg t s,
      vrngc_gives d a b pg t s⟩
    case extNamed => exact (vext_writes d a b pg t s).trans (by rw [if_pos (hnamed.2 h)])
    case extUnnamed => exact (vext_writes d a b pg t s).trans (by rw [if_neg (mt hnamed.1 h)])
    case insUnnamed => exact vins_passes (mt hnamed.1 h)
    case insNamed =>
      exact ⟨_, exec_vins_named (hnamed.2 h), rfl, rfl, rfl, fun r hr => s.vreg_setV_other hr _,
        fun e he => s.elem_insertElem t d i _ he⟩

end Sys2Proof.Machine
end
